-- ==== Sys2Proof/Word.lean ====
section
/-! DEFINITION. The words of the part: octets, samples with their slot status, link numbers.
Only types and their plainest arithmetic stand here. -/

namespace Sys2Proof

/-- One octet of a message, page or service word. -/
abbrev Byte := BitVec 8

/-- A sample, 24-bit two's complement (00_scope, Conventions). -/
abbrev Sample := BitVec 24

/-- The raw 32 bits of a slot word or service word, octet 1 in bits 31 to 24 (R194). -/
abbrev Word := BitVec 32

/-- Links L0 to L7. -/
abbrev Link := Fin 8

/-- Players P0 to P7. -/
abbrev Player := Fin 8

/-- Recorder 0 and recorder 1. -/
abbrev Rec := Fin 2

/-- The two-bit status carried with each sample (R74). -/
inductive SlotStatus where
  | idle
  | live
  | subst
  deriving DecidableEq, Repr, Inhabited

/-- A sample with its slot status: one payload slot as the engine sees it (R55). -/
structure Slot where
  sample : Sample
  status : SlotStatus
  deriving DecidableEq, Repr, Inhabited

end Sys2Proof
end

