-- ==== Sys2Proof/Syntax.lean ====
section
/-! DEFINITION. The commands: one constructor of `Instr` per row of spec/opcode_table.json.
The table gives its rows no operands; an operand here says which link, player, recorder, line,
generator or block the event is of, or what arrives from outside the part. -/

namespace Sys2Proof

/-- The blocks that exchange requests, results, resets and reports (00_scope, Blocks). -/
inductive Block where
  | lp (l : Link)
  | mgu
  | reu
  | fe
  | sst
  | plb
  | rcu
  | evu
  deriving DecidableEq, Repr

/-- The two blink generators (R190). -/
inductive Blink where
  | fast
  | slow
  deriving DecidableEq, Repr

/-- The steps of the part, in the order of spec/opcode_table.json. -/
inductive Instr where
  /-- HARDWARE_RESET (R93). -/
  | hardwareReset (msel : Bool) (unit : BitVec 4)
  /-- MEMORY_CLEAR_COMPLETE (R130). -/
  | memoryClearComplete
  /-- FE_FRAME_BOUNDARY (R50). -/
  | feFrameBoundary
  /-- HAND_OFF (R51). -/
  | handOff
  /-- LINK_VIEW_NOTICE (R10). -/
  | linkViewNotice (l : Link)
  /-- ACTIVE_TABLE_COPY (R26). -/
  | activeTableCopy
  /-- COPY_ANSWER (R27). -/
  | copyAnswer
  /-- LINK_VIEW_SNAPSHOT (R40). -/
  | linkViewSnapshot
  /-- SNAPSHOT_ANSWER (R42). -/
  | snapshotAnswer
  /-- GAIN_ADJUST_APPLY (R47). -/
  | gainAdjustApply
  /-- GAIN_ADJUST_ANSWER (R48). -/
  | gainAdjustAnswer
  /-- ADOPTION_NOTICE (R44). -/
  | adoptionNotice
  /-- DISCARD_NOTICE (R46). -/
  | discardNotice
  /-- CLAIM_QUERY (R70). -/
  | claimQuery
  /-- CLAIM_ANSWER (R70). -/
  | claimAnswer
  /-- HOLD_TIMER_EXPIRY (R33). -/
  | holdTimerExpiry
  /-- LINK_LOSS_NOTICE (R35). -/
  | linkLossNotice (l : Link)
  /-- PLB_FRAME_BOUNDARY (R145). -/
  | plbFrameBoundary
  /-- PLAYER_READ (R131). -/
  | playerRead (p : Player)
  /-- RECORDER_WRITE (R131). -/
  | recorderWrite
  /-- HOLD_REQUEST (R136). -/
  | holdRequest
  /-- RELEASE_NOTICE (R136). -/
  | releaseNotice
  /-- REGION_REQUEST (R137). -/
  | regionRequest
  /-- REGION_RELEASE (R137). -/
  | regionRelease
  /-- RUNNING_NOTICE (R138). -/
  | runningNotice
  /-- HOLD_ANSWER (R148). -/
  | holdAnswer
  /-- REGION_ANSWER (R159). -/
  | regionAnswer
  /-- RECORDER_INPUT_WORD (R157). -/
  | recorderInputWord (r : Rec)
  /-- RECEIVED_FRAME (R78). -/
  | receivedFrame (l : Link) (service : Word) (payload : Vector Word 64)
  /-- ALIGNMENT_ACQUIRED (R79). -/
  | alignmentAcquired (l : Link)
  /-- ALIGNMENT_LOSS (R92). -/
  | alignmentLoss (l : Link)
  /-- WINDOW_PASS (R105). -/
  | windowPass (l : Link)
  /-- WINDOW_FAIL (R105). -/
  | windowFail (l : Link)
  /-- TRAIN_LIMIT (R107). -/
  | trainLimit (l : Link)
  /-- SIGNAL_DETECT (R90). -/
  | signalDetect (l : Link)
  /-- SIGNAL_LOSS (R90). -/
  | signalLoss (l : Link)
  /-- NEGOTIATION_TIMER_EXPIRY (R102). -/
  | negotiationTimerExpiry (l : Link)
  /-- RESTORE_TIMER_EXPIRY (R110). -/
  | restoreTimerExpiry (l : Link)
  /-- REST_HOLD_TIMER_EXPIRY (R119). -/
  | restHoldTimerExpiry (l : Link)
  /-- REST_ENTERED (R121). -/
  | restEntered (l : Link)
  /-- CLEAR_RUN_COMPLETE (R125). -/
  | clearRunComplete (l : Link)
  /-- WAKE_TIMER_EXPIRY (R126). -/
  | wakeTimerExpiry (l : Link)
  /-- USE_NOTICE (R67). -/
  | useNotice (l : Link)
  /-- LINK_FRAME_TRANSMIT (R75). -/
  | linkFrameTransmit (l : Link)
  /-- RESPONSE_SENT (R86). -/
  | responseSent (l : Link)
  /-- SENT_REPORT (R174). -/
  | sentReport (l : Link)
  /-- DISCARD_REPORT (R87). -/
  | discardReport (l : Link)
  /-- STOP_NOTICE (R173). -/
  | stopNotice (l : Link)
  /-- MESSAGE_TAKEN (R166). -/
  | messageTaken (l : Link)
  /-- MESSAGE_DISCARD_REPORT (R166). -/
  | messageDiscardReport (l : Link)
  /-- OWNER_RESULT (R170). -/
  | ownerResult (b : Block)
  /-- EVENTS_WAITING_QUERY (R184). -/
  | eventsWaitingQuery
  /-- HELD_MOVE (R112). -/
  | heldMove (l : Link)
  /-- IDENTIFY (R175). -/
  | identify
  /-- NAME_SET (R176). -/
  | nameSet
  /-- RESET_ROUTING (R178). -/
  | resetRouting
  /-- RESET_DEVICE (R179). -/
  | resetDevice
  /-- RESET_ACK (R177). -/
  | resetAck (b : Block)
  /-- FE_RESET (R71). -/
  | feReset
  /-- REU_RESET (R46). -/
  | reuReset
  /-- PLB_RESET (R164). -/
  | plbReset
  /-- RCU_RESET (R165). -/
  | rcuReset
  /-- EVU_RESET (R192). -/
  | evuReset
  /-- LP_RESET (R117). -/
  | lpReset (l : Link)
  /-- LINK_SET (R111). -/
  | linkSet (l : Link)
  /-- LINK_STATUS (R115). -/
  | linkStatus (l : Link)
  /-- LINK_RENEGOTIATE (R113). -/
  | linkRenegotiate (l : Link)
  /-- PARTNER_READ (R116). -/
  | partnerRead (l : Link)
  /-- EDIT_OPEN (R27). -/
  | editOpen
  /-- ENTRY_PUT (R29). -/
  | entryPut
  /-- ENTRY_DELETE (R30). -/
  | entryDelete
  /-- ENTRY_READ_ACTIVE (R17). -/
  | entryReadActive
  /-- ENTRY_READ_STAGING (R31). -/
  | entryReadStaging
  /-- TABLE_SUMMARY_ACTIVE (R19). -/
  | tableSummaryActive
  /-- TABLE_SUMMARY_STAGING (R32). -/
  | tableSummaryStaging
  /-- TABLE_CHECK (R41). -/
  | tableCheck
  /-- TABLE_COMMIT (R42). -/
  | tableCommit
  /-- EDIT_ABANDON (R36). -/
  | editAbandon
  /-- GAIN_ADJUST (R47). -/
  | gainAdjust
  /-- ENGINE_STATUS (R69). -/
  | engineStatus
  /-- MEMORY_WRITE (R132). -/
  | memoryWrite
  /-- MEMORY_READ (R134). -/
  | memoryRead
  /-- CLIP_DEFINE (R139). -/
  | clipDefine
  /-- CLIP_DELETE (R140). -/
  | clipDelete
  /-- CLIP_READ (R141). -/
  | clipRead
  /-- PLAY_NOW (R149). -/
  | playNow
  /-- PLAY_NEXT (R150). -/
  | playNext
  /-- STOP_NOW (R152). -/
  | stopNow
  /-- STOP_END (R153). -/
  | stopEnd
  /-- PLAYER_STATUS (R155). -/
  | playerStatus
  /-- RECORD_SETUP (R159). -/
  | recordSetup
  /-- RECORD_START (R160). -/
  | recordStart
  /-- RECORD_STOP (R161). -/
  | recordStop
  /-- RECORDER_STATUS (R163). -/
  | recorderStatus
  /-- EVENTS_READ (R185). -/
  | eventsRead
  /-- COUNTERS_READ (R186). -/
  | countersRead
  /-- COUNTER_QUERY (R186). -/
  | counterQuery (l : Link)
  /-- COUNTER_ANSWER (R186). -/
  | counterAnswer
  /-- INDICATOR_SET (R191). -/
  | indicatorSet
  /-- EVENT_REPORT (R183). -/
  | eventReport (b : Block)
  /-- COUNTER_NOTICE (R66). -/
  | counterNotice
  /-- STATE_NOTICE (R188). -/
  | stateNotice (l : Link)
  /-- COMPLETION_REPORT (R189). -/
  | completionReport (l : Link)
  /-- PULSE_TIMER_EXPIRY (R189). -/
  | pulseTimerExpiry (n : Fin 4)
  /-- BLINK_PHASE (R190). -/
  | blinkPhase (g : Blink)
  /-- PLAYER_READ_ANSWER (R145). -/
  | playerReadAnswer (p : Player)
  deriving DecidableEq, Repr

end Sys2Proof
end

