-- ==== Sys2Proof/Config.lean ====
section
/-! DEFINITION. What one part fixes, the times of the spec in ticks, and the free values.
A free value is an opaque constant: nothing in Lean can evaluate it. -/

namespace Sys2Proof

/-- R175: the 48-bit serial of the part, fixed at manufacture and different for every part.
Free: every value is possible (log entry 5). -/
opaque Config.unitSerial : BitVec 48

/-- R130: how many words the memory clear writes in the tick that begins at a given address.
"About 3 ms" does not fix the pace, so it is free (log entry 6). -/
opaque Config.clearPace : Nat → Nat

/-- The word a PLAYER source reads for a frame the Player Bank has not posted.
R145 rules that schedule out, so the value is free (player, frame; log entry 7). -/
opaque Config.latePlayerWord : Player → Nat → Slot

/-- Ticks of the internal time base in one millisecond; a tick is 250 microseconds (log entry 2). -/
def Config.ticksPerMs : Nat := 4

/-- R33, R110: one second of the internal time base. -/
def Config.ticksPerSecond : Nat := 4000

/-- R102: the negotiation timer, 500 ms. -/
def Config.negotiationTicks : Nat := 2000

/-- R124: the wake timer, 100 ms. -/
def Config.wakeTicks : Nat := 400

/-- R189: an indicator pulse, 50 ms. -/
def Config.pulseTicks : Nat := 200

/-- R190: one phase of the FAST blink generator, 125 ms. -/
def Config.fastTicks : Nat := 500

/-- R190: one phase of the SLOW blink generator, 500 ms. -/
def Config.slowTicks : Nat := 2000

/-- R129: the number of words of sample memory. -/
def Config.memoryWords : Nat := 131072

end Sys2Proof
end

