-- ==== Sys2Proof/Machine/State.lean ====
section
/-! DEFINITION. The state of the part: the state of each block, the messages that have been sent
between blocks and not yet taken, the queue of commands, and the state after hardware reset. -/

namespace Sys2Proof.Machine

/-! ## Route table (01_the_route_table) -/

/-- A sparse table: positions or addresses, strictly rising, each with what it holds. -/
abbrev Table (α : Type) := List (Nat × α)

/-- R2: a SPAN entry. -/
structure Span where
  srcLink : Link
  srcFirst : Nat
  dstLink : Link
  dstFirst : Nat
  len : Nat
  deriving DecidableEq, Repr

/-- R4: the source of a term. -/
inductive Source where
  | link (l : Link) (slot : Nat)
  | player (p : Player)
  deriving DecidableEq, Repr

/-- R3: the destination of a MIX entry. -/
inductive Dest where
  | link (l : Link) (slot : Nat)
  | recorder (r : Rec)
  deriving DecidableEq, Repr

/-- R4: one term of a MIX entry: its source and gain code. -/
structure Term where
  source : Source
  gain : Nat
  deriving DecidableEq, Repr

/-- R1: the record of one route table position. -/
inductive Entry where
  | span (s : Span)
  | mix (dest : Dest) (terms : List Term)
  deriving DecidableEq, Repr

/-- R12: the reach status of an active entry (`part` is the spec's PARTIAL). -/
inductive Reach where
  | full
  | part
  | none
  deriving DecidableEq, Repr

/-- R16: a term of an active MIX entry with its glide state; the target is the term's gain code. -/
structure LiveTerm where
  source : Source
  current : Nat
  target : Nat
  deriving DecidableEq, Repr

/-- R12, R15, R16: an active entry with its status. -/
inductive ActiveEntry where
  | span (s : Span) (reach : Reach)
  | mix (dest : Dest) (terms : List LiveTerm) (sat : Nat) (reach : Reach)
  deriving DecidableEq, Repr

/-- R10: the state classes of a link view. -/
inductive ViewClass where
  | up
  | rest
  | wake
  | out
  deriving DecidableEq, Repr

/-- R10: a link view, and the notice that writes it. -/
structure View where
  cls : ViewClass
  count : Nat
  deriving DecidableEq, Repr

/-! ## Requests and results (09_management_messages) -/

/-- R169: a reference names the link and distinguishes the request from every other. -/
structure Ref where
  link : Link
  num : Nat
  deriving DecidableEq, Repr

/-- R202: the requests. -/
inductive RequestKind where
  | identify | nameSet | reset
  | linkSet | linkStatus | linkRenegotiate | partnerRead
  | editOpen | entryPut | entryDelete | entryRead | tableSummary | tableCheck | tableCommit
  | editAbandon | gainAdjust | engineStatus
  | memoryWrite | memoryRead | clipDefine | clipDelete | clipRead
  | play | stop | playerStatus
  | recordSetup | recordStart | recordStop | recorderStatus
  | eventsRead | countersRead | indicatorSet
  deriving DecidableEq, Repr

/-- R169: a request as the Management Unit hands it to its owner. -/
structure Req where
  ref : Ref
  kind : RequestKind
  tag : Byte
  body : List Byte
  deriving DecidableEq, Repr

/-- R199: the result codes. -/
inductive ResultCode where
  | ok | busy | unknown | badLength | badField | owned | notOwner | pending | refused | inUse
  | noSpace | notFound | state | aborted
  deriving DecidableEq, Repr

/-- R174: what waits for a response to leave its link. -/
inductive Deferred where
  | heldMove
  | reset
  deriving DecidableEq, Repr

/-- R169: a result as an owner hands it to the Management Unit. -/
structure Result where
  ref : Ref
  code : ResultCode
  body : List Byte
  deferred : Option Deferred
  deriving DecidableEq, Repr

/-- R177: the two scopes of the RESET request. -/
inductive Scope where
  | routing
  | device
  deriving DecidableEq, Repr

/-- R177: a reset handed to a block. The requester's own Link Port takes its reset as a deferred
effect (R174), which no acknowledgment answers. -/
structure ResetOrder where
  block : Block
  scope : Scope
  requester : Link
  ack : Bool
  deriving DecidableEq, Repr

/-! ## Link Port (04, 05, 06) -/

/-- R10, 00_scope: the grades. -/
inductive Grade where
  | g16
  | g32
  | g64
  deriving DecidableEq, Repr

/-- A set of grades: an advertisement or a downshift record. -/
structure Grades where
  g64 : Bool
  g32 : Bool
  g16 : Bool
  deriving DecidableEq, Repr

/-- R89: the states of a link. -/
inductive LinkState where
  | disabled | down | listen | negotiate | train | up | rest | wake
  deriving DecidableEq, Repr

/-- R77: the two sync patterns. -/
inductive Sync where
  | a
  | b
  deriving DecidableEq, Repr

/-- R111: the configuration LINK SET writes. -/
structure LinkConfig where
  enable : Bool
  maxGrade : Grade
  threshold : Nat
  restoreTime : Nat
  restHold : Nat
  deriving DecidableEq, Repr

/-- R81, R114: the six link counters. -/
structure Counters where
  serviceErrors : Nat
  codeErrors : Nat
  discarded : Nat
  alignLosses : Nat
  trainFailures : Nat
  downshifts : Nat
  deriving DecidableEq, Repr

/-- R79, R80: the receiver's alignment. -/
structure Align where
  acqRun : Nat
  prev : Option Sync
  expected : Sync
  badRun : Nat
  deriving DecidableEq, Repr

/-- R82: the message assembly logic and its buffer. -/
inductive Assembly where
  | empty
  | assembling (buf : List Byte)
  | skipping
  deriving DecidableEq, Repr

/-- R94: the named fields of a base page, without ACK. -/
structure BasePage where
  advert : Grades
  mgr : Bool
  rcap : Bool
  nextCount : Nat
  kind : BitVec 16
  unit : BitVec 4
  serial : BitVec 16
  deriving DecidableEq, Repr

/-- R95, R96: the own pages of a stay in NEGOTIATE (base page without ACK first) and the page being
sent, with the quarter to send next. -/
structure PageTx where
  pages : List (List Byte)
  index : Nat
  quarter : Nat
  now : List Byte
  deriving DecidableEq, Repr

/-- R97 to R101: what the Link Port holds of the partner's pages in NEGOTIATE. -/
structure PageRx where
  part : List Byte
  lastBase : Option BasePage
  base : Option BasePage
  lastNext : Vector (Option (List Byte)) 4
  next : Vector (Option (List Byte)) 4
  ownAck : Bool
  partnerAck : Bool
  failReported : Bool
  deriving DecidableEq, Repr

/-- R103: the partner record. -/
structure PartnerRecord where
  base : BasePage
  label : Option (List Byte)
  agreed : Grade
  current : Bool
  deriving DecidableEq, Repr

/-- R105: the training window: frames judged and error frames. -/
structure Window where
  judged : Nat
  errors : Nat
  deriving DecidableEq, Repr

/-- R105, R107: the frames received in this stay in TRAIN and its window, once open. -/
structure Train where
  frames : Nat
  window : Option Window
  deriving DecidableEq, Repr

/-- R118 to R120: the rest state of a link. -/
structure RestState where
  ownRst : Bool
  partnerRst : Bool
  setRun : Nat
  clearRun : Nat
  used : Bool
  deriving DecidableEq, Repr

/-- The Link Port's timers: stopped, or the ticks since the start (R102, R110, R119, R124). -/
structure LinkTimers where
  neg : Option Nat
  restore : Option Nat
  restHold : Option Nat
  wake : Option Nat
  deriving DecidableEq, Repr

/-- R85: the two places of the transmit list. -/
inductive Place where
  | response
  | busy
  deriving DecidableEq, Repr

/-- R85: a message in the transmit list, with its check appended, and the request it answers
(none for a BUSY response). -/
structure TxMsg where
  place : Place
  ref : Option Ref
  octets : List Byte
  deriving DecidableEq, Repr

/-- R73: a frame on the transmit pair: its service word and payload slot words. -/
structure LineFrame where
  service : Word
  payload : List Word
  deriving DecidableEq, Repr

/-- One Link Port. -/
structure LP where
  state : LinkState
  held : Bool
  cfg : LinkConfig
  advert : Grades
  removed : Grades
  attempts : Nat
  agreed : Option Grade
  partner : Option PartnerRecord
  align : Align
  counters : Counters
  negTimeouts : Nat
  asm : Assembly
  txq : List TxMsg
  txSent : Nat
  nextSync : Sync
  pageTx : PageTx
  pageRx : PageRx
  train : Train
  rdy : Bool
  rest : RestState
  timers : LinkTimers
  heldMove : Bool
  rx : Option (List Slot)
  txNow : Option (List Slot)
  txNext : Option (List Slot)
  line : Option LineFrame
  deriving DecidableEq, Repr

/-! ## Management Unit (09) -/

/-- R169: the in-progress record: reference, request code as received, tag. -/
structure InProgress where
  ref : Ref
  code : Byte
  tag : Byte
  deriving DecidableEq, Repr

/-- R171: a built response the Link Port could not yet accept. -/
structure HeldResponse where
  ref : Ref
  octets : List Byte
  deferred : Option Deferred
  deriving DecidableEq, Repr

/-- R174: the closing mark: the effect and the response it waits for. -/
structure Closing where
  effect : Deferred
  ref : Ref
  deriving DecidableEq, Repr

/-- What the Management Unit holds for each link. -/
structure MguLink where
  inProgress : Option InProgress
  heldResp : Option HeldResponse
  busyWaiting : Bool
  closing : Option Closing
  deriving DecidableEq, Repr

/-- R177: the RESET being carried out. `effectDone` is set when the requester's Link Port has been
handed its reset before the response was built (log entry 14). -/
structure CurrentReset where
  ref : Ref
  scope : Scope
  waiting : List Block
  effectDone : Bool
  deriving DecidableEq, Repr

/-- The Management Unit. `waitingResets` are the RESETs taken while another is being carried out, oldest
first (R177). -/
structure MGU where
  links : Vector MguLink 8
  label : List Byte
  curReset : Option CurrentReset
  waitingResets : List Req
  eventsWaiting : Nat
  nextRef : Nat
  deriving DecidableEq, Repr

/-! ## Route Edit Unit (02) -/

/-- R25: a claim is HELD, with the ticks since the last start of its hold timer, or PENDING. -/
inductive ClaimPhase where
  | held (elapsed : Nat)
  | pending
  deriving DecidableEq, Repr

/-- R23 to R25: the edit claim and the staging table, which exists while a claim does. -/
structure Claim where
  owner : Link
  holdTime : Nat
  phase : ClaimPhase
  staging : Table Entry
  touched : Table Unit
  deriving DecidableEq, Repr

/-- R42, R46: a pending or owed record of a commit handed to the Frame Engine. -/
structure CommitRecord where
  number : Nat
  cost : Nat
  count : Nat
  owner : Link
  ref : Ref
  tag : Byte
  lost : Bool
  deriving DecidableEq, Repr

/-- R26: the outstanding transaction with the Frame Engine and the request it serves. A copy is
`dropped` when a reset or the sender's loss was taken meanwhile. -/
inductive Txn where
  | copy (req : Req) (hold : Nat) (dropped : Bool)
  | snapshot (req : Req) (commit : Bool)
  | gain (req : Req) (pos term code : Nat)
  deriving DecidableEq, Repr

/-- The Route Edit Unit. -/
structure REU where
  claim : Option Claim
  pending : Option CommitRecord
  owed : List CommitRecord
  txn : Option Txn
  nextCommit : Nat
  deriving DecidableEq, Repr

/-! ## Frame Engine (03) -/

/-- R51: a table handed off to the Frame Engine. -/
structure HandOff where
  table : Table Entry
  cost : Nat
  owner : Link
  number : Nat
  deriving DecidableEq, Repr

/-- R70: the fields of an ENGINE STATUS that waits for the REU's answer. -/
structure StatusWait where
  req : Req
  counter : BitVec 32
  count : Nat
  cost : Nat
  parts : Nat
  nones : Nat
  satSum : Nat
  deriving DecidableEq, Repr

/-- The Frame Engine. -/
structure FE where
  active : Table ActiveEntry
  cost : Nat
  queue : List HandOff
  view : Vector View 8
  used : Vector Bool 8
  counter : BitVec 32
  status : List StatusWait
  period : Nat
  deriving DecidableEq, Repr

/-! ## Sample Store (07) -/

/-- R135: a clip record. -/
structure Clip where
  start : Nat
  len : Nat
  loop : Option Nat
  deriving DecidableEq, Repr

/-- R137: a region record. -/
structure Region where
  start : Nat
  len : Nat
  running : Bool
  deriving DecidableEq, Repr

/-- The Sample Store. `clear` is the address the memory clear writes next, while it runs. -/
structure SST where
  mem : Table Sample
  clear : Option Nat
  clips : Vector (Option Clip) 32
  holds : Vector Nat 32
  regions : Vector (Option Region) 2
  deriving DecidableEq, Repr

/-! ## Player Bank and Recorder Unit (08) -/

/-- R144: a queue place: the clip id and the copy of its record. -/
structure QueuePlace where
  id : Fin 32
  clip : Clip
  deriving DecidableEq, Repr

/-- R144: a player. It is PLAYING exactly when its queue is not empty. `reading` is set while a read
for its head place is outstanding (R145). -/
structure PlayerState where
  queue : List QueuePlace
  pos : Nat
  stopAtEnd : Bool
  reading : Bool
  deriving DecidableEq, Repr

/-- R145: the words posted for one frame, each absent until it is posted. -/
structure Posted where
  frame : Nat
  words : Vector (Option Slot) 8
  deriving DecidableEq, Repr

/-- R147: a PLAY that waits for its hold. -/
structure PlayWait where
  req : Req
  player : Player
  clip : Fin 32
  next : Bool
  aborted : Bool
  deriving DecidableEq, Repr

/-- The Player Bank. -/
structure PLB where
  players : Vector PlayerState 8
  cur : Option Posted
  prev : Option Posted
  waiting : Option PlayWait
  period : Nat
  deriving DecidableEq, Repr

/-- R156: the states of a recorder. -/
inductive RecState where
  | idle | set | running | full
  deriving DecidableEq, Repr

/-- R156: a recorder; `region` is its start and length, `once` its mode (ONCE when set). -/
structure Recorder where
  state : RecState
  region : Option (Nat × Nat)
  once : Bool
  pos : Nat
  wrapped : Bool
  deriving DecidableEq, Repr

/-- R158: a RECORD SETUP that waits for its region. -/
structure SetupWait where
  req : Req
  recorder : Rec
  start : Nat
  len : Nat
  once : Bool
  aborted : Bool
  deriving DecidableEq, Repr

/-- The Recorder Unit. -/
structure RCU where
  recorders : Vector Recorder 2
  waiting : Option SetupWait
  deriving DecidableEq, Repr

/-! ## Event Unit (10) -/

/-- R182: the event kinds. -/
inductive EventKind where
  | start | linkUp | linkLost | linkDown | negotiationFailed | downshift | trainFailing
  | advertRestored | restEntered | wakeFailed | claimLapsed | commitAdopted | routingReset
  | playerDone | recorderFull
  deriving DecidableEq, Repr

/-- R183: an event report; the Frame Engine's carry their own frame stamp. -/
structure Report where
  kind : EventKind
  subject : Nat
  detail : Nat
  stamp : Option (BitVec 32)
  deriving DecidableEq, Repr

/-- R182: a stored event record. -/
structure EventRecord where
  seq : BitVec 16
  stamp : BitVec 32
  kind : EventKind
  subject : Nat
  detail : Nat
  deriving DecidableEq, Repr

/-- R188: an indicator line's configuration and pulse timer. -/
structure IndLine where
  sel : Link
  pulse : Bool
  fast : Bool
  slow : Bool
  steady : Bool
  pulseTimer : Option Nat
  deriving DecidableEq, Repr

/-- R190: a blink generator: its phase and the ticks in it. -/
structure Generator where
  on : Bool
  elapsed : Nat
  deriving DecidableEq, Repr

/-- The Event Unit. -/
structure EVU where
  events : List EventRecord
  seq : BitVec 16
  overflow : Nat
  linkCopy : Vector LinkState 8
  frameCopy : BitVec 32
  lines : Vector IndLine 4
  fast : Generator
  slow : Generator
  query : Option Req
  deriving DecidableEq, Repr

/-! ## Messages between blocks, sent and not yet taken -/

/-- R166: what a Link Port sends the Management Unit. -/
inductive LpMsg where
  | message (octets : List Byte) (mgr : Bool)
  | sent (place : Place) (ref : Option Ref)
  | discarded (place : Place) (ref : Option Ref)
  | stopped
  deriving DecidableEq, Repr

/-- R26: a transaction request on its way to the Frame Engine. -/
inductive Ask where
  | copy
  | snapshot
  | gain (pos term code : Nat)
  deriving DecidableEq, Repr

/-- R26: the Frame Engine's answer on its way to the REU. -/
inductive FeAnswer where
  | copy (table : Table Entry)
  | snapshot (views : Vector View 8)
  | gain (found : Bool)
  deriving DecidableEq, Repr

/-- R44, R46: an adoption notice, with its frame, or a discard notice. -/
structure Fate where
  number : Nat
  adopted : Option (BitVec 32)
  deriving DecidableEq, Repr

/-- R136: what the Player Bank sends the Sample Store, in order. -/
inductive PlbMsg where
  | hold (clip : Fin 32)
  | release (clip : Fin 32)
  deriving DecidableEq, Repr

/-- R131: a player read. -/
structure PlayerRead where
  player : Player
  frame : Nat
  addr : Nat
  deriving DecidableEq, Repr

/-- R131: the answer to a player read. -/
structure ReadAnswer where
  player : Player
  frame : Nat
  word : Sample
  deriving DecidableEq, Repr

/-- R131, R137, R138: what the Recorder Unit sends the Sample Store, in order. -/
inductive RcuMsg where
  | regionRequest (r : Rec) (start len : Nat)
  | regionRelease (r : Rec)
  | running (r : Rec) (on : Bool)
  | write (addr : Nat) (word : Sample)
  deriving DecidableEq, Repr

/-- R137: the answer to a region request. -/
inductive RegionAnswer where
  | granted
  | refusedClip (id : Nat)
  | refusedRecorder (r : Nat)
  deriving DecidableEq, Repr

/-- Every message between blocks that has been sent and not yet taken, oldest first. `lpToMgu` holds what
the Link Ports sent the Management Unit, each item with its link, in the order of arrival (R166). -/
structure Mail where
  reqs : List (Block × Req)
  results : List (Block × Result)
  resets : List ResetOrder
  acks : List Block
  lpToMgu : List (Link × LpMsg)
  discardOrders : Vector Nat 8
  moveOrders : Vector Nat 8
  viewNotices : Vector (List View) 8
  lossNotices : Vector Nat 8
  stateNotices : Vector (List LinkState) 8
  completions : Vector Nat 8
  reports : List (Block × Report)
  counterNotices : List (BitVec 32)
  useNotices : Vector (List Bool) 8
  reuAsk : Option Ask
  handOffs : List HandOff
  feAnswer : Option FeAnswer
  fates : List Fate
  claimQueries : Nat
  claimAnswers : List (Option Link × Bool)
  inputWords : Vector (List Slot) 2
  plbToSst : List PlbMsg
  playerReads : List PlayerRead
  holdAnswer : Option (Option Clip)
  readAnswers : List ReadAnswer
  rcuToSst : List RcuMsg
  regionAnswer : Option RegionAnswer
  counterQuery : Option (Link × Bool)
  counterAnswer : Option (Link × Counters)
  deriving DecidableEq, Repr

/-- The state of the part. `pending` is the queue of commands that wait, first in first out. -/
structure State where
  msel : Bool
  unit : BitVec 4
  lp : Vector LP 8
  mgu : MGU
  reu : REU
  fe : FE
  sst : SST
  plb : PLB
  rcu : RCU
  evu : EVU
  mail : Mail
  pending : List Instr
  deriving DecidableEq, Repr

/-- Why a step can stop with a fault. -/
inductive Fault where
  /-- Raised for an address above 131,071, which R129 says does not exist, by PLAYER_READ and
  RECORDER_WRITE, and by the events of the Player Bank that first complete its outstanding reads. Safe: no run from reset reaches it (log entry 19). -/
  | noSuchAddress
  deriving DecidableEq, Repr

/-- Why a step can be refused. -/
inductive Refusal where
  /-- Raised by `exec` for a command that has no meaning yet. Safe. No arm raises it. -/
  | notModelled (mnemonic : String)
  deriving DecidableEq, Repr

/-! ## Hardware reset -/

/-- The six counters at 0 (R88, R117). -/
def Counters.zero : Counters := ⟨0, 0, 0, 0, 0, 0⟩

/-- No page received (R98). -/
def PageRx.empty : PageRx :=
  { part := [], lastBase := none, base := none, lastNext := Vector.replicate 4 none,
    next := Vector.replicate 4 none, ownAck := false, partnerAck := false, failReported := false }

/-- No page to send (R117: page state cleared). -/
def PageTx.empty : PageTx := ⟨[], 0, 0, []⟩

/-- R117: the configuration after hardware reset and RESET DEVICE. -/
def LinkConfig.default : LinkConfig :=
  { enable := true, maxGrade := .g64, threshold := 3, restoreTime := 4, restHold := 0 }

/-- R88, R117, R128: a Link Port after hardware reset, held in DOWN with the restore timer started. -/
def LP.reset : LP :=
  { state := .down, held := true, cfg := LinkConfig.default, advert := ⟨true, true, true⟩,
    removed := ⟨false, false, false⟩, attempts := 0, agreed := none, partner := none,
    align := ⟨0, none, .a, 0⟩, counters := Counters.zero, negTimeouts := 0, asm := .empty,
    txq := [], txSent := 0, nextSync := .a, pageTx := PageTx.empty, pageRx := PageRx.empty,
    train := ⟨0, none⟩, rdy := false, rest := ⟨false, false, 0, 0, false⟩,
    timers := ⟨none, some 0, none, none⟩, heldMove := false, rx := none, txNow := none,
    txNext := none, line := none }

/-- R181: no record for a link. -/
def MguLink.empty : MguLink := ⟨none, none, false, none⟩

/-- R181: the Management Unit after hardware reset. -/
def MGU.reset : MGU :=
  { links := Vector.replicate 8 MguLink.empty, label := [], curReset := none,
    waitingResets := [], eventsWaiting := 0, nextRef := 0 }

/-- R49: the Route Edit Unit after hardware reset. -/
def REU.reset : REU := ⟨none, none, [], none, 0⟩

/-- R10: the view of a link in an OUT state. -/
def View.outOfReach : View := ⟨.out, 0⟩

/-- R71: the Frame Engine after hardware reset. -/
def FE.reset : FE :=
  { active := [], cost := 0, queue := [], view := Vector.replicate 8 View.outOfReach,
    used := Vector.replicate 8 false, counter := 0, status := [], period := 0 }

/-- R143: the Sample Store when the part leaves reset, with the clear about to write address 0.
The words the clear has not reached keep what they held. -/
def SST.reset (mem : Table Sample) : SST :=
  { mem := mem, clear := some 0, clips := Vector.replicate 32 none,
    holds := Vector.replicate 32 0, regions := Vector.replicate 2 none }

/-- R144: an IDLE player. -/
def PlayerState.idle : PlayerState := ⟨[], 0, false, false⟩

/-- R164: the Player Bank after hardware reset. -/
def PLB.reset : PLB := ⟨Vector.replicate 8 PlayerState.idle, none, none, none, 0⟩

/-- R163, R165: an IDLE recorder. -/
def Recorder.idle : Recorder := ⟨.idle, none, false, 0, false⟩

/-- R165: the Recorder Unit after hardware reset. -/
def RCU.reset : RCU := ⟨Vector.replicate 2 Recorder.idle, none⟩

/-- R191: the default configuration of the line that selects the given link. -/
def IndLine.default (l : Link) : IndLine := ⟨l, true, true, true, true, none⟩

/-- R191: line n selects link n. -/
def IndLine.defaults : Vector IndLine 4 :=
  #v[IndLine.default 0, IndLine.default 1, IndLine.default 2, IndLine.default 3]

/-- R192: the Event Unit after hardware reset, with START (detail 0) stored. -/
def EVU.reset : EVU :=
  { events := [⟨0, 0, .start, 0, 0⟩], seq := 1, overflow := 0,
    linkCopy := Vector.replicate 8 .down, frameCopy := 0, lines := IndLine.defaults,
    fast := ⟨true, 0⟩, slow := ⟨true, 0⟩, query := none }

/-- No message waits between blocks. -/
def Mail.empty : Mail :=
  { reqs := [], results := [], resets := [], acks := [], lpToMgu := [],
    discardOrders := Vector.replicate 8 0, moveOrders := Vector.replicate 8 0,
    viewNotices := Vector.replicate 8 [], lossNotices := Vector.replicate 8 0,
    stateNotices := Vector.replicate 8 [], completions := Vector.replicate 8 0, reports := [],
    counterNotices := [], useNotices := Vector.replicate 8 [], reuAsk := none, handOffs := [],
    feAnswer := none, fates := [], claimQueries := 0, claimAnswers := [],
    inputWords := Vector.replicate 2 [], plbToSst := [], playerReads := [], holdAnswer := none,
    readAnswers := [], rcuToSst := [], regionAnswer := none, counterQuery := none,
    counterAnswer := none }

/-- The part right after RESETN is released with the given straps, sample memory not yet cleared and
the given commands waiting. -/
def State.afterReset (msel : Bool) (unit : BitVec 4) (mem : Table Sample) (pending : List Instr) :
    State :=
  { msel := msel, unit := unit, lp := Vector.replicate 8 LP.reset, mgu := MGU.reset,
    reu := REU.reset, fe := FE.reset, sst := SST.reset mem, plb := PLB.reset, rcu := RCU.reset,
    evu := EVU.reset, mail := Mail.empty, pending := pending }

/-- The machine right after hardware reset, both straps sampled low (log entry 4), no memory word
listed (log entry 6) and no command waiting. -/
def State.reset : State := State.afterReset false 0 [] []

end Sys2Proof.Machine
end

