-- ==== Sys2Proof/Machine/Gain.lean ====
section
/-! DEFINITION. The factors of the gain codes (R6), as the spec's formula gives them, and the glide
step (R64). -/

namespace Sys2Proof.Machine

/-- R6: the factors of codes 0 to 27. -/
def gainFactors0 : List Nat :=
  [0, 18, 19, 20, 21, 22, 23, 25, 26, 28, 30, 31, 33, 35, 37, 39, 42, 44, 47, 50, 53, 56, 59,
   62, 66, 70, 74, 79]

/-- R6: the factors of codes 28 to 55. -/
def gainFactors28 : List Nat :=
  [83, 88, 93, 99, 105, 111, 118, 125, 132, 140, 148, 157, 166, 176, 186, 198, 209, 222, 235,
   249, 263, 279, 296, 313, 332, 351, 372, 394]

/-- R6: the factors of codes 56 to 83. -/
def gainFactors56 : List Nat :=
  [417, 442, 468, 496, 526, 557, 590, 625, 662, 701, 742, 786, 833, 882, 935, 990, 1049, 1111,
   1177, 1246, 1320, 1398, 1481, 1569, 1662, 1760, 1865, 1975]

/-- R6: the factors of codes 84 to 111. -/
def gainFactors84 : List Nat :=
  [2092, 2216, 2347, 2487, 2634, 2790, 2955, 3130, 3316, 3512, 3720, 3941, 4174, 4422, 4684,
   4961, 5255, 5567, 5897, 6246, 6616, 7008, 7423, 7863, 8329, 8823, 9345, 9899]

/-- R6: the factors of codes 112 to 139. -/
def gainFactors112 : List Nat :=
  [10486, 11107, 11765, 12462, 13201, 13983, 14812, 15689, 16619, 17604, 18647, 19751, 20922,
   22162, 23475, 24866, 26339, 27900, 29553, 31304, 33159, 35124, 37205, 39409, 41745, 44218,
   46838, 49614]

/-- R6: the factors of codes 140 to 167. -/
def gainFactors140 : List Nat :=
  [52553, 55667, 58966, 62460, 66161, 70081, 74233, 78632, 83291, 88227, 93454, 98992, 104858,
   111071, 117652, 124623, 132008, 139830, 148115, 156892, 166188, 176035, 186466, 197515,
   209218, 221615, 234747, 248657]

/-- R6: the factors of codes 168 to 195. -/
def gainFactors168 : List Nat :=
  [263390, 278997, 295529, 313040, 331589, 351237, 372049, 394094, 417446, 442181, 468382,
   496135, 525533, 556673, 589658, 624597, 661607, 700809, 742335, 786321, 832914, 882267,
   934544, 989920, 1048576, 1110708, 1176522, 1246235]

/-- R6: the factors of codes 196 to 216. -/
def gainFactors196 : List Nat :=
  [1320079, 1398299, 1481153, 1568917, 1661881, 1760354, 1864661, 1975149, 2092184, 2216154,
   2347469, 2486566, 2633904, 2789972, 2955289, 3130401, 3315888, 3512367, 3720488, 3940941,
   4174456]

/-- R6: the factors of codes 0 to 216, in order: round(2^20 times 10^(gain/20)). -/
def gainFactors : List Nat :=
  gainFactors0 ++ gainFactors28 ++ gainFactors56 ++ gainFactors84 ++
    gainFactors112 ++ gainFactors140 ++ gainFactors168 ++ gainFactors196

/-- R6: the factor of a gain code. Codes above 216 are invalid everywhere a code is written, so no
table holds one. -/
def gainFactor (code : Nat) : Nat := (gainFactors[code]?).getD 0

/-- R64: one glide step: up to 4 codes toward the target. -/
def glideStep (current target : Nat) : Nat :=
  if current < target then min (current + 4) target else max (current - 4) target

/-- R64: a term after a boundary's glide step. -/
def LiveTerm.glide (t : LiveTerm) : LiveTerm := { t with current := glideStep t.current t.target }

end Sys2Proof.Machine
end

