-- ==== Sys2Proof/Machine/Tables.lean ====
section
/-! DEFINITION. Sparse tables (route table positions, touched flags, sample memory) in one canonical
form: keys strictly rising. Sample memory lists no word equal to 0, which an unlisted address reads
as (R130). -/

namespace Sys2Proof.Machine

/-- What a table holds at a key. -/
def Table.get? {α : Type} (t : Table α) (k : Nat) : Option α :=
  match t with
  | [] => none
  | (k', v) :: rest => if k = k' then some v else Table.get? rest k

/-- Whether a table holds anything at a key. -/
def Table.has {α : Type} (t : Table α) (k : Nat) : Bool := (Table.get? t k).isSome

/-- The table with `v` at key `k`, replacing what stood there. -/
def Table.put {α : Type} (t : Table α) (k : Nat) (v : α) : Table α :=
  match t with
  | [] => [(k, v)]
  | (k', v') :: rest =>
    if k < k' then (k, v) :: (k', v') :: rest
    else if k = k' then (k, v) :: rest
    else (k', v') :: Table.put rest k v

/-- The table with nothing at key `k`. -/
def Table.del {α : Type} (t : Table α) (k : Nat) : Table α :=
  match t with
  | [] => []
  | (k', v') :: rest => if k = k' then rest else (k', v') :: Table.del rest k

/-- Every key lies above `k`. -/
def Table.above {α : Type} (k : Nat) (t : Table α) : Bool := t.all fun e => decide (k < e.1)

/-- Keys strictly rise. -/
def Table.sorted {α : Type} : Table α → Bool
  | [] => true
  | (k, _) :: rest => Table.above k rest && Table.sorted rest

/-- The canonical form of a table with `n` keys: sorted, every key below `n`. -/
def Table.wf {α : Type} (n : Nat) (t : Table α) : Bool :=
  Table.sorted t && t.all fun e => decide (e.1 < n)

/-- The table with every value changed by `f`; keys stay. -/
def Table.mapVal {α β : Type} (f : Nat → α → β) (t : Table α) : Table β :=
  t.map fun e => (e.1, f e.1 e.2)

/-- R130: what an unlisted address of sample memory reads as. -/
def Memory.unlisted : Sample := 0

/-- R129: the word at an address. -/
def Memory.read (m : Table Sample) (a : Nat) : Sample := (Table.get? m a).getD Memory.unlisted

/-- R129: memory with one word written; writing what an unlisted address reads as removes the cell. -/
def Memory.write (m : Table Sample) (a : Nat) (w : Sample) : Table Sample :=
  if w = Memory.unlisted then Table.del m a else Table.put m a w

/-- R132: a run of words written from `a` on, in order. -/
def Memory.writeRun (m : Table Sample) (a : Nat) (ws : List Sample) : Table Sample :=
  match ws with
  | [] => m
  | w :: rest => Memory.writeRun (Memory.write m a w) (a + 1) rest

/-- R130: memory with the addresses from `lo` up to but not including `hi` cleared. -/
def Memory.clearRange (m : Table Sample) (lo hi : Nat) : Table Sample :=
  m.filter fun e => !(decide (lo ≤ e.1) && decide (e.1 < hi))

/-- The canonical form of sample memory. -/
def Memory.wf (m : Table Sample) : Bool :=
  Table.wf Config.memoryWords m && m.all fun e => decide (e.2 ≠ Memory.unlisted)

/-- The vector with its element at `i` changed by `f`. -/
def updAt {α : Type} {n : Nat} (v : Vector α n) (i : Fin n) (f : α → α) : Vector α n :=
  v.set i.val (f v[i]) i.isLt

/-- The first element that satisfies `p`, and the list without it. -/
def takeFirst {α : Type} (p : α → Bool) (xs : List α) : Option (α × List α) :=
  match xs with
  | [] => none
  | x :: rest =>
    if p x then some (x, rest)
    else match takeFirst p rest with
      | some (y, ys) => some (y, x :: ys)
      | none => none

/-- A 16-bit counter that saturates at 65,535 (R15, R81, R114, R183). -/
def satInc (n : Nat) : Nat := min (n + 1) 65535

/-- L0 to L7 in order, and P0 to P7. -/
def allEight : List (Fin 8) := [0, 1, 2, 3, 4, 5, 6, 7]

/-- The clip ids in order (R135). -/
def clipIds : List (Fin 32) :=
  [0, 1, 2, 3, 4, 5, 6, 7, 8, 9, 10, 11, 12, 13, 14, 15] ++
    [16, 17, 18, 19, 20, 21, 22, 23, 24, 25, 26, 27, 28, 29, 30, 31]

end Sys2Proof.Machine
end

