-- ==== Sys2Proof/Machine/Operands.lean ====
section
/-! DEFINITION. The octet layouts of 11_encodings: slot words, service words, pages, message headers
and checks, entry records, and the codes inside them. -/

namespace Sys2Proof.Machine

/-! ## Octets (R194) -/

/-- A one-octet field. -/
def u8 (n : Nat) : List Byte := [BitVec.ofNat 8 n]

/-- A two-octet field, most significant octet first. -/
def u16 (n : Nat) : List Byte := [BitVec.ofNat 8 (n / 256), BitVec.ofNat 8 n]

/-- A three-octet field. -/
def u24 (n : Nat) : List Byte := BitVec.ofNat 8 (n / 65536) :: u16 n

/-- A four-octet field. -/
def u32 (n : Nat) : List Byte := BitVec.ofNat 8 (n / 16777216) :: u24 n

/-- A six-octet field. -/
def u48 (n : Nat) : List Byte := u16 (n / 4294967296) ++ u32 n

/-- A flag as an octet. -/
def uBool (b : Bool) : List Byte := if b then [1] else [0]

/-- The octet at index `i` of a body, from 0. The Management Unit has checked the length (R168). -/
def octAt (b : List Byte) (i : Nat) : Nat := ((b[i]?).getD 0).toNat

/-- A two-octet field at index `i`. -/
def field16 (b : List Byte) (i : Nat) : Nat := octAt b i * 256 + octAt b (i + 1)

/-- A three-octet field at index `i`. -/
def field24 (b : List Byte) (i : Nat) : Nat := octAt b i * 65536 + field16 b (i + 1)

/-- The sample words of a MEMORY WRITE body, three octets each (R202). -/
def wordsOf : List Byte → List Sample
  | a :: b :: c :: rest => (a ++ b ++ c : BitVec 24) :: wordsOf rest
  | _ => []

/-- Sample words as octets, three each (R202). -/
def octetsOfWords (ws : List Sample) : List Byte := ws.flatMap fun w => u24 w.toNat

/-! ## The check (R83) -/

/-- One bit into the CRC register. -/
def crcBit (r : BitVec 16) (b : Bool) : BitVec 16 :=
  if r.msb != b then (r <<< 1) ^^^ 0x1021#16 else r <<< 1

/-- One octet into the CRC register, most significant bit first. -/
def crcOctet (r : BitVec 16) (o : Byte) : BitVec 16 :=
  [7, 6, 5, 4, 3, 2, 1, 0].foldl (fun r i => crcBit r (o.getLsbD i)) r

/-- R83: the CRC of a run of octets, register all ones at the start, not inverted at the end. -/
def crc16 (os : List Byte) : BitVec 16 := os.foldl crcOctet 0xFFFF#16

/-- R85: a message with its check appended. -/
def withCheck (os : List Byte) : List Byte := os ++ u16 (crc16 os).toNat

/-! ## Grades -/

/-- 00_scope: payload slots of a grade. -/
def Grade.slots : Grade → Nat
  | .g16 => 16
  | .g32 => 32
  | .g64 => 64

/-- R202: the code of a grade. -/
def Grade.code : Grade → Nat
  | .g16 => 0
  | .g32 => 1
  | .g64 => 2

/-- R202: the grade a code names. -/
def Grade.ofCode : Nat → Option Grade
  | 0 => some .g16
  | 1 => some .g32
  | 2 => some .g64
  | _ => none

/-- R202: a grade field, 255 for none. -/
def gradeCode (g : Option Grade) : Nat := (g.map Grade.code).getD 255

/-- R197: advertisement bits: bit 0 G16, bit 1 G32, bit 2 G64. -/
def Grades.octet (g : Grades) : Nat := g.g16.toNat + 2 * g.g32.toNat + 4 * g.g64.toNat

/-- The grades present in both sets. -/
def Grades.inter (a b : Grades) : Grades := ⟨a.g64 && b.g64, a.g32 && b.g32, a.g16 && b.g16⟩

/-- The grades present in either set. -/
def Grades.union (a b : Grades) : Grades := ⟨a.g64 || b.g64, a.g32 || b.g32, a.g16 || b.g16⟩

/-- The grades of the first set that are not in the second. -/
def Grades.diff (a b : Grades) : Grades := ⟨a.g64 && !b.g64, a.g32 && !b.g32, a.g16 && !b.g16⟩

/-- The highest grade of a set. -/
def Grades.best (g : Grades) : Option Grade :=
  if g.g64 then some .g64 else if g.g32 then some .g32 else if g.g16 then some .g16 else none

/-- R109: every grade up to the maximum grade. -/
def Grades.upTo : Grade → Grades
  | .g64 => ⟨true, true, true⟩
  | .g32 => ⟨false, true, true⟩
  | .g16 => ⟨false, false, true⟩

/-- R108: the given grade and every grade above it. -/
def Grades.fromUp : Grade → Grades
  | .g64 => ⟨true, false, false⟩
  | .g32 => ⟨true, true, false⟩
  | .g16 => ⟨true, true, true⟩

/-- The slot count of the highest grade of a set, 0 for the empty set. -/
def Grades.bestSlots (g : Grades) : Nat := (g.best.map Grade.slots).getD 0

/-! ## Slot word (R195) -/

/-- R195: the code of a slot status. -/
def statusCode : SlotStatus → BitVec 2
  | .idle => 0
  | .live => 1
  | .subst => 2

/-- R74: the status a received field stands for; 3 is taken as SUBST. -/
def statusOf (c : BitVec 2) : SlotStatus :=
  if c = 0 then .idle else if c = 1 then .live else .subst

/-- R195: a slot as it is sent, unused bits zero. -/
def slotWord (s : Slot) : Word := s.sample ++ statusCode s.status ++ (0 : BitVec 6)

/-- R74: a received slot word, unused bits ignored. -/
def slotOf (w : Word) : Slot := ⟨w.extractLsb' 8 24, statusOf (w.extractLsb' 6 2)⟩

/-- Sample 0 with status IDLE, the all-zero slot word (R75). -/
def Slot.silent : Slot := ⟨0, .idle⟩

/-- Sample 0 with status SUBST (R56). -/
def Slot.substituted : Slot := ⟨0, .subst⟩

/-! ## Service word (R196) -/

/-- R77: what a service word's octets carry. -/
inductive ServiceCode where
  | fill | page | train | msgFirst | msgMore | msgLast2 | msgLast1 | msgAbort
  deriving DecidableEq, Repr

/-- R196: the code value. -/
def ServiceCode.value : ServiceCode → BitVec 4
  | .fill => 0
  | .page => 1
  | .train => 2
  | .msgFirst => 3
  | .msgMore => 4
  | .msgLast2 => 5
  | .msgLast1 => 6
  | .msgAbort => 7

/-- R196: the code a value names; 8 to 15 are undefined. -/
def ServiceCode.ofValue (v : BitVec 4) : Option ServiceCode :=
  match v.toNat with
  | 0 => some .fill
  | 1 => some .page
  | 2 => some .train
  | 3 => some .msgFirst
  | 4 => some .msgMore
  | 5 => some .msgLast2
  | 6 => some .msgLast1
  | 7 => some .msgAbort
  | _ => none

/-- R196: SYNC A is 78, SYNC B is 177. -/
def Sync.octet : Sync → Byte
  | .a => 78
  | .b => 177

/-- The sync pattern an octet is, if it is one. -/
def Sync.ofOctet (o : Byte) : Option Sync :=
  if o = 78 then some .a else if o = 177 then some .b else none

/-- R77: the patterns alternate. -/
def Sync.other : Sync → Sync
  | .a => .b
  | .b => .a

/-- R196: a service word as it is sent. -/
def serviceWord (sync : Sync) (code : ServiceCode) (rdy rst : Bool) (quarter : Nat) (o1 o2 : Byte) :
    Word :=
  sync.octet ++ code.value ++ BitVec.ofBool rdy ++ BitVec.ofBool rst ++ BitVec.ofNat 2 quarter ++
    o1 ++ o2

/-- The sync value of a received service word. -/
def svcSync (w : Word) : Option Sync := Sync.ofOctet (w.extractLsb' 24 8)

/-- The code of a received service word, none when undefined. -/
def svcCode (w : Word) : Option ServiceCode := ServiceCode.ofValue (w.extractLsb' 20 4)

/-- The RDY flag. -/
def svcRdy (w : Word) : Bool := w.getLsbD 19

/-- The RST flag. -/
def svcRst (w : Word) : Bool := w.getLsbD 18

/-- The quarter index. -/
def svcQuarter (w : Word) : Nat := (w.extractLsb' 16 2).toNat

/-- Octet 1 of the stream. -/
def svcOctet1 (w : Word) : Byte := w.extractLsb' 8 8

/-- Octet 2 of the stream. -/
def svcOctet2 (w : Word) : Byte := w.extractLsb' 0 8

/-! ## Pages (R94, R95, R197) -/

/-- R197: the base page's eight octets. -/
def basePageOctets (advert : Grades) (mgr rcap ack : Bool) (nextCount : Nat) (unit : BitVec 4)
    (kind serial : Nat) : List Byte :=
  u8 0 ++ u8 (advert.octet + 8 * mgr.toNat + 16 * rcap.toNat + 32 * ack.toNat) ++
    u8 (nextCount + 16 * unit.toNat) ++ u16 kind ++ u16 serial ++ u8 0

/-- R95: the next count of a label: the label length over 6, rounded up. -/
def nextCountOf (label : List Byte) : Nat := (label.length + 5) / 6

/-- R95: page `p` carries characters 6(p-1)+1 to 6p, zero past the end of the label. -/
def nextPageOctets (label : List Byte) (p : Nat) : List Byte :=
  u8 p ++ (List.range 6).map (fun i => (label[6 * (p - 1) + i]?).getD 0) ++ u8 0

/-- R94, R95: the own pages of a stay in NEGOTIATE, base page first, with ACK clear. -/
def ownPages (advert : Grades) (unit : BitVec 4) (label : List Byte) : List (List Byte) :=
  basePageOctets advert false true false (nextCountOf label) unit 3208
      (Config.unitSerial.toNat % 65536) ::
    (List.range (nextCountOf label)).map fun i => nextPageOctets label (i + 1)

/-- R96: a page as it is started: the base page carries the ACK flag of that moment. -/
def startPage (pages : List (List Byte)) (index : Nat) (ack : Bool) : List Byte :=
  let page := (pages[index]?).getD []
  if index = 0 && ack then
    match page with
    | a :: b :: rest => a :: (b ||| 0x20#8) :: rest
    | short => short
  else page

/-- R198: a received base page's named fields, ACK apart. -/
def basePageOf (os : List Byte) : BasePage :=
  let flags := (os[1]?).getD 0
  let counts := (os[2]?).getD 0
  { advert := ⟨flags.getLsbD 2, flags.getLsbD 1, flags.getLsbD 0⟩
    mgr := flags.getLsbD 3
    rcap := flags.getLsbD 4
    nextCount := (counts.extractLsb' 0 3).toNat
    kind := BitVec.ofNat 16 (field16 os 3)
    unit := counts.extractLsb' 4 4
    serial := BitVec.ofNat 16 (field16 os 5) }

/-- R197: the ACK flag of a received base page. -/
def basePageAck (os : List Byte) : Bool := ((os[1]?).getD 0).getLsbD 5

/-- R197: the six characters of a received next page. -/
def nextPageChars (os : List Byte) : List Byte := (os.drop 1).take 6

/-- R103: the label of the accepted next pages, up to the first zero character. -/
def labelOf (nextCount : Nat) (next : Vector (Option (List Byte)) 4) : Option (List Byte) :=
  let chars := ((next.toList.take nextCount).flatMap fun p => p.getD []).takeWhile (· != 0)
  if chars.isEmpty then none else some chars

/-! ## Requests and responses (R199, R202) -/

/-- R202: the request code. -/
def RequestKind.code : RequestKind → Nat
  | .identify => 1 | .nameSet => 2 | .reset => 3
  | .linkSet => 16 | .linkStatus => 17 | .linkRenegotiate => 18 | .partnerRead => 19
  | .editOpen => 32 | .entryPut => 33 | .entryDelete => 34 | .entryRead => 35
  | .tableSummary => 36 | .tableCheck => 37 | .tableCommit => 38 | .editAbandon => 39
  | .gainAdjust => 40 | .engineStatus => 41
  | .memoryWrite => 48 | .memoryRead => 49 | .clipDefine => 50 | .clipDelete => 51 | .clipRead => 52
  | .play => 64 | .stop => 65 | .playerStatus => 66
  | .recordSetup => 80 | .recordStart => 81 | .recordStop => 82 | .recorderStatus => 83
  | .eventsRead => 96 | .countersRead => 97 | .indicatorSet => 98

/-- R202: every request. -/
def requestKinds : List RequestKind :=
  [.identify, .nameSet, .reset, .linkSet, .linkStatus, .linkRenegotiate, .partnerRead, .editOpen,
    .entryPut, .entryDelete, .entryRead, .tableSummary, .tableCheck, .tableCommit, .editAbandon,
    .gainAdjust, .engineStatus, .memoryWrite, .memoryRead, .clipDefine, .clipDelete, .clipRead,
    .play, .stop, .playerStatus, .recordSetup, .recordStart, .recordStop, .recorderStatus,
    .eventsRead, .countersRead, .indicatorSet]

/-- R168: the request a code names, none when the code is unknown. -/
def RequestKind.ofCode (c : Nat) : Option RequestKind := requestKinds.find? fun k => k.code == c

/-- R168, R201, R202: the body lengths a request can have. -/
def RequestKind.lengthOk (k : RequestKind) (n : Nat) : Bool :=
  match k with
  | .identify | .tableCheck | .tableCommit | .editAbandon | .engineStatus => n == 0
  | .nameSet => n ≤ 24
  | .reset | .linkStatus | .linkRenegotiate | .partnerRead | .editOpen | .tableSummary
  | .clipDelete | .clipRead | .playerStatus | .recordStart | .recordStop | .recorderStatus
  | .eventsRead => n == 1
  | .linkSet => n == 7
  | .entryPut => n == 8 || (11 ≤ n && n ≤ 39 && (n - 11) % 4 == 0)
  | .entryDelete | .gainAdjust | .memoryRead => n == 4
  | .entryRead | .play | .indicatorSet => n == 3
  | .memoryWrite => 6 ≤ n && n ≤ 387 && n % 3 == 0
  | .clipDefine => n == 11
  | .stop | .countersRead => n == 2
  | .recordSetup => n == 8

/-- R199: the octet of a result code. -/
def ResultCode.value : ResultCode → Nat
  | .ok => 0 | .busy => 1 | .unknown => 2 | .badLength => 3 | .badField => 4 | .owned => 5
  | .notOwner => 6 | .pending => 7 | .refused => 8 | .inUse => 9 | .noSpace => 10
  | .notFound => 11 | .state => 12 | .aborted => 13

/-- R170, R199: a response: its header and body. -/
def responseOctets (code tag : Byte) (result : ResultCode) (eventsWaiting : Nat) (body : List Byte) :
    List Byte :=
  (code ||| 0x80#8) :: tag :: (u8 result.value ++ u8 eventsWaiting ++ u16 body.length ++ body)

/-! ## Entry records (R5, R200, R201) -/

/-- R200: the octets of a term. -/
def termOctets (t : Term) : List Byte :=
  match t.source with
  | .link l slot => u8 0 ++ u8 l.val ++ u8 slot ++ u8 t.gain
  | .player p => u8 1 ++ u8 p.val ++ u8 0 ++ u8 t.gain

/-- R200: the octets of a MIX destination. -/
def destOctets : Dest → List Byte
  | .link l slot => u8 0 ++ u8 l.val ++ u8 slot
  | .recorder r => u8 1 ++ u8 r.val ++ u8 0

/-- R200: the octets of an entry record. -/
def Entry.octets : Entry → List Byte
  | .span s => u8 0 ++ u8 s.srcLink.val ++ u8 s.srcFirst ++ u8 s.dstLink.val ++ u8 s.dstFirst ++ u8 s.len
  | .mix d ts => u8 1 ++ destOctets d ++ u8 ts.length ++ ts.flatMap termOctets

/-- The link a field in range names. -/
def linkOf (n : Nat) : Link := Fin.ofNat 8 n

/-- R5: the terms of a MIX record, `field` the number of the first term's first field, or the first
field found bad. -/
def parseTerms (field : Nat) (os : List Byte) : Except Nat (List Term) :=
  match os with
  | kind :: num :: slot :: gain :: rest =>
    if 1 < kind.toNat then .error field
    else if 7 < num.toNat then .error (field + 1)
    else if kind.toNat = 0 && (slot.toNat == 0 || 64 < slot.toNat) then .error (field + 2)
    else if kind.toNat = 1 && slot.toNat != 0 then .error (field + 2)
    else if 216 < gain.toNat then .error (field + 3)
    else
      let src : Source :=
        if kind.toNat = 0 then .link (linkOf num.toNat) slot.toNat else .player (linkOf num.toNat)
      match parseTerms (field + 4) rest with
      | .ok ts => .ok (⟨src, gain.toNat⟩ :: ts)
      | .error f => .error f
  | _ => .ok []

/-- R5, R201: a SPAN record, or the number of its first bad field. -/
def parseSpan (os : List Byte) : Except Nat Entry :=
  let f := octAt os
  if 7 < f 1 then .error 2
  else if f 2 = 0 || 64 < f 2 then .error 3
  else if 7 < f 3 then .error 4
  else if f 4 = 0 || 64 < f 4 then .error 5
  else if f 5 = 0 || 64 < f 5 || 64 < f 2 + f 5 - 1 || 64 < f 4 + f 5 - 1 then .error 6
  else .ok (.span ⟨linkOf (f 1), f 2, linkOf (f 3), f 4, f 5⟩)

/-- R5, R201: a MIX record, or the number of its first bad field. -/
def parseMix (os : List Byte) : Except Nat Entry :=
  let f := octAt os
  if 1 < f 1 then .error 2
  else if (f 1 = 0 && 7 < f 2) || (f 1 = 1 && 1 < f 2) then .error 3
  else if (f 1 = 0 && (f 3 == 0 || 64 < f 3)) || (f 1 = 1 && f 3 != 0) then .error 4
  else if f 4 = 0 || 8 < f 4 || f 4 * 4 + 5 != os.length then .error 5
  else
    match parseTerms 6 (os.drop 5) with
    | .ok ts =>
      .ok (.mix (if f 1 = 0 then .link (linkOf (f 2)) (f 3) else .recorder (Fin.ofNat 2 (f 2))) ts)
    | .error n => .error n

/-- R5, R29, R201: the entry a record's octets stand for, or the number of the first bad field. -/
def parseEntry (os : List Byte) : Except Nat Entry :=
  if octAt os 0 = 0 && os.length == 6 then parseSpan os
  else if octAt os 0 = 1 && os.length != 6 then parseMix os
  else .error 1

/-! ## Other codes (R202) -/

/-- R202: the reach octet. -/
def Reach.code : Reach → Nat
  | .full => 0
  | .part => 1
  | .none => 2

/-- R202: the link state octet. -/
def LinkState.code : LinkState → Nat
  | .disabled => 0 | .down => 1 | .listen => 2 | .negotiate => 3
  | .train => 4 | .up => 5 | .rest => 6 | .wake => 7

/-- R202: the recorder state octet. -/
def RecState.code : RecState → Nat
  | .idle => 0 | .set => 1 | .running => 2 | .full => 3

/-- R202: the event kind octet. -/
def EventKind.code : EventKind → Nat
  | .start => 1 | .linkUp => 2 | .linkLost => 3 | .linkDown => 4 | .negotiationFailed => 5
  | .downshift => 6 | .trainFailing => 7 | .advertRestored => 8 | .restEntered => 9
  | .wakeFailed => 10 | .claimLapsed => 11 | .commitAdopted => 12 | .routingReset => 13
  | .playerDone => 14 | .recorderFull => 15

/-- R202: an event record's 11 octets. -/
def EventRecord.octets (e : EventRecord) : List Byte :=
  u16 e.seq.toNat ++ u32 e.stamp.toNat ++ u8 e.kind.code ++ u16 e.subject ++ u16 e.detail

/-- R202: one octet of the occupancy map, bit 7 for the lowest of its eight positions. -/
def mapOctet {α : Type} (t : Table α) (i : Nat) : Byte :=
  BitVec.ofNat 8 ([0, 1, 2, 3, 4, 5, 6, 7].foldl
    (fun acc j => 2 * acc + (Table.has t (8 * i + j)).toNat) 0)

/-- R19, R202: the occupancy map, 64 octets. -/
def occupancyMap {α : Type} (t : Table α) : List Byte := (List.range 64).map (mapOctet t)

/-- R202: the six counters, in the order of the link status record. -/
def Counters.octets (c : Counters) : List Byte :=
  u16 c.serviceErrors ++ u16 c.codeErrors ++ u16 c.discarded ++ u16 c.alignLosses ++
    u16 c.trainFailures ++ u16 c.downshifts

/-- R202: the word count octet of a memory response; 0 means 128. -/
def countOctet (n : Nat) : List Byte := if n = 128 then [0] else u8 n

end Sys2Proof.Machine
end

