-- ==== Sys2Proof/Machine/Flags.lean ====
section
/-! DEFINITION. Conditions computed from the state: running states, reach, coverage, cost, the
admission check, rest eligibility, indicator patterns, memory protection. -/

namespace Sys2Proof.Machine

/-! ## Link states (R89) -/

/-- R89: UP, REST and WAKE are the running states. -/
def LinkState.running : LinkState → Bool
  | .up | .rest | .wake => true
  | _ => false

/-- R89: the states beyond LISTEN. -/
def LinkState.beyondListen : LinkState → Bool
  | .negotiate | .train | .up | .rest | .wake => true
  | _ => false

/-- R10: the state class of a link state. -/
def LinkState.viewClass : LinkState → ViewClass
  | .up => .up
  | .rest => .rest
  | .wake => .wake
  | _ => .out

/-- The slot count of the agreed grade. -/
def LP.slotCount (p : LP) : Nat := (p.agreed.map Grade.slots).getD 0

/-- R73: payload slots of the framing in force. -/
def LP.framing (p : LP) : Nat :=
  match p.state with
  | .disabled => 0
  | .down | .listen | .negotiate => 16
  | .train | .up | .rest | .wake => p.slotCount

/-- R10: the view the Link Port notifies. -/
def LP.view (p : LP) : View :=
  ⟨p.state.viewClass, if p.state.running then p.slotCount else 0⟩

/-- R118: a link in UP is rest-eligible. -/
def LP.restEligible (p : LP) : Bool :=
  p.state == .up && !p.rest.used && decide (0 < p.cfg.restHold) &&
    (p.partner.map fun r => r.base.rcap).getD false

/-- R85: whether a place of the transmit list holds a message. -/
def LP.placeFull (p : LP) (place : Place) : Bool := p.txq.any fun m => m.place == place

/-! ## Reach (R11 to R13) -/

/-- R11: a payload slot is in reach when it is at most the slot count of its link's view. -/
def slotInReach (v : Vector View 8) (l : Link) (slot : Nat) : Bool := decide (slot ≤ v[l].count)

/-- R11: a player source is always in reach. -/
def Source.inReach (v : Vector View 8) : Source → Bool
  | .link l slot => slotInReach v l slot
  | .player _ => true

/-- R11: a recorder destination is always in reach. -/
def Dest.inReach (v : Vector View 8) : Dest → Bool
  | .link l slot => slotInReach v l slot
  | .recorder _ => true

/-- R2: the pairs of a span: source slot and destination slot of pairs 1 to n. -/
def Span.pairs (s : Span) : List (Nat × Nat) :=
  (List.range s.len).map fun k => (s.srcFirst + k, s.dstFirst + k)

/-- R12: the reach status of a SPAN entry. -/
def spanReach (v : Vector View 8) (s : Span) : Reach :=
  if s.pairs.all fun p => slotInReach v s.srcLink p.1 && slotInReach v s.dstLink p.2 then .full
  else if s.pairs.any fun p => slotInReach v s.srcLink p.1 && slotInReach v s.dstLink p.2 then .part
  else .none

/-- R13: the reach status of a MIX entry. -/
def mixReach (v : Vector View 8) (d : Dest) (sources : List Source) : Reach :=
  if !d.inReach v then .none
  else if sources.all fun x => x.inReach v then .full
  else .part

/-- R12, R13: the reach status an entry has against the given views. -/
def Entry.reach (v : Vector View 8) : Entry → Reach
  | .span s => spanReach v s
  | .mix d ts => mixReach v d (ts.map Term.source)

/-- The record of an active entry; the targets are its gain codes (R16, R23). -/
def ActiveEntry.entry : ActiveEntry → Entry
  | .span s _ => .span s
  | .mix d ts _ _ => .mix d (ts.map fun t => ⟨t.source, t.target⟩)

/-- The reach status held with an active entry. -/
def ActiveEntry.reach : ActiveEntry → Reach
  | .span _ r => r
  | .mix _ _ _ r => r

/-- R15: the saturation counter of an active entry; a span has none. -/
def ActiveEntry.sat : ActiveEntry → Nat
  | .span _ _ => 0
  | .mix _ _ n _ => n

/-- R14: the entry with its reach status decided again. -/
def ActiveEntry.redecide (v : Vector View 8) : ActiveEntry → ActiveEntry
  | .span s _ => .span s (spanReach v s)
  | .mix d ts n _ => .mix d ts n (mixReach v d (ts.map LiveTerm.source))

/-! ## Link use (R67) -/

/-- R67: the link a source is on. -/
def Source.onLink (l : Link) : Source → Bool
  | .link l' _ => l' == l
  | .player _ => false

/-- R67: whether a destination is on a link. -/
def Dest.onLink (l : Link) : Dest → Bool
  | .link l' _ => l' == l
  | .recorder _ => false

/-- R67: whether an entry has a source or destination on a link. -/
def Entry.onLink (l : Link) : Entry → Bool
  | .span s => s.srcLink == l || s.dstLink == l
  | .mix d ts => d.onLink l || ts.any fun t => t.source.onLink l

/-- R67: whether a table uses a link. -/
def linkUsed (t : Table ActiveEntry) (l : Link) : Bool := t.any fun e => e.2.entry.onLink l

/-! ## Coverage (R7 to R9) -/

/-- R7: whether a SPAN entry covers a destination. -/
def Span.covers (s : Span) : Dest → Bool
  | .link l slot => s.dstLink == l && decide (s.dstFirst ≤ slot) && decide (slot < s.dstFirst + s.len)
  | .recorder _ => false

/-- R7: whether an entry is a SPAN entry that covers a destination. -/
def Entry.spanCovers (d : Dest) : Entry → Bool
  | .span s => s.covers d
  | .mix _ _ => false

/-- R7: whether an entry is a MIX entry that covers a destination. -/
def Entry.mixCovers (d : Dest) : Entry → Bool
  | .span _ => false
  | .mix d' _ => d' == d

/-- The positions of a table's entries that satisfy `p`, in rising order. -/
def positionsWhere (t : Table Entry) (p : Entry → Bool) : List Nat :=
  t.filterMap fun e => if p e.2 then some e.1 else none

/-- R39: the destinations in the order of the coverage test. -/
def destinations : List Dest :=
  (allEight.flatMap fun l => (List.range 64).map fun i => Dest.link l (i + 1)) ++
    [.recorder 0, .recorder 1]

/-! ## Cost (R37, R38) -/

/-- R37: the cost of a SPAN entry. -/
def Span.cost (s : Span) : Nat :=
  if s.srcFirst % 2 = 1 ∧ s.dstFirst % 2 = 1 then (s.len + 1) / 2 else s.len

/-- R37, R38: the cost of an entry. -/
def Entry.cost : Entry → Nat
  | .span s => s.cost
  | .mix _ ts => ts.length

/-- R38: the cost of a table. -/
def tableCost (t : Table Entry) : Nat := (t.map fun e => e.2.cost).sum

/-! ## Admission check (R39, R40) -/

/-- R39, R40: the findings, an overlap with its destination and the two lowest entries. -/
inductive Finding where
  | pass
  | overlapSpan (d : Dest) (first second : Nat)
  | overlapMix (d : Dest) (first second : Nat)
  | cost
  deriving DecidableEq, Repr

/-- R39: the conflict at one destination. -/
def conflictAt (t : Table Entry) (d : Dest) : Option Finding :=
  match positionsWhere t (Entry.spanCovers d) with
  | a :: b :: _ => some (.overlapSpan d a b)
  | _ =>
    match positionsWhere t (Entry.mixCovers d) with
    | a :: b :: _ => some (.overlapMix d a b)
    | _ => none

/-- R39, R40: the admission check: coverage, then cost. -/
def admission (t : Table Entry) : Finding :=
  match destinations.findSome? (conflictAt t) with
  | some f => f
  | none => if 1024 < tableCost t then .cost else .pass

/-- R40: entries that would not have reach status FULL against the given views. -/
def notFullCount (v : Vector View 8) (t : Table Entry) : Nat :=
  t.countP fun e => e.2.reach v != .full

/-- R202: the code of a finding. -/
def Finding.code : Finding → Nat
  | .pass => 0
  | .overlapSpan .. => 1
  | .overlapMix .. => 2
  | .cost => 3

/-- R40, R202: the admission report, 14 octets. -/
def admissionReport (v : Vector View 8) (t : Table Entry) : List Byte :=
  let f := admission t
  let place :=
    match f with
    | .overlapSpan d a b | .overlapMix d a b => destOctets d ++ u16 a ++ u16 b
    | .pass | .cost => [0, 0, 0, 0, 0, 0, 0]
  u8 f.code ++ place ++ u16 (tableCost t) ++ u16 t.length ++ u16 (notFullCount v t)

/-! ## The claim gate (R28) -/

/-- R28: what the claim gate answers a sender, none when the request passes. `frozen` says that the
request is answered against a frozen staging table too (ENTRY READ and TABLE SUMMARY). -/
def claimGate (claim : Option Claim) (sender : Link) (frozen : Bool) :
    Option (ResultCode × List Byte) :=
  match claim with
  | none => some (.notOwner, [])
  | some c =>
    if c.owner ≠ sender then some (.owned, u8 c.owner.val)
    else match c.phase with
      | .held _ => none
      | .pending => if frozen then none else some (.pending, [])

/-- R33: a HELD claim with its hold timer started again; a PENDING claim's timer stays stopped. -/
def Claim.restart (c : Claim) : Claim :=
  match c.phase with
  | .held _ => { c with phase := .held 0 }
  | .pending => c

/-! ## Sample memory protection (R133, R135, R137) -/

/-- R135: two ranges share an address. -/
def rangesOverlap (a la b lb : Nat) : Bool := decide (a < b + lb) && decide (b < a + la)

/-- R133: the lowest held clip that contains an address. -/
def heldClipAt (s : SST) (a : Nat) : Option (Fin 32) :=
  clipIds.find? fun id =>
    match s.clips[id] with
    | some c => decide (0 < s.holds[id]) && decide (c.start ≤ a) && decide (a < c.start + c.len)
    | none => false

/-- R133: whether an address lies in the running region of a recorder. -/
def runningRegionAt (s : SST) (a : Nat) (r : Rec) : Bool :=
  match s.regions[r] with
  | some g => g.running && decide (g.start ≤ a) && decide (a < g.start + g.len)
  | none => false

/-- R133, R199: the IN_USE report of an address, when it is protected. -/
def protectedAt (s : SST) (a : Nat) : Option (List Byte) :=
  match heldClipAt s a with
  | some id => some (u24 a ++ u8 0 ++ u8 id.val)
  | none =>
    if runningRegionAt s a 0 then some (u24 a ++ u8 1 ++ u8 0)
    else if runningRegionAt s a 1 then some (u24 a ++ u8 1 ++ u8 1)
    else none

/-- R133: the report of the first protected address of a run. -/
def inUseScan (s : SST) (start n : Nat) : Option (List Byte) :=
  (List.range n).findSome? fun i => protectedAt s (start + i)

/-- R137: the lowest defined clip a range overlaps. -/
def clipOverlapping (s : SST) (start len : Nat) : Option (Fin 32) :=
  clipIds.find? fun id =>
    match s.clips[id] with
    | some c => rangesOverlap start len c.start c.len
    | none => false

/-- R137, R139: whether a range overlaps the region record of a recorder. -/
def regionOverlaps (s : SST) (start len : Nat) (r : Rec) : Bool :=
  match s.regions[r] with
  | some g => rangesOverlap start len g.start g.len
  | none => false

/-- R137: the other recorder. -/
def otherRec (r : Rec) : Rec := if r = 0 then 1 else 0

/-! ## Players (R144) -/

/-- R144: a player is PLAYING exactly when its queue is not empty. -/
def PlayerState.playing (p : PlayerState) : Bool := !p.queue.isEmpty

/-! ## Indicator lines (R190) -/

/-- R190: whether a line is on: the first enabled pattern that applies to its link. -/
def indicatorOn (e : EVU) (n : Fin 4) : Bool :=
  let line := e.lines[n]
  let st := e.linkCopy[line.sel]
  if line.pulse && line.pulseTimer.isSome then true
  else if line.fast && (st == .train || st == .wake) then e.fast.on
  else if line.slow && (st == .listen || st == .negotiate) then e.slow.on
  else line.steady && (st == .up || st == .rest)

end Sys2Proof.Machine
end

