-- ==== Sys2Proof/Machine/Ops.lean ====
section
/-! DEFINITION. The operations the meanings share: sending and taking messages between blocks, a
request taken by its owner, a link's change of state with all it brings, responses and their
transmit list, event storage, resets. -/

namespace Sys2Proof.Machine

/-! ## Changing one block -/

/-- One Link Port changed. -/
def State.onLp (s : State) (l : Link) (f : LP → LP) : State := { s with lp := updAt s.lp l f }

/-- The messages between blocks changed. -/
def State.onMail (s : State) (f : Mail → Mail) : State := { s with mail := f s.mail }

/-- The Management Unit's record of one link changed. -/
def State.onMgu (s : State) (l : Link) (f : MguLink → MguLink) : State :=
  { s with mgu := { s.mgu with links := updAt s.mgu.links l f } }

/-! ## Sending messages -/

/-- R183: a block sends the Event Unit a report. -/
def State.report (s : State) (b : Block) (kind : EventKind) (subject detail : Nat)
    (stamp : Option (BitVec 32) := none) : State :=
  s.onMail fun m => { m with reports := m.reports ++ [(b, ⟨kind, subject, detail, stamp⟩)] }

/-- R188: a Link Port sends the Event Unit a state notice. -/
def State.stateNotice (s : State) (l : Link) (st : LinkState) : State :=
  s.onMail fun m => { m with stateNotices := updAt m.stateNotices l (· ++ [st]) }

/-- R188: a Link Port reports a completed message to the Event Unit. -/
def State.completion (s : State) (l : Link) : State :=
  s.onMail fun m => { m with completions := updAt m.completions l (· + 1) }

/-- R10: a Link Port notifies the Frame Engine of its link view. -/
def State.viewNotice (s : State) (l : Link) (v : View) : State :=
  s.onMail fun m => { m with viewNotices := updAt m.viewNotices l (· ++ [v]) }

/-- R166: a Link Port sends the Management Unit messages, in order. -/
def State.toMgu (s : State) (l : Link) (ms : List LpMsg) : State :=
  s.onMail fun m => { m with lpToMgu := m.lpToMgu ++ ms.map fun x => (l, x) }

/-- R35: a Link Port tells the Route Edit Unit of link loss. -/
def State.lossNotice (s : State) (l : Link) : State :=
  s.onMail fun m => { m with lossNotices := updAt m.lossNotices l (· + 1) }

/-- R67: the Frame Engine sends a Link Port a use notice. -/
def State.useNotice (s : State) (l : Link) (used : Bool) : State :=
  s.onMail fun m => { m with useNotices := updAt m.useNotices l (· ++ [used]) }

/-- R66: the Frame Engine sends the Event Unit a counter notice. -/
def State.counterNotice (s : State) (c : BitVec 32) : State :=
  s.onMail fun m => { m with counterNotices := m.counterNotices ++ [c] }

/-- R44, R46: the Frame Engine sends the REU an adoption or discard notice. -/
def State.fate (s : State) (f : Fate) : State :=
  s.onMail fun m => { m with fates := m.fates ++ [f] }

/-- R136: the Player Bank sends the Sample Store hold requests and release notices, in order. -/
def State.toSstFromPlb (s : State) (ms : List PlbMsg) : State :=
  s.onMail fun m => { m with plbToSst := m.plbToSst ++ ms }

/-- R131: the Recorder Unit sends the Sample Store messages, in order. -/
def State.toSstFromRcu (s : State) (ms : List RcuMsg) : State :=
  s.onMail fun m => { m with rcuToSst := m.rcuToSst ++ ms }

/-- R177: a block acknowledges a reset. -/
def State.ackReset (s : State) (b : Block) : State :=
  s.onMail fun m => { m with acks := m.acks ++ [b] }

/-- R177: the Management Unit hands a block a reset. -/
def State.handReset (s : State) (o : ResetOrder) : State :=
  s.onMail fun m => { m with resets := m.resets ++ [o] }

/-! ## Requests and results (R169) -/

/-- R169: an owner hands the Management Unit the result of a request. -/
def State.answer (s : State) (b : Block) (req : Req) (code : ResultCode) (body : List Byte)
    (deferred : Option Deferred := none) : State :=
  s.onMail fun m => { m with results := m.results ++ [(b, ⟨req.ref, code, body, deferred⟩)] }

/-- R170: a BAD_FIELD result with the field index. -/
def State.badField (s : State) (b : Block) (req : Req) (field : Nat) : State :=
  s.answer b req .badField (u8 field)

/-- R169: an owner takes the oldest request handed to it, when it is one of those `which` names;
otherwise the event is not there and nothing changes (log entry 1). -/
def State.withRequest (s : State) (b : Block) (which : Req → Bool) (f : Req → State → State) :
    State :=
  match takeFirst (fun x => x.1 == b) s.mail.reqs with
  | some (x, rest) => if which x.2 then f x.2 (s.onMail fun m => { m with reqs := rest }) else s
  | none => s

/-- A request of one kind. -/
def isKind (k : RequestKind) (r : Req) : Bool := r.kind == k

/-! ## A link changes its state (R89 to R93, R117 to R128) -/

/-- R91: what a link that leaves the running states does to its neighbours, beside the link-view
notice: discard reports for its transmit list, then the stop notice, and the loss notice; a message
in assembly is discarded and counted (R84, R87, R173). The reports stand in the order the messages were
accepted (log entry 30). -/
def State.leaveRunning (s : State) (l : Link) : State :=
  let p := s.lp[l]
  let discards := p.txq.map fun m => LpMsg.discarded m.place m.ref
  let s := s.onLp l fun p =>
    { p with
      txq := [], txSent := 0, asm := .empty,
      counters :=
        match p.asm with
        | .assembling _ => { p.counters with discarded := satInc p.counters.discarded }
        | .empty | .skipping => p.counters }
  (s.toMgu l (discards ++ [.stopped])).lossNotice l

/-- R92, R102, R107, R127: what every entry into a stopped state does to the Link Port: RDY and RST
clear, rest state clear, timers stopped, page and training state discarded, transmit frames dropped. -/
def LP.stop (p : LP) : LP :=
  { p with
    rdy := false
    rest := ⟨false, false, 0, 0, p.rest.used⟩
    timers := ⟨none, none, none, none⟩
    train := ⟨0, none⟩
    asm := .empty
    pageTx := PageTx.empty
    pageRx := PageRx.empty
    txNow := none
    txNext := none }

/-- R103: the partner record stops being current. -/
def LP.staleRecord (p : LP) : LP :=
  { p with partner := p.partner.map fun r => { r with current := false } }

/-- R79, R80: alignment ends; the next LISTEN acquires afresh. -/
def LP.unaligned (p : LP) : LP :=
  { p with align := ⟨0, none, p.align.expected, 0⟩ }

/-- R119: the rest hold timer, started from zero when the link is rest-eligible. -/
def LP.startRestHold (p : LP) : LP :=
  { p with timers := { p.timers with restHold := if p.restEligible then some 0 else none } }

/-- The Link Port on entering a state from another one, with the device label and unit number its
pages are built from (R95). -/
def LP.enter (p : LP) (new : LinkState) (label : List Byte) (unit : BitVec 4) : LP :=
  match new with
  | .disabled => { p.stop.staleRecord.unaligned with state := .disabled }
  | .down =>
    { p.stop.staleRecord.unaligned with state := .down, timers := ⟨none, some 0, none, none⟩ }
  | .listen => { p.stop.staleRecord.unaligned with state := .listen }
  | .negotiate =>
    { p.stop.staleRecord with
      state := .negotiate
      timers := ⟨some 0, none, none, none⟩
      pageTx := ⟨ownPages p.advert unit label, 0, 0, []⟩ }
  | .train => { p.stop with state := .train }
  | .up =>
    match p.state with
    | .wake => LP.startRestHold { p with state := .up, timers := { p.timers with wake := none } }
    | _ =>
      LP.startRestHold
        { p with
          state := .up, attempts := 0, asm := .empty, txq := [], txSent := 0, train := ⟨0, none⟩
          rest := ⟨false, false, 0, 0, p.rest.used⟩, timers := ⟨none, none, none, none⟩ }
  | .rest =>
    { p with
      state := .rest
      timers := { p.timers with restHold := none, wake := none }
      txNow := none
      txNext := none }
  | .wake =>
    { p with
      state := .wake
      rest := { p.rest with ownRst := false, clearRun := 0 }
      timers := { p.timers with restHold := none, wake := some 0 } }

/-- A link moves to a state, with the notices of R91, R10 and R188. Staying where it is is no move. -/
def State.moveCore (s : State) (l : Link) (new : LinkState) : State :=
  let old := s.lp[l].state
  if old = new then s
  else
    let s := if old.running && !new.running then s.leaveRunning l else s
    let s := s.onLp l fun p => p.enter new s.mgu.label s.unit
    let s := s.stateNotice l new
    if old.viewClass = new.viewClass then s else s.viewNotice l (s.lp[l].view)

/-- A link moves to a state. R112: a move held for the requesting link is carried out when the link
leaves the running states: to DISABLED if enable is then 0; it has nothing to leave otherwise. -/
def State.moveLink (s : State) (l : Link) (new : LinkState) : State :=
  let p := s.lp[l]
  let s := s.moveCore l new
  if p.state.running && !new.running && p.heldMove then
    let s := s.onLp l fun p => { p with heldMove := false }
    if p.cfg.enable then s else s.moveCore l .disabled
  else s

/-- R112: a Link Port carries out its held move. -/
def State.carryHeldMove (s : State) (l : Link) : State :=
  let p := s.lp[l]
  if p.heldMove then
    let s := s.onLp l fun p => { p with heldMove := false }
    if !p.cfg.enable then s.moveLink l .disabled
    else if p.state.beyondListen then s.moveLink l .listen
    else s
  else s

/-- R109: the advertisement is restored to every grade up to the maximum grade. -/
def State.restoreAdvert (s : State) (l : Link) : State :=
  let p := s.lp[l]
  let advert := Grades.upTo p.cfg.maxGrade
  let s := s.onLp l fun p => { p with advert := advert, removed := ⟨false, false, false⟩ }
  if p.advert = advert then s else s.report (.lp l) .advertRestored l.val advert.bestSlots

/-- R110: an expired restore timer restores the advertisement and stops until the next DOWN. -/
def State.restoreExpired (s : State) (l : Link) : State :=
  let p := s.lp[l]
  match p.state, p.timers.restore with
  | .down, some t =>
    if p.cfg.restoreTime * Config.ticksPerSecond ≤ t then
      (s.onLp l fun p => { p with timers := { p.timers with restore := none } }).restoreAdvert l
    else s
  | _, _ => s

/-- R108: at the threshold, a downshift of the agreed grade, or TRAIN_FAILING for G16. -/
def State.downshift (s : State) (l : Link) : State :=
  let p := s.lp[l]
  let s := s.onLp l fun p => { p with attempts := 0 }
  match p.agreed.getD .g16 with
  | .g16 => s.report (.lp l) .trainFailing l.val 16
  | g =>
    let left := p.advert.diff (Grades.fromUp g)
    let s := s.onLp l fun p =>
      { p with
        advert := left
        removed := p.removed.union (p.advert.inter (Grades.fromUp g))
        counters := { p.counters with downshifts := satInc p.counters.downshifts } }
    s.report (.lp l) .downshift l.val (g.slots * 256 + left.bestSlots)

/-- R107: a training failure. -/
def State.trainingFailure (s : State) (l : Link) : State :=
  let s := s.onLp l fun p =>
    { p with
      attempts := p.attempts + 1
      counters := { p.counters with trainFailures := satInc p.counters.trainFailures } }
  let s := if s.lp[l].cfg.threshold ≤ s.lp[l].attempts then s.downshift l else s
  s.moveLink l .negotiate

/-- R88, R117, R128: the values RESET DEVICE sets in a Link Port that is in DOWN. The restore timer runs
from its entry into DOWN (log entry 21). The used flag is cleared by the Frame Engine's notice. A
receive frame already presented stays for the boundary that ends its frame, as at any other stop
(log entry 11). -/
def LP.deviceReset (p : LP) : LP :=
  { p.stop.unaligned with
    timers := ⟨none, p.timers.restore, none, none⟩
    cfg := LinkConfig.default, advert := ⟨true, true, true⟩, removed := ⟨false, false, false⟩
    attempts := 0, agreed := none, partner := none, counters := Counters.zero, negTimeouts := 0
    txq := [], txSent := 0 }

/-- R88, R117, R128: a Link Port takes RESET DEVICE: to DOWN, as any move there, and then its reset
values; a move it holds gives way to the RESET's own. -/
def State.resetLp (s : State) (l : Link) : State :=
  ((s.onLp l fun p => { p with heldMove := false }).moveLink l .down).onLp l LP.deviceReset

/-! ## Responses (R170 to R174) -/

/-- R170, R184: the Management Unit asks the Event Unit for the number of events waiting. -/
def State.queryEvents (s : State) : State :=
  { s with mgu := { s.mgu with eventsWaiting := s.evu.events.length } }

/-- R174: the Management Unit carries out a deferred effect of a link: it tells the Link Port to
carry out its held move, or hands it the reset. -/
def State.carryDeferred (s : State) (l : Link) (d : Deferred) : State :=
  match d with
  | .heldMove => s.onMail fun m => { m with moveOrders := updAt m.moveOrders l (· + 1) }
  | .reset => s.handReset ⟨.lp l, .device, l, false⟩

/-- R174: a deferred effect carried out, if there is one. -/
def State.carryIfDeferred (s : State) (l : Link) (d : Option Deferred) : State :=
  match d with
  | some d => s.carryDeferred l d
  | none => s

/-- R85: a response put in a place of the transmit list, its check computed and appended. -/
def State.accept (s : State) (l : Link) (place : Place) (ref : Option Ref) (octets : List Byte) :
    State :=
  s.onLp l fun p => { p with txq := p.txq ++ [⟨place, ref, withCheck octets⟩] }

/-- R85, R171: the Management Unit offers a built response; the Link Port accepts it, is occupied, or is
stopped. The offer finds the Link Port as it stands: a message sent to its end still fills its place
until its RESPONSE_SENT, and a stop that is due has not happened yet (log entry 10). -/
def State.offer (s : State) (l : Link) (ref : Ref) (octets : List Byte)
    (deferred : Option Deferred) : State :=
  let p := s.lp[l]
  if !p.state.running then
    (s.onMgu l fun k => { k with inProgress := none, heldResp := none }).carryIfDeferred l deferred
  else if p.placeFull .response then
    s.onMgu l fun k => { k with heldResp := some ⟨ref, octets, deferred⟩ }
  else
    let s := s.accept l .response (some ref) octets
    s.onMgu l fun k =>
      { k with
        inProgress := none
        heldResp := none
        closing :=
          match deferred with
          | some d => some ⟨d, ref⟩
          | none => k.closing }

/-- R170: the Management Unit builds the response to the request in progress on a link, and offers
it. -/
def State.respond (s : State) (l : Link) (ip : InProgress) (code : ResultCode) (body : List Byte)
    (deferred : Option Deferred) : State :=
  let s := s.queryEvents
  s.offer l ip.ref (responseOctets ip.code ip.tag code s.mgu.eventsWaiting body) deferred

/-- R169, R170: the Management Unit takes a result: it builds the response when the link's record
holds the reference, and discards the result otherwise. -/
def State.takeResult (s : State) (r : Result) : State :=
  match s.mgu.links[r.ref.link].inProgress with
  | some ip => if ip.ref = r.ref then s.respond r.ref.link ip r.code r.body r.deferred else s
  | none => s

/-- R171: a held response is offered again when the response place has been emptied. -/
def State.reoffer (s : State) (l : Link) : State :=
  match s.mgu.links[l].heldResp with
  | some h => s.offer l h.ref h.octets h.deferred
  | none => s

/-- R174: a closing link's effect is carried out when its response has gone. -/
def State.closeAfter (s : State) (l : Link) (ref : Option Ref) : State :=
  match s.mgu.links[l].closing with
  | some c =>
    if ref = some c.ref then
      (s.onMgu l fun k => { k with closing := none }).carryDeferred l c.effect
    else s
  | none => s

/-- R172, R174, R171: the Management Unit takes the report that a place of the transmit list was
emptied, by sending or by discard. -/
def State.placeEmptied (s : State) (l : Link) (place : Place) (ref : Option Ref) : State :=
  match place with
  | .busy => s.onMgu l fun k => { k with busyWaiting := false }
  | .response => (s.closeAfter l ref).reoffer l

/-- R112, R117, R174: the requester of the RESET DEVICE being carried out has left the running
states, so its Link Port takes the reset without waiting for the response (log entry 14). -/
def State.requesterStopped (s : State) (l : Link) : State :=
  match s.mgu.curReset with
  | some r =>
    if r.ref.link = l ∧ r.scope = .device ∧ r.effectDone = false then
      { s.carryDeferred l .reset with
        mgu := { s.mgu with curReset := some { r with effectDone := true } } }
    else s
  | none => s

/-! ## Events (R183) -/

/-- R183: the Event Unit stores a report, or counts it as overflow when the list is full. -/
def EVU.store (e : EVU) (r : Report) : EVU :=
  if e.events.length < 64 then
    { e with
      events := e.events ++ [⟨e.seq, r.stamp.getD e.frameCopy, r.kind, r.subject, r.detail⟩]
      seq := e.seq + 1 }
  else { e with overflow := satInc e.overflow }

/-! ## Resets handed to blocks (R177) -/

/-- R177: a block takes the oldest reset handed to it; otherwise nothing changes. The acknowledgment
goes out when the block has done what its reset rule requires. -/
def State.withReset (s : State) (b : Block) (f : ResetOrder → State → State) : State :=
  match takeFirst (fun o => o.block == b) s.mail.resets with
  | some (o, rest) =>
    let s := f o (s.onMail fun m => { m with resets := rest })
    if o.ack then s.ackReset b else s
  | none => s

/-! ## The time base -/

/-- One tick of a timer: a stopped one stays stopped. -/
def tickTimer (t : Option Nat) : Option Nat := t.map (· + 1)

/-- One tick of a Link Port's timers. -/
def LP.tick (p : LP) : LP :=
  { p with
    timers :=
      ⟨tickTimer p.timers.neg, tickTimer p.timers.restore, tickTimer p.timers.restHold,
        tickTimer p.timers.wake⟩ }

/-- One tick of the hold timer. -/
def Claim.tick (c : Claim) : Claim :=
  match c.phase with
  | .held t => { c with phase := .held (t + 1) }
  | .pending => c

/-- R130: one tick of the memory clear. The last word is written by MEMORY_CLEAR_COMPLETE. -/
def SST.tick (t : SST) : SST :=
  match t.clear with
  | none => t
  | some a =>
    let b := min (a + Config.clearPace a) (Config.memoryWords - 1)
    { t with mem := Memory.clearRange t.mem a b, clear := some b }

/-- R189, R190: one tick of the pulse timers and blink generators. -/
def EVU.tick (e : EVU) : EVU :=
  { e with
    lines := e.lines.map fun n => { n with pulseTimer := tickTimer n.pulseTimer }
    fast := { e.fast with elapsed := e.fast.elapsed + 1 }
    slow := { e.slow with elapsed := e.slow.elapsed + 1 } }

/-- One tick of the internal time base: 250 microseconds pass at every timer (log entry 2). -/
def State.tick (s : State) : State :=
  { s with
    lp := s.lp.map LP.tick
    reu := { s.reu with claim := s.reu.claim.map Claim.tick }
    sst := s.sst.tick
    evu := s.evu.tick }

end Sys2Proof.Machine
end

