-- ==== Sys2Proof/Machine/Events.lean ====
section
/-! DEFINITION. The Event Unit (10): event reports, EVENTS READ, COUNTERS READ, indicator lines, the
copies it keeps, reset. -/

namespace Sys2Proof.Machine

/-- The Event Unit changed. -/
def State.onEvu (s : State) (f : EVU → EVU) : State := { s with evu := f s.evu }

/-- R186: the Event Unit takes the oldest request handed to it when no counter query is outstanding. -/
def State.evuRequest (s : State) (k : RequestKind) (f : Req → State → State) : State :=
  if s.evu.query.isNone then s.withRequest .evu (isKind k) f else s

/-! ## Events -/

/-- EVENT_REPORT (R183): the oldest report a block sent is stored or counted as overflow. -/
def execEventReport (b : Block) (s : State) : Host.Outcome State Fault Refusal :=
  match takeFirst (fun r => r.1 == b) s.mail.reports with
  | some (r, rest) =>
    .next ((s.onMail fun m => { m with reports := rest }).onEvu fun e => e.store r.2)
  | none => .next s

/-- EVENTS_READ (R185). -/
def execEventsRead (s : State) : Host.Outcome State Fault Refusal :=
  .next (s.evuRequest .eventsRead fun req s =>
    let n := octAt req.body 0
    if n = 0 ∨ 8 < n then s.badField .evu req 1
    else
      let out := s.evu.events.take n
      (s.onEvu fun e => { e with events := e.events.drop n, overflow := 0 }).answer .evu req .ok
        (u16 s.evu.overflow ++ u8 out.length ++ out.flatMap EventRecord.octets))

/-- COUNTER_NOTICE (R66): the Event Unit writes its copy of the frame counter. -/
def execCounterNotice (s : State) : Host.Outcome State Fault Refusal :=
  match s.mail.counterNotices with
  | c :: rest =>
    .next ((s.onMail fun m => { m with counterNotices := rest }).onEvu fun e =>
      { e with frameCopy := c })
  | [] => .next s

/-! ## Link counters (R186) -/

/-- COUNTERS_READ (R186): checks, then the counter query. -/
def execCountersRead (s : State) : Host.Outcome State Fault Refusal :=
  .next (s.evuRequest .countersRead fun req s =>
    let l := octAt req.body 0
    let clear := octAt req.body 1
    if 7 < l then s.badField .evu req 1
    else if 1 < clear then s.badField .evu req 2
    else
      (s.onEvu fun e => { e with query := some req }).onMail fun m =>
        { m with counterQuery := some (linkOf l, clear == 1) })

/-- COUNTER_ANSWER (R186). -/
def execCounterAnswer (s : State) : Host.Outcome State Fault Refusal :=
  match s.evu.query, s.mail.counterAnswer with
  | some req, some (l, c) =>
    .next (((s.onEvu fun e => { e with query := none }).onMail fun m =>
      { m with counterAnswer := none }).answer .evu req .ok (u8 l.val ++ c.octets))
  | _, _ => .next s

/-! ## Indicator lines (R188 to R191) -/

/-- R191: an indicator line after INDICATOR SET; a new selector stops the pulse. -/
def IndLine.set (n : IndLine) (sel : Link) (enables : Nat) : IndLine :=
  { sel := sel
    pulse := enables / 8 % 2 == 1
    fast := enables / 4 % 2 == 1
    slow := enables / 2 % 2 == 1
    steady := enables % 2 == 1
    pulseTimer := if n.sel = sel then n.pulseTimer else none }

/-- INDICATOR_SET (R191). -/
def execIndicatorSet (s : State) : Host.Outcome State Fault Refusal :=
  .next (s.evuRequest .indicatorSet fun req s =>
    let line := octAt req.body 0
    let sel := octAt req.body 1
    let enables := octAt req.body 2
    if 3 < line then s.badField .evu req 1
    else if 7 < sel then s.badField .evu req 2
    else if 15 < enables then s.badField .evu req 3
    else
      (s.onEvu fun e =>
        { e with
          lines := updAt e.lines (Fin.ofNat 4 line) fun n => n.set (linkOf sel) enables }).answer .evu
        req .ok (u8 line ++ u8 sel ++ u8 enables))

/-- STATE_NOTICE (R188): the Event Unit writes its copy of a link's state. -/
def execStateNotice (l : Link) (s : State) : Host.Outcome State Fault Refusal :=
  match s.mail.stateNotices[l] with
  | st :: rest =>
    .next ((s.onMail fun m => { m with stateNotices := updAt m.stateNotices l fun _ => rest }).onEvu
      fun e => { e with linkCopy := updAt e.linkCopy l fun _ => st })
  | [] => .next s

/-- R189: the pulse of a line that selects a link starts from zero. -/
def IndLine.startPulse (n : IndLine) (l : Link) : IndLine :=
  { n with pulseTimer := if n.sel = l then some 0 else n.pulseTimer }

/-- COMPLETION_REPORT (R188, R189). -/
def execCompletionReport (l : Link) (s : State) : Host.Outcome State Fault Refusal :=
  if 0 < s.mail.completions[l] then
    .next ((s.onMail fun m => { m with completions := updAt m.completions l (· - 1) }).onEvu fun e =>
      { e with lines := e.lines.map fun n => n.startPulse l })
  else .next s

/-- R189: a pulse timer that has run its time stops. -/
def IndLine.endPulse (n : IndLine) : IndLine :=
  match n.pulseTimer with
  | some t => if Config.pulseTicks ≤ t then { n with pulseTimer := none } else n
  | none => n

/-- PULSE_TIMER_EXPIRY (R189). -/
def execPulseTimerExpiry (n : Fin 4) (s : State) : Host.Outcome State Fault Refusal :=
  .next (s.onEvu fun e => { e with lines := updAt e.lines n IndLine.endPulse })

/-- R190: a blink generator whose phase has run its time changes phase. -/
def Generator.flip (g : Generator) (period : Nat) : Generator :=
  if period ≤ g.elapsed then ⟨!g.on, g.elapsed - period⟩ else g

/-- BLINK_PHASE (R190). -/
def execBlinkPhase (g : Blink) (s : State) : Host.Outcome State Fault Refusal :=
  match g with
  | .fast => .next (s.onEvu fun e => { e with fast := e.fast.flip Config.fastTicks })
  | .slow => .next (s.onEvu fun e => { e with slow := e.slow.flip Config.slowTicks })

/-! ## Reset (R192) -/

/-- R192: the Event Unit after RESET DEVICE, START with detail 1 stored. -/
def EVU.deviceReset (e : EVU) : EVU :=
  { e with events := [], seq := 0, overflow := 0, lines := IndLine.defaults }.store ⟨.start, 0, 1, none⟩

/-- EVU_RESET (R192). -/
def execEvuReset (s : State) : Host.Outcome State Fault Refusal :=
  .next (s.withReset .evu fun o s =>
    match o.scope with
    | .device => s.onEvu EVU.deviceReset
    | .routing => s.onEvu fun e => e.store ⟨.routingReset, o.requester.val, 0, none⟩)

end Sys2Proof.Machine
end

