-- ==== Sys2Proof/Machine/FrameEngine.lean ====
section
/-! DEFINITION. The Frame Engine (01, 03): the frame boundary with adoption, sources, destinations,
saturation and glides; its notices, transactions, reads of the active table, ENGINE STATUS, reset. -/

namespace Sys2Proof.Machine

/-! ## Adoption (R52 to R54) -/

/-- R53: the term of an old entry with a given index, from 0. -/
def ActiveEntry.termAt (e : ActiveEntry) (i : Nat) : Option LiveTerm :=
  match e with
  | .span _ _ => none
  | .mix _ ts _ _ => ts[i]?

/-- R53: the glide state of a term of a new MIX entry: a matched term keeps the current code, an
unmatched one starts at its target. -/
def matchTerm (old : Option ActiveEntry) (i : Nat) (t : Term) : LiveTerm :=
  match old.bind fun e => e.termAt i with
  | some o => ⟨t.source, if o.source = t.source then o.current else t.gain, t.gain⟩
  | none => ⟨t.source, t.gain, t.gain⟩

/-- R54: the saturation counter a new MIX entry with the given destination starts with. -/
def carrySat (old : Option ActiveEntry) (d : Dest) : Nat :=
  match old with
  | some (.mix d' _ n _) => if d' = d then n else 0
  | _ => 0

/-- R52: a position of the new table, with its entry status. -/
def adoptEntry (v : Vector View 8) (old : Option ActiveEntry) (e : Entry) : ActiveEntry :=
  match e with
  | .span s => .span s (spanReach v s)
  | .mix d ts => .mix d (ts.mapIdx fun i t => matchTerm old i t) (carrySat old d) (e.reach v)

/-- R67: a use notice to every Link Port, in link order, with its link's flag. -/
def State.useNotices (s : State) (used : Vector Bool 8) : State :=
  allEight.foldl (fun s l => s.useNotice l used[l]) s

/-- R52: the Frame Engine adopts one table: the active table is replaced, with its cost, entry
status, used flags and use notices, the adoption notice and the COMMIT_ADOPTED report. -/
def State.adopt (s : State) (h : HandOff) : State :=
  let active := Table.mapVal (fun pos e => adoptEntry s.fe.view (Table.get? s.fe.active pos) e) h.table
  let used := Vector.ofFn fun l => linkUsed active l
  let s := { s with fe := { s.fe with active := active, cost := h.cost, used := used } }
  ((s.useNotices used).fate ⟨h.number, some s.fe.counter⟩).report .fe .commitAdopted h.owner.val
    (s.fe.counter.toNat % 65536) (some s.fe.counter)

/-- R50 step 1, R51: the oldest table of the hand-off queue is adopted. -/
def State.adoptOldest (s : State) : State :=
  match s.fe.queue with
  | h :: rest => { s with fe := { s.fe with queue := rest } }.adopt h
  | [] => s

/-! ## Sources (R55 to R57) -/

/-- R56: the word a LINK source reads; `rx` is the link's receive frame of the frame just ended. -/
def readLink (v : View) (rx : Option (List Slot)) (slot : Nat) : Slot :=
  if v.cls = .up ∧ slot ≤ v.count then
    match rx with
    | some f => (f[slot - 1]?).getD Slot.substituted
    | none => Slot.substituted
  else Slot.substituted

/-- R145: the word posted for a player in a frame, when it has been posted. -/
def PLB.posted (b : PLB) (frame : Nat) (p : Player) : Option Slot :=
  let pick (o : Option Posted) : Option Slot :=
    match o with
    | some q => if q.frame = frame then q.words[p] else none
    | none => none
  match pick b.cur with
  | some w => some w
  | none => pick b.prev

/-- R57: the word a PLAYER source reads at the boundary that opens frame `k`, which is the word posted
for frame `k - 1`. A word not posted by then is a free value (log entry 7). -/
def readPlayer (b : PLB) (k : Nat) (p : Player) : Slot :=
  match k with
  | 0 => Config.latePlayerWord p 0
  | n + 1 => (b.posted n p).getD (Config.latePlayerWord p k)

/-- R55 to R57: what every source reads at one boundary. -/
def State.readSource (s : State) : Source → Slot
  | .link l slot => readLink s.fe.view[l] s.lp[l].rx slot
  | .player p => readPlayer s.plb s.fe.period p

/-! ## Destinations (R58 to R63) -/

/-- R59: the exact weighted sum of the terms. -/
def mixSum (read : Source → Slot) (ts : List LiveTerm) : Int :=
  (ts.map fun t => (read t.source).sample.toInt * (gainFactor t.current : Int)).sum

/-- R59: the sum shifted right by 20 bits, rounded toward minus infinity. -/
def mixShifted (read : Source → Slot) (ts : List LiveTerm) : Int := mixSum read ts / 1048576

/-- R59, R60: the value limited to the sample range. -/
def limit (x : Int) : Sample := BitVec.ofInt 24 (max (-8388608) (min 8388607 x))

/-- R60: whether the frame is a saturated frame for an entry. -/
def saturated (x : Int) : Bool := decide (8388607 < x) || decide (x < -8388608)

/-- R61: the status of a MIX entry's result. -/
def mixStatus (read : Source → Slot) (ts : List LiveTerm) : SlotStatus :=
  if ts.any fun t => (read t.source).status == .subst then .subst
  else if ts.all fun t => (read t.source).status == .idle then .idle
  else .live

/-- R59 to R61: the result of a MIX entry. -/
def mixResult (read : Source → Slot) (ts : List LiveTerm) : Slot :=
  ⟨limit (mixShifted read ts), mixStatus read ts⟩

/-- The result of the MIX entry that covers a destination. -/
def mixAt (read : Source → Slot) (t : Table ActiveEntry) (d : Dest) : Option Slot :=
  t.findSome? fun e =>
    match e.2 with
    | .mix d' ts _ _ => if d' = d then some (mixResult read ts) else none
    | .span _ _ => none

/-- R58, R62: what the span that covers a link slot in reach writes there; sample 0 with status IDLE
when its source slot is out of reach. -/
def spanAt (v : Vector View 8) (read : Source → Slot) (t : Table ActiveEntry) (d : Dest) :
    Option Slot :=
  match d with
  | .recorder _ => none
  | .link _ slot =>
    t.findSome? fun e =>
      match e.2 with
      | .span s _ =>
        if s.covers d then
          let src := s.srcFirst + (slot - s.dstFirst)
          some (if slotInReach v s.srcLink src then read (.link s.srcLink src) else Slot.silent)
        else none
      | .mix _ _ _ _ => none

/-- R8, R58, R62, R63: what a destination in reach carries: the MIX entry that covers it governs, then
the span, else sample 0 with status IDLE. -/
def produce (v : Vector View 8) (read : Source → Slot) (t : Table ActiveEntry) (d : Dest) : Slot :=
  match mixAt read t d with
  | some w => w
  | none => (spanAt v read t d).getD Slot.silent

/-- R62: the transmit frame of a link, or the not-written mark. -/
def transmitFrame (v : Vector View 8) (read : Source → Slot) (t : Table ActiveEntry) (l : Link) :
    Option (List Slot) :=
  if v[l].cls = .up ∨ v[l].cls = .wake then
    some ((List.range v[l].count).map fun i => produce v read t (.link l (i + 1)))
  else none

/-- R60, R64: an entry after a boundary: its saturation counter and its glides. -/
def ActiveEntry.advance (v : Vector View 8) (read : Source → Slot) : ActiveEntry → ActiveEntry
  | .span s r => .span s r
  | .mix d ts n r =>
    .mix d (ts.map LiveTerm.glide)
      (if d.inReach v && saturated (mixShifted read ts) then satInc n else n) r

/-! ## The frame boundary (R50) -/

/-- R50 steps 2 to 6: sources read, destinations computed and written, glides stepped, the frame
counter incremented. A Link Port sends in the frame now open what the boundary before handed it. -/
def State.computeFrame (s : State) : State :=
  let v := s.fe.view
  let read := s.readSource
  let active := s.fe.active
  let next := s.fe.counter + 1
  let words (r : Rec) : List Slot := [produce v read active (.recorder r)]
  let s' :=
    { s with
      lp := Vector.ofFn fun l =>
        { s.lp[l] with
          rx := none, txNow := s.lp[l].txNext, txNext := transmitFrame v read active l }
      fe :=
        { s.fe with
          active := Table.mapVal (fun _ e => ActiveEntry.advance v read e) active
          counter := next
          period := s.fe.period + 1 } }
  (s'.onMail fun m =>
    { m with inputWords := Vector.ofFn fun r => m.inputWords[r] ++ words r }).counterNotice next

/-- FE_FRAME_BOUNDARY (R50). -/
def execFeFrameBoundary (s : State) : Host.Outcome State Fault Refusal :=
  .next s.adoptOldest.computeFrame

/-! ## Hand-offs, views and transactions -/

/-- HAND_OFF (R51): the Frame Engine appends the table to its hand-off queue. -/
def execHandOff (s : State) : Host.Outcome State Fault Refusal :=
  match s.mail.handOffs with
  | h :: rest =>
    .next ({ s with fe := { s.fe with queue := s.fe.queue ++ [h] } }.onMail fun m =>
      { m with handOffs := rest })
  | [] => .next s

/-- R14: the entries that reference a link have their reach status decided again. -/
def redecideOn (v : Vector View 8) (l : Link) (t : Table ActiveEntry) : Table ActiveEntry :=
  Table.mapVal (fun _ e => if e.entry.onLink l then e.redecide v else e) t

/-- LINK_VIEW_NOTICE (R10, R14). -/
def execLinkViewNotice (l : Link) (s : State) : Host.Outcome State Fault Refusal :=
  match s.mail.viewNotices[l] with
  | v :: rest =>
    let old := s.fe.view[l]
    let views := updAt s.fe.view l fun _ => v
    let active := if old.count = v.count then s.fe.active else redecideOn views l s.fe.active
    .next ({ s with fe := { s.fe with view := views, active := active } }.onMail fun m =>
      { m with viewNotices := updAt m.viewNotices l fun _ => rest })
  | [] => .next s

/-- R26: the Frame Engine answers the outstanding transaction. -/
def State.answerReu (s : State) (a : FeAnswer) : State :=
  s.onMail fun m => { m with reuAsk := none, feAnswer := some a }

/-- ACTIVE_TABLE_COPY (R26, R23): a copy of every position's record, targets as gain codes. -/
def execActiveTableCopy (s : State) : Host.Outcome State Fault Refusal :=
  match s.mail.reuAsk with
  | some .copy => .next (s.answerReu (.copy (Table.mapVal (fun _ e => e.entry) s.fe.active)))
  | _ => .next s

/-- LINK_VIEW_SNAPSHOT (R26, R40). -/
def execLinkViewSnapshot (s : State) : Host.Outcome State Fault Refusal :=
  match s.mail.reuAsk with
  | some .snapshot => .next (s.answerReu (.snapshot s.fe.view))
  | _ => .next s

/-- R47: the entry with the target of a term set, `term` from 1; none when there is no such term. -/
def ActiveEntry.setTarget (e : ActiveEntry) (term code : Nat) : Option ActiveEntry :=
  match e with
  | .span _ _ => none
  | .mix d ts n r =>
    if ts.length < term then none
    else some (.mix d (ts.modify (term - 1) fun t => { t with target := code }) n r)

/-- GAIN_ADJUST_APPLY (R47, R16): the Frame Engine sets the term's target, or answers not found. -/
def execGainAdjustApply (s : State) : Host.Outcome State Fault Refusal :=
  match s.mail.reuAsk with
  | some (.gain pos term code) =>
    match (Table.get? s.fe.active pos).bind fun e => e.setTarget term code with
    | some e =>
      .next ({ s with fe := { s.fe with active := Table.put s.fe.active pos e } }.answerReu (.gain true))
    | none => .next (s.answerReu (.gain false))
  | _ => .next s

/-! ## Reads of the active table (R17 to R19) -/

/-- R17, R202: an active entry as ENTRY READ returns it. -/
def ActiveEntry.octets (e : ActiveEntry) : List Byte :=
  e.entry.octets ++ u8 e.reach.code ++
    match e with
    | .span _ _ => []
    | .mix _ ts n _ => u16 n ++ ts.flatMap fun t => u8 t.current ++ u8 t.target

/-- ENTRY_READ_ACTIVE (R17, R18). -/
def execEntryReadActive (s : State) : Host.Outcome State Fault Refusal :=
  .next (s.withRequest .fe (isKind .entryRead) fun req s =>
    let pos := field16 req.body 1
    if 511 < pos then s.badField .fe req 2
    else match Table.get? s.fe.active pos with
      | some e => s.answer .fe req .ok e.octets
      | none => s.answer .fe req .notFound [])

/-- TABLE_SUMMARY_ACTIVE (R19). -/
def execTableSummaryActive (s : State) : Host.Outcome State Fault Refusal :=
  .next (s.withRequest .fe (isKind .tableSummary) fun req s =>
    s.answer .fe req .ok
      (occupancyMap s.fe.active ++ u16 s.fe.active.length ++ u16 s.fe.cost))

/-! ## Engine status (R69, R70) -/

/-- R70: the fields of ENGINE STATUS the Frame Engine owns, taken together. -/
def FE.statusOf (e : FE) (req : Req) : StatusWait :=
  { req := req
    counter := e.counter
    count := e.active.length
    cost := e.cost
    parts := e.active.countP fun x => x.2.reach == .part
    nones := e.active.countP fun x => x.2.reach == .none
    satSum := min (e.active.map fun x => x.2.sat).sum 4294967295 }

/-- ENGINE_STATUS (R70): the Frame Engine takes its own fields and asks the REU. -/
def execEngineStatus (s : State) : Host.Outcome State Fault Refusal :=
  .next (s.withRequest .fe (isKind .engineStatus) fun req s =>
    { s with fe := { s.fe with status := s.fe.status ++ [s.fe.statusOf req] } }.onMail fun m =>
      { m with claimQueries := m.claimQueries + 1 })

/-- R69, R202: the body of an ENGINE STATUS response; `claim` is the owner and the pending flag. -/
def StatusWait.octets (w : StatusWait) (claim : Option Link × Bool) : List Byte :=
  u32 w.counter.toNat ++ u16 w.count ++ u16 w.cost ++
    u8 ((claim.1.map fun l => l.val).getD 8) ++ uBool claim.2 ++ u16 w.parts ++ u16 w.nones ++
    u32 w.satSum

/-- CLAIM_ANSWER (R70): the Frame Engine completes the oldest ENGINE STATUS that waits. -/
def execClaimAnswer (s : State) : Host.Outcome State Fault Refusal :=
  match s.mail.claimAnswers, s.fe.status with
  | a :: answers, w :: waits =>
    .next (({ s with fe := { s.fe with status := waits } }.onMail fun m =>
      { m with claimAnswers := answers }).answer .fe w.req .ok (w.octets a))
  | _, _ => .next s

/-! ## Reset (R71) -/

/-- R51, R71: the Frame Engine empties the active table and its queue, clears the used flags and says
so to the REU and every Link Port. -/
def State.emptyEngine (s : State) : State :=
  let discards := s.fe.queue.map fun h => (⟨h.number, none⟩ : Fate)
  let used := Vector.replicate 8 false
  let s := { s with fe := { s.fe with active := [], cost := 0, queue := [], used := used } }
  (s.onMail fun m => { m with fates := m.fates ++ discards }).useNotices used

/-- FE_RESET (R71, R66): RESET DEVICE also sets the frame counter to 0. -/
def execFeReset (s : State) : Host.Outcome State Fault Refusal :=
  .next (s.withReset .fe fun o s =>
    let s := s.emptyEngine
    match o.scope with
    | .routing => s
    | .device => { s with fe := { s.fe with counter := 0 } }.counterNotice 0)

end Sys2Proof.Machine
end

