-- ==== Sys2Proof/Machine/LinkPorts.lean ====
section
/-! DEFINITION. The Link Ports' own events (04, 05, 06): received frames, alignment, training,
signal, timers, use notices, transmitted frames, and the notices of the Management Unit. -/

namespace Sys2Proof.Machine

/-! ## Events that a frame makes due

R79, R80, R86, R105, R107, R121, R125: the frame that completes a run, a window or a message sent
makes the event due; the event is the next one of its Link Port. Each `due…` function acts when its
event is due and changes nothing otherwise. -/

/-- R79, R92: the acquisition run has reached 8 in LISTEN: aligned, and the link moves to NEGOTIATE. -/
def State.dueAlignmentAcquired (s : State) (l : Link) : State :=
  let p := s.lp[l]
  if p.state = .listen ∧ 8 ≤ p.align.acqRun then
    (s.onLp l fun p =>
      { p with
        align :=
          { p.align with
            acqRun := 0, badRun := 0
            expected := (p.align.prev.map Sync.other).getD p.align.expected } }).moveLink
      l .negotiate
  else s

/-- R80, R92: the bad run has reached 4: alignment is lost, with LINK_LOST and an alignment-loss
count from a running state. -/
def State.dueAlignmentLoss (s : State) (l : Link) : State :=
  let p := s.lp[l]
  if p.state.beyondListen = true ∧ 4 ≤ p.align.badRun then
    let s :=
      if p.state.running then
        (s.onLp l fun p =>
          { p with
            counters := { p.counters with alignLosses := satInc p.counters.alignLosses } }).report
          (.lp l) .linkLost l.val p.slotCount
      else s
    s.moveLink l .listen
  else s

/-- R105: the window has passed: its 256th frame is judged with at most 2 error frames. -/
def State.dueWindowPass (s : State) (l : Link) : State :=
  let p := s.lp[l]
  match p.train.window with
  | some w =>
    if p.state = .train ∧ p.rdy = false ∧ 256 ≤ w.judged ∧ w.errors ≤ 2 then
      s.onLp l fun p => { p with rdy := true }
    else s
  | none => s

/-- R105, R107: the window has failed: its error count has reached 3. -/
def State.dueWindowFail (s : State) (l : Link) : State :=
  let p := s.lp[l]
  match p.train.window with
  | some w => if p.state = .train ∧ 3 ≤ w.errors then s.trainingFailure l else s
  | none => s

/-- R107: the 512th frame in TRAIN has ended without the link having entered UP. -/
def State.dueTrainLimit (s : State) (l : Link) : State :=
  let p := s.lp[l]
  if p.state = .train ∧ 512 ≤ p.train.frames then s.trainingFailure l else s

/-- R121: the set run has reached 16 with the own RST set: the link enters REST. -/
def State.dueRestEntered (s : State) (l : Link) : State :=
  let p := s.lp[l]
  if p.state = .up ∧ p.rest.ownRst = true ∧ 16 ≤ p.rest.setRun then
    (s.moveLink l .rest).report (.lp l) .restEntered l.val p.slotCount
  else s

/-- R125: the clear run has reached 16 in WAKE: the link returns to UP. -/
def State.dueClearRunComplete (s : State) (l : Link) : State :=
  let p := s.lp[l]
  if p.state = .wake ∧ 16 ≤ p.rest.clearRun then s.moveLink l .up else s

/-- Whatever a received frame has made due on a link. -/
def State.settleFrame (s : State) (l : Link) : State :=
  (((((((s.dueAlignmentAcquired l).dueAlignmentLoss l).dueWindowPass l).dueWindowFail l).dueTrainLimit
    l).dueRestEntered l).dueClearRunComplete l)

/-- R86: the message whose last octet has been sent leaves its place, reported to the Management Unit
and the Event Unit. -/
def State.dueResponseSent (s : State) (l : Link) : State :=
  match s.lp[l].txq with
  | m :: rest =>
    if m.octets.length ≤ s.lp[l].txSent then
      ((s.onLp l fun p => { p with txq := rest, txSent := 0 }).toMgu l [.sent m.place m.ref]).completion l
    else s
  | [] => s

/-- What an earlier frame, received or sent, has made due on a link happens before any other event of
that Link Port is taken (log entry 10): so a frame taken before a use notice, a timer's expiry or a
request has its outcome first (R90, R122, R126). -/
def State.settleLink (s : State) (l : Link) : State := (s.dueResponseSent l).settleFrame l

/-! ## Pages (R97 to R101) -/

/-- R99: the own ACK flag: the base page is accepted and its next pages 1 to N are. -/
def PageRx.complete (x : PageRx) : Bool :=
  match x.base with
  | some b => (x.next.toList.take b.nextCount).all Option.isSome
  | none => false

/-- R99: the own ACK flag decided again. -/
def PageRx.decideAck (x : PageRx) : PageRx := { x with ownAck := x.complete }

/-- R98: a reception of page 0. -/
def PageRx.baseReception (x : PageRx) (c : BasePage) (ack : Bool) : PageRx :=
  if x.lastBase = some c then
    { x with
      base := some c
      next := if x.base = none ∨ x.base = some c then x.next else Vector.replicate 4 none
      partnerAck := ack }.decideAck
  else
    { x with
      lastBase := some c
      partnerAck := if x.base = some c then ack else x.partnerAck }

/-- R97, R98: a reception of next page `i + 1`, ignored when the accepted base page announces fewer. -/
def PageRx.nextReception (x : PageRx) (i : Fin 4) (chars : List Byte) : PageRx :=
  if (x.base.map fun b => decide (b.nextCount < i.val + 1)).getD false then x
  else if x.lastNext[i] = some chars then
    { x with next := updAt x.next i fun _ => some chars }.decideAck
  else { x with lastNext := updAt x.lastNext i fun _ => some chars }

/-- R97, R198: a complete page: a reception of its number, or ignored. -/
def PageRx.page (x : PageRx) (os : List Byte) : PageRx :=
  match octAt os 0 with
  | 0 =>
    if 4 < (basePageOf os).nextCount then x else x.baseReception (basePageOf os) (basePageAck os)
  | 1 => x.nextReception 0 (nextPageChars os)
  | 2 => x.nextReception 1 (nextPageChars os)
  | 3 => x.nextReception 2 (nextPageChars os)
  | 4 => x.nextReception 3 (nextPageChars os)
  | _ => x

/-- R97: a PAGE word with good sync. -/
def PageRx.word (x : PageRx) (quarter : Nat) (o1 o2 : Byte) : PageRx :=
  if quarter = 0 then { x with part := [o1, o2] }
  else if x.part.length = 2 * quarter then
    if quarter = 3 then { x with part := [] }.page (x.part ++ [o1, o2])
    else { x with part := x.part ++ [o1, o2] }
  else { x with part := [] }

/-- R99 to R101: agreement, when both ACK flags are set: a common grade writes the partner record and
moves the link to TRAIN; no common grade reports NEGOTIATION_FAILED once per stay. -/
def State.agreement (s : State) (l : Link) : State :=
  let p := s.lp[l]
  match p.pageRx.ownAck && p.pageRx.partnerAck, p.pageRx.base with
  | true, some b =>
    match (p.advert.inter b.advert).best with
    | some g =>
      (s.onLp l fun p =>
        { p with
          partner := some ⟨b, labelOf b.nextCount p.pageRx.next, g, true⟩
          agreed := some g }).moveLink l .train
    | none =>
      if p.pageRx.failReported then s
      else
        (s.onLp l fun p => { p with pageRx := { p.pageRx with failReported := true } }).report
          (.lp l) .negotiationFailed l.val 0
  | _, _ => s

/-! ## Message assembly (R82 to R84) -/

/-- What a message word brings about beside the assembly's new state. -/
inductive AsmOut where
  | nothing
  | codeError
  | discard
  | good (msg : List Byte)
  deriving DecidableEq, Repr

/-- R83: a completed run of octets: too short, a wrong check, or a good message. -/
def finishMessage (buf : List Byte) : AsmOut :=
  if buf.length < 6 then .discard
  else if buf.drop (buf.length - 2) = u16 (crc16 (buf.take (buf.length - 2))).toNat then
    .good (buf.take (buf.length - 2))
  else .discard

/-- R82, R84: one message word. The buffer holds at most 406 octets; an overflow discards. -/
def Assembly.word (a : Assembly) (code : ServiceCode) (o1 o2 : Byte) : Assembly × AsmOut :=
  match code, a with
  | .msgFirst, .assembling _ => (.assembling [o1, o2], .discard)
  | .msgFirst, _ => (.assembling [o1, o2], .nothing)
  | .msgMore, .assembling buf =>
    if 406 < buf.length + 2 then (.skipping, .discard) else (.assembling (buf ++ [o1, o2]), .nothing)
  | .msgLast2, .assembling buf =>
    if 406 < buf.length + 2 then (.skipping, .discard) else (.empty, finishMessage (buf ++ [o1, o2]))
  | .msgLast1, .assembling buf =>
    if 406 < buf.length + 1 then (.skipping, .discard) else (.empty, finishMessage (buf ++ [o1]))
  | .msgAbort, .assembling _ => (.empty, .discard)
  | .msgMore, .empty | .msgLast2, .empty | .msgLast1, .empty => (.empty, .codeError)
  | .msgAbort, .empty => (.empty, .nothing)
  | .msgMore, .skipping => (.skipping, .nothing)
  | .msgLast2, .skipping | .msgLast1, .skipping | .msgAbort, .skipping => (.empty, .nothing)
  | .fill, a | .page, a | .train, a => (a, .nothing)

/-- R81, R83: what a message word brings about, carried out: a count, or the good message handed to
the Management Unit with the partner's MGR flag (R167) and reported as completed (R188). -/
def State.asmResult (s : State) (l : Link) (out : AsmOut) : State :=
  match out with
  | .nothing => s
  | .codeError =>
    s.onLp l fun p => { p with counters := { p.counters with codeErrors := satInc p.counters.codeErrors } }
  | .discard =>
    s.onLp l fun p => { p with counters := { p.counters with discarded := satInc p.counters.discarded } }
  | .good msg =>
    let mgr := (s.lp[l].partner.map fun r => r.base.mgr).getD false
    (s.toMgu l [.message msg mgr]).completion l

/-! ## Received frames (R74 to R80, R105, R106, R120) -/

/-- R79: the sync judgement of a frame in LISTEN. -/
def LP.judgeListen (p : LP) (sync : Option Sync) : LP :=
  match sync with
  | none =>
    { p with
      align := { p.align with acqRun := 0, prev := none }
      counters := { p.counters with serviceErrors := satInc p.counters.serviceErrors } }
  | some v =>
    if p.align.acqRun = 0 then { p with align := { p.align with acqRun := 1, prev := some v } }
    else if p.align.prev = some v then
      { p with
        align := { p.align with acqRun := 1, prev := some v }
        counters := { p.counters with serviceErrors := satInc p.counters.serviceErrors } }
    else { p with align := { p.align with acqRun := p.align.acqRun + 1, prev := some v } }

/-- R80: whether a frame received while aligned has good sync. -/
def LP.goodSync (p : LP) (sync : Option Sync) : Bool := sync == some p.align.expected

/-- R80: the sync judgement of a frame received while aligned. -/
def LP.judgeAligned (p : LP) (good : Bool) : LP :=
  { p with
    align :=
      { p.align with
        expected := p.align.expected.other
        badRun := if good then 0 else min (p.align.badRun + 1) 4 }
    counters :=
      if good then p.counters
      else { p.counters with serviceErrors := satInc p.counters.serviceErrors } }

/-- R78: an undefined code in a word with good sync counts a service code error. -/
def LP.countCode (p : LP) (good : Bool) (code : Option ServiceCode) : LP :=
  if good && code.isNone then
    { p with counters := { p.counters with codeErrors := satInc p.counters.codeErrors } }
  else p

/-- The first `n` slots of a received payload. -/
def payloadSlots (payload : Vector Word 64) (n : Nat) : List Slot := (payload.toList.take n).map slotOf

/-- R104: the training word of slot `s` in a frame with the given sync pattern. -/
def trainingSlot (sync : Sync) (slot : Nat) : Slot :=
  let v := BitVec.ofNat 24 (slot * 65793)
  ⟨match sync with | .a => v | .b => ~~~v, .live⟩

/-- R104: the training payload of a frame. -/
def trainingPayload (sync : Sync) (n : Nat) : List Slot :=
  (List.range n).map fun i => trainingSlot sync (i + 1)

/-- R105: whether a frame is an error frame of the training window. `sync` is the pattern expected. -/
def errorFrame (good : Bool) (code : Option ServiceCode) (sync : Sync) (payload : List Slot) : Bool :=
  !good || code != some .train || payload != trainingPayload sync payload.length

/-- R105: the training window after a frame: it opens at the first good TRAIN word and judges 256
frames, stopping at the third error. -/
def Window.judge (w : Option Window) (good : Bool) (code : Option ServiceCode) (err : Bool) :
    Option Window :=
  match w with
  | none => if good && code == some .train then some ⟨1, err.toNat⟩ else none
  | some w =>
    if 256 ≤ w.judged ∨ 3 ≤ w.errors then some w else some ⟨w.judged + 1, w.errors + err.toNat⟩

/-- R105, R107: a frame received in TRAIN. Once the window has passed no further frame is judged. -/
def LP.trainFrame (p : LP) (good : Bool) (code : Option ServiceCode) (payload : List Slot) : LP :=
  { p with
    train :=
      { frames := p.train.frames + 1
        window :=
          if p.rdy then p.train.window
          else Window.judge p.train.window good code (errorFrame good code p.align.expected payload) } }

/-- R120: the runs after a frame received in a running state, and the partner's RST flag. -/
def LP.countRst (p : LP) (good rst : Bool) : LP :=
  { p with
    rest :=
      if good then
        if rst then { p.rest with partnerRst := true, setRun := min (p.rest.setRun + 1) 16, clearRun := 0 }
        else { p.rest with partnerRst := false, setRun := 0, clearRun := min (p.rest.clearRun + 1) 16 }
      else { p.rest with setRun := 0, clearRun := 0 } }

/-- R84: bad sync discards a message in assembly. -/
def LP.badSyncAssembly (p : LP) : LP :=
  match p.asm with
  | .assembling _ =>
    { p with
      asm := .skipping
      counters := { p.counters with discarded := satInc p.counters.discarded } }
  | .empty | .skipping => p

/-- R78, R97: a frame in NEGOTIATE. -/
def State.frameNegotiate (s : State) (l : Link) (w : Word) : State :=
  let good := s.lp[l].goodSync (svcSync w)
  let s := s.onLp l fun p => (p.judgeAligned good).countCode good (svcCode w)
  if good && svcCode w == some .page then
    (s.onLp l fun p =>
      { p with pageRx := p.pageRx.word (svcQuarter w) (svcOctet1 w) (svcOctet2 w) }).agreement l
  else s

/-- R78, R105, R106: a frame in TRAIN. A link whose window passed before this frame moves to UP on a
good word with RDY set. -/
def State.frameTrain (s : State) (l : Link) (w : Word) (payload : Vector Word 64) : State :=
  let p := s.lp[l]
  let good := p.goodSync (svcSync w)
  let s := s.onLp l fun p =>
    ((p.trainFrame good (svcCode w) (payloadSlots payload p.slotCount)).judgeAligned good).countCode
      good (svcCode w)
  if good && p.rdy && svcRdy w then
    (s.moveLink l .up).report (.lp l) .linkUp l.val p.slotCount
  else s

/-- R76: the receive frame presented for a frame received in a running state. -/
def receiveFrame (good : Bool) (payload : Vector Word 64) (n : Nat) : List Slot :=
  if good then payloadSlots payload n else List.replicate n Slot.substituted

/-- R78, R82, R84, R120, R124: a frame in UP, REST or WAKE. -/
def State.frameRunning (s : State) (l : Link) (w : Word) (payload : Vector Word 64) : State :=
  let p := s.lp[l]
  let good := p.goodSync (svcSync w)
  let s := s.onLp l fun p =>
    { (p.judgeAligned good).countCode good (svcCode w) with
      rx := some (receiveFrame good payload p.slotCount) }
  let s := if p.state = .rest ∧ good = true ∧ svcRst w = false then s.moveLink l .wake else s
  let s := s.onLp l fun p => p.countRst good (svcRst w)
  if good then
    match svcCode w with
    | some code =>
      let r := s.lp[l].asm.word code (svcOctet1 w) (svcOctet2 w)
      (s.onLp l fun p => { p with asm := r.1 }).asmResult l r.2
    | none => s
  else s.onLp l LP.badSyncAssembly

/-- RECEIVED_FRAME (R78): a Link Port takes a received frame and acts on it by its state. -/
def execReceivedFrame (l : Link) (w : Word) (payload : Vector Word 64) (s : State) :
    Host.Outcome State Fault Refusal :=
  let s := s.settleLink l
  match s.lp[l].state with
  | .disabled | .down => .next s
  | .listen => .next (s.onLp l fun p => p.judgeListen (svcSync w))
  | .negotiate => .next (s.frameNegotiate l w)
  | .train => .next (s.frameTrain l w payload)
  | .up | .rest | .wake => .next (s.frameRunning l w payload)

/-- ALIGNMENT_ACQUIRED (R79, R92). -/
def execAlignmentAcquired (l : Link) (s : State) : Host.Outcome State Fault Refusal :=
  .next (s.dueAlignmentAcquired l)

/-- ALIGNMENT_LOSS (R80, R92). -/
def execAlignmentLoss (l : Link) (s : State) : Host.Outcome State Fault Refusal :=
  .next (s.dueAlignmentLoss l)

/-- WINDOW_PASS (R105). -/
def execWindowPass (l : Link) (s : State) : Host.Outcome State Fault Refusal :=
  .next (s.dueWindowPass l)

/-- WINDOW_FAIL (R105, R107, R108). -/
def execWindowFail (l : Link) (s : State) : Host.Outcome State Fault Refusal :=
  .next (s.dueWindowFail l)

/-- TRAIN_LIMIT (R107, R108). -/
def execTrainLimit (l : Link) (s : State) : Host.Outcome State Fault Refusal :=
  .next (s.dueTrainLimit l)

/-- REST_ENTERED (R121). -/
def execRestEntered (l : Link) (s : State) : Host.Outcome State Fault Refusal :=
  .next (s.dueRestEntered l)

/-- CLEAR_RUN_COMPLETE (R125). -/
def execClearRunComplete (l : Link) (s : State) : Host.Outcome State Fault Refusal :=
  .next (s.dueClearRunComplete l)

/-! ## Signal and timers -/

/-- SIGNAL_DETECT (R90, R93): in DOWN, unless held after hardware reset, the link moves to LISTEN. -/
def execSignalDetect (l : Link) (s : State) : Host.Outcome State Fault Refusal :=
  let s := s.settleLink l
  if s.lp[l].state = .down ∧ s.lp[l].held = false then .next (s.moveLink l .listen) else .next s

/-- SIGNAL_LOSS (R90): in any state but DISABLED and DOWN the link moves to DOWN, with LINK_DOWN from
a running state. -/
def execSignalLoss (l : Link) (s : State) : Host.Outcome State Fault Refusal :=
  let s := s.settleLink l
  let p := s.lp[l]
  if p.state = .disabled ∨ p.state = .down then .next s
  else if p.state.running then
    .next ((s.report (.lp l) .linkDown l.val p.slotCount).moveLink l .down)
  else .next (s.moveLink l .down)

/-- NEGOTIATION_TIMER_EXPIRY (R102). -/
def execNegotiationTimerExpiry (l : Link) (s : State) : Host.Outcome State Fault Refusal :=
  let s := s.settleLink l
  match s.lp[l].state, s.lp[l].timers.neg with
  | .negotiate, some t =>
    if Config.negotiationTicks ≤ t then
      .next ((s.onLp l fun p => { p with negTimeouts := satInc p.negTimeouts }).moveLink l .listen)
    else .next s
  | _, _ => .next s

/-- RESTORE_TIMER_EXPIRY (R110). -/
def execRestoreTimerExpiry (l : Link) (s : State) : Host.Outcome State Fault Refusal :=
  .next ((s.settleLink l).restoreExpired l)

/-- REST_HOLD_TIMER_EXPIRY (R119): the own RST flag is set and the set run cleared. -/
def execRestHoldTimerExpiry (l : Link) (s : State) : Host.Outcome State Fault Refusal :=
  let s := s.settleLink l
  match s.lp[l].state, s.lp[l].timers.restHold with
  | .up, some t =>
    if s.lp[l].cfg.restHold * Config.ticksPerMs ≤ t then
      .next (s.onLp l fun p =>
        { p with
          rest := { p.rest with ownRst := true, setRun := 0 }
          timers := { p.timers with restHold := none } })
    else .next s
  | _, _ => .next s

/-- WAKE_TIMER_EXPIRY (R126): a sixteenth clear frame taken before it has returned the link to UP, and
there is no expiry then. -/
def execWakeTimerExpiry (l : Link) (s : State) : Host.Outcome State Fault Refusal :=
  let s := s.settleLink l
  match s.lp[l].state, s.lp[l].timers.wake with
  | .wake, some t =>
    if Config.wakeTicks ≤ t then
      .next ((s.report (.lp l) .wakeFailed l.val s.lp[l].slotCount).moveLink l .listen)
    else .next s
  | _, _ => .next s

/-! ## Use notices (R67, R119, R122, R124) -/

/-- R119, R122, R124: a use notice that changes the held flag, by the state of the link. -/
def State.useChanged (s : State) (l : Link) (used : Bool) : State :=
  let s := s.onLp l fun p => { p with rest := { p.rest with used := used } }
  match s.lp[l].state with
  | .up =>
    if used then
      s.onLp l fun p =>
        { p with
          timers := { p.timers with restHold := none }
          rest :=
            if p.rest.ownRst then { p.rest with ownRst := false, setRun := 0 } else p.rest }
    else s.onLp l LP.startRestHold
  | .rest => if used then s.moveLink l .wake else s
  | .disabled | .down | .listen | .negotiate | .train | .wake => s

/-- USE_NOTICE (R67, R119, R122, R124, R125): a repeated flag changes nothing. A sixteenth frame of the
set run taken before it has taken the link to REST, which the notice then wakes (R122). -/
def execUseNotice (l : Link) (s : State) : Host.Outcome State Fault Refusal :=
  let s := s.settleLink l
  match s.mail.useNotices[l] with
  | used :: rest =>
    let s := s.onMail fun m => { m with useNotices := updAt m.useNotices l fun _ => rest }
    if s.lp[l].rest.used = used then .next s else .next (s.useChanged l used)
  | [] => .next s

/-! ## Transmitted frames (R73, R75, R77, R86, R96, R104) -/

/-- R86: the code, octets and new send position of the next word of the message being sent. -/
def messageWord (octets : List Byte) (sent : Nat) : ServiceCode × Byte × Byte × Nat :=
  let o1 := (octets[sent]?).getD 0
  let o2 := (octets[sent + 1]?).getD 0
  if octets.length - sent = 1 then (.msgLast1, o1, 0, sent + 1)
  else if sent = 0 then (.msgFirst, o1, o2, 2)
  else if octets.length - sent = 2 then (.msgLast2, o1, o2, sent + 2)
  else (.msgMore, o1, o2, sent + 2)

/-- R96: the page being sent, with the own ACK flag taken when the base page starts. -/
def LP.pageNow (p : LP) : List Byte :=
  if p.pageTx.quarter = 0 then startPage p.pageTx.pages p.pageTx.index p.pageRx.ownAck
  else p.pageTx.now

/-- R96: the round of pages after one quarter has been sent. -/
def LP.nextQuarter (p : LP) : PageTx :=
  if p.pageTx.quarter < 3 then
    { p.pageTx with quarter := p.pageTx.quarter + 1, now := p.pageNow }
  else
    { p.pageTx with
      quarter := 0
      now := p.pageNow
      index := if p.pageTx.index + 1 < p.pageTx.pages.length then p.pageTx.index + 1 else 0 }

/-- R75: the payload of a frame in UP or WAKE: the transmit frame handed for it, when it was written
for the framing in force. -/
def LP.enginePayload (p : LP) : List Slot :=
  match p.txNow with
  | some f => if f.length = p.framing then f else List.replicate p.framing Slot.silent
  | none => List.replicate p.framing Slot.silent

/-- R75: the payload of the frame a Link Port sends. -/
def LP.payloadOut (p : LP) : List Slot :=
  match p.state with
  | .disabled => []
  | .down | .listen | .negotiate | .rest => List.replicate p.framing Slot.silent
  | .train => trainingPayload p.nextSync p.framing
  | .up | .wake => p.enginePayload

/-- R77, R86, R96, R104: the service word of the frame a Link Port sends. -/
def LP.serviceOut (p : LP) : Word :=
  let flags := serviceWord p.nextSync
  match p.state with
  | .disabled | .down | .listen => flags .fill p.rdy p.rest.ownRst 0 0 0
  | .negotiate =>
    flags .page p.rdy p.rest.ownRst p.pageTx.quarter
      ((p.pageNow[2 * p.pageTx.quarter]?).getD 0) ((p.pageNow[2 * p.pageTx.quarter + 1]?).getD 0)
  | .train => flags .train p.rdy p.rest.ownRst 0 0 0
  | .up | .rest | .wake =>
    match p.txq with
    | [] => flags .fill p.rdy p.rest.ownRst 0 0 0
    | m :: _ =>
      let w := messageWord m.octets p.txSent
      flags w.1 p.rdy p.rest.ownRst 0 w.2.1 w.2.2.1

/-- R73, R75, R77: a Link Port after sending one frame; quiet in DISABLED and while held. -/
def LP.transmit (p : LP) : LP :=
  if p.held = true ∨ p.state = .disabled then { p with line := none }
  else
    { p with
      line := some ⟨p.serviceOut, p.payloadOut.map slotWord⟩
      nextSync := p.nextSync.other
      pageTx := if p.state = .negotiate then p.nextQuarter else p.pageTx
      txSent :=
        if p.state.running then
          match p.txq with
          | [] => p.txSent
          | m :: _ => (messageWord m.octets p.txSent).2.2.2
        else p.txSent }

/-- LINK_FRAME_TRANSMIT (R73, R75). -/
def execLinkFrameTransmit (l : Link) (s : State) : Host.Outcome State Fault Refusal :=
  .next ((s.settleLink l).onLp l LP.transmit)

/-- RESPONSE_SENT (R86). -/
def execResponseSent (l : Link) (s : State) : Host.Outcome State Fault Refusal :=
  .next (s.dueResponseSent l)

/-! ## Notices of the Management Unit -/

/-- MESSAGE_DISCARD_REPORT (R166, R81): the Link Port counts a message the Management Unit discarded. -/
def execMessageDiscardReport (l : Link) (s : State) : Host.Outcome State Fault Refusal :=
  let s := s.settleLink l
  if 0 < s.mail.discardOrders[l] then
    .next ((s.onMail fun m => { m with discardOrders := updAt m.discardOrders l (· - 1) }).onLp l
      fun p => { p with counters := { p.counters with discarded := satInc p.counters.discarded } })
  else .next s

/-- HELD_MOVE (R112, R174): the Link Port takes the Management Unit's instruction. -/
def execHeldMove (l : Link) (s : State) : Host.Outcome State Fault Refusal :=
  let s := s.settleLink l
  if 0 < s.mail.moveOrders[l] then
    .next ((s.onMail fun m => { m with moveOrders := updAt m.moveOrders l (· - 1) }).carryHeldMove l)
  else .next s

/-- LP_RESET (R117, R88, R128): the Link Port takes RESET DEVICE. -/
def execLpReset (l : Link) (s : State) : Host.Outcome State Fault Refusal :=
  .next ((s.settleLink l).withReset (.lp l) fun _ s => s.resetLp l)

end Sys2Proof.Machine
end

