-- ==== Sys2Proof/Machine/LinkRequests.lean ====
section
/-! DEFINITION. The requests a Link Port takes (05, 06) and the counter query (10). -/

namespace Sys2Proof.Machine

/-- R112, R174: a move that a request asks for. A running link holds it when the request came over that
link, or when a move is held already: the two become one, whose strength `carryHeldMove` reads from the
enable then in force. Any other move is made at once. The result says what the response defers: only
the requesting link's own response carries the effect. -/
def State.requestMove (s : State) (l : Link) (req : Req) (new : LinkState) :
    State × Option Deferred :=
  if s.lp[l].state.running = true ∧ (req.ref.link = l ∨ s.lp[l].heldMove = true) then
    (s.onLp l fun p => { p with heldMove := true },
      if req.ref.link = l then some .heldMove else none)
  else (s.moveLink l new, none)

/-- R111: the index of the first field of a LINK SET out of range. -/
def linkSetBad (b : List Byte) : Option Nat :=
  if 1 < octAt b 1 then some 2
  else if 2 < octAt b 2 then some 3
  else if octAt b 3 = 0 ∨ 15 < octAt b 3 then some 4
  else if octAt b 4 = 0 then some 5
  else if 60000 < field16 b 5 then some 6
  else none

/-- R111: the configuration a LINK SET carries. -/
def linkSetConfig (b : List Byte) : LinkConfig :=
  { enable := octAt b 1 == 1
    maxGrade := (Grade.ofCode (octAt b 2)).getD .g16
    threshold := octAt b 3
    restoreTime := octAt b 4
    restHold := field16 b 5 }

/-- R127: a new rest hold applied to a link in UP; `old` is the one before. -/
def LP.applyRestHold (p : LP) (old : Nat) : LP :=
  if p.state = .up then
    if p.cfg.restHold = 0 then
      { p with
        timers := { p.timers with restHold := none }
        rest := if p.rest.ownRst then { p.rest with ownRst := false, setRun := 0 } else p.rest }
    else if p.rest.ownRst = true ∨ old = p.cfg.restHold then p
    else p.startRestHold
  else p

/-- R111: the move a LINK SET asks for, by the table; `changed` says the maximum grade changed. -/
def linkSetMove (cfg : LinkConfig) (st : LinkState) (changed : Bool) : Option LinkState :=
  if cfg.enable then
    if st = .disabled then some .down
    else if st.beyondListen && changed then some .listen
    else none
  else if st = .disabled then none
  else some .disabled

/-- LINK_SET (R111, R112, R110, R127). -/
def execLinkSet (l : Link) (s : State) : Host.Outcome State Fault Refusal :=
  .next ((s.settleLink l).withRequest (.lp l) (isKind .linkSet) fun req s =>
    match linkSetBad req.body with
    | some field => s.badField (.lp l) req field
    | none =>
      let old := s.lp[l].cfg
      let cfg := linkSetConfig req.body
      let changed := decide (old.maxGrade ≠ cfg.maxGrade)
      let s := s.onLp l fun p => { p with cfg := cfg, attempts := 0 }
      let s := if changed then s.restoreAdvert l else s
      let s := (s.onLp l fun p => p.applyRestHold old.restHold).restoreExpired l
      let r :=
        match linkSetMove cfg s.lp[l].state changed with
        | some new => s.requestMove l req new
        | none => (s, none)
      r.1.answer (.lp l) req .ok (u8 l.val) r.2)

/-- LINK_RENEGOTIATE (R113, R112). -/
def execLinkRenegotiate (l : Link) (s : State) : Host.Outcome State Fault Refusal :=
  .next ((s.settleLink l).withRequest (.lp l) (isKind .linkRenegotiate) fun req s =>
    let s := (s.restoreAdvert l).onLp l fun p => { p with attempts := 0 }
    let r := if s.lp[l].state.beyondListen then s.requestMove l req .listen else (s, none)
    r.1.answer (.lp l) req .ok (u8 l.val) r.2)

/-- R115, R202: the link status record, 26 octets. -/
def LP.statusOctets (p : LP) : List Byte :=
  u8 p.state.code ++ u8 (gradeCode p.agreed) ++ u8 p.advert.octet ++ u8 p.removed.octet ++
    uBool p.cfg.enable ++ u8 p.cfg.maxGrade.code ++ u8 p.cfg.threshold ++ u8 p.cfg.restoreTime ++
    u16 p.cfg.restHold ++ u8 p.attempts ++
    u8 (p.rest.used.toNat + 2 * p.rest.ownRst.toNat + 4 * p.rest.partnerRst.toNat) ++
    p.counters.octets ++ u16 p.negTimeouts

/-- LINK_STATUS (R115). -/
def execLinkStatus (l : Link) (s : State) : Host.Outcome State Fault Refusal :=
  .next ((s.settleLink l).withRequest (.lp l) (isKind .linkStatus) fun req s =>
    s.answer (.lp l) req .ok s.lp[l].statusOctets)

/-- R116, R202: a partner record as PARTNER READ returns it. -/
def PartnerRecord.octets (r : PartnerRecord) : List Byte :=
  u8 (r.base.advert.octet + 8 * r.base.mgr.toNat + 16 * r.base.rcap.toNat) ++ u8 r.base.nextCount ++
    u16 r.base.kind.toNat ++ u8 r.base.unit.toNat ++ u16 r.base.serial.toNat ++ u8 r.agreed.code ++
    uBool r.current ++ u8 (r.label.getD []).length ++ r.label.getD []

/-- PARTNER_READ (R116). -/
def execPartnerRead (l : Link) (s : State) : Host.Outcome State Fault Refusal :=
  .next ((s.settleLink l).withRequest (.lp l) (isKind .partnerRead) fun req s =>
    match s.lp[l].partner with
    | some r => s.answer (.lp l) req .ok r.octets
    | none => s.answer (.lp l) req .notFound [])

/-- COUNTER_QUERY (R186): the Link Port copies its six counters, clears them when asked, and answers
the Event Unit. -/
def execCounterQuery (l : Link) (s : State) : Host.Outcome State Fault Refusal :=
  let s := s.settleLink l
  match s.mail.counterQuery with
  | some (l', clear) =>
    if l' = l then
      let c := s.lp[l].counters
      let s := s.onMail fun m => { m with counterQuery := none, counterAnswer := some (l, c) }
      .next (s.onLp l fun p => { p with counters := if clear then Counters.zero else p.counters })
    else .next s
  | none => .next s

end Sys2Proof.Machine
end

