-- ==== Sys2Proof/Machine/Management.lean ====
section
/-! DEFINITION. The Management Unit (09): messages, reports of the Link Ports, results, its own
requests and RESET; and hardware reset. -/

namespace Sys2Proof.Machine

/-- HARDWARE_RESET (R93, and the reset rules of every chapter): the straps are sampled, every block
takes its reset values and the memory clear starts over memory as it stands (log entry 20). -/
def execHardwareReset (msel : Bool) (unit : BitVec 4) (s : State) :
    Host.Outcome State Fault Refusal :=
  .next (State.afterReset msel unit s.sst.mem s.pending)

/-! ## Messages (R166 to R168, R172) -/

/-- R167: whether a link is eligible, `mgr` being the flag the Link Port handed with the message. -/
def State.eligible (s : State) (l : Link) (mgr : Bool) : Bool :=
  s.lp[l].state.running && (s.lp[l].partner.map fun r => r.current).getD false && mgr &&
    (s.msel || l == 0)

/-- R166: a discarded message is reported to its Link Port. -/
def State.orderDiscard (s : State) (l : Link) : State :=
  s.onMail fun m => { m with discardOrders := updAt m.discardOrders l (· + 1) }

/-- R172, R85: a BUSY response is offered to the BUSY place. The Link Port, taken as it stands (log
entry 10), accepts it when its link is running and the place is empty; the flag is set then, and the
response is discarded otherwise. -/
def State.answerBusy (s : State) (l : Link) (code tag : Byte) : State :=
  let s := s.queryEvents
  if s.lp[l].state.running && !s.lp[l].placeFull .busy then
    (s.accept l .busy none (responseOctets code tag .busy s.mgu.eventsWaiting [])).onMgu l fun k =>
      { k with busyWaiting := true }
  else s

/-- R169: the owner of a request; the selector decides for ENTRY READ and TABLE SUMMARY (R17, R19). -/
def ownerOf (k : RequestKind) (body : List Byte) : Block :=
  match k with
  | .identify | .nameSet | .reset => .mgu
  | .linkSet | .linkStatus | .linkRenegotiate | .partnerRead => .lp (linkOf (octAt body 0))
  | .editOpen | .entryPut | .entryDelete | .tableCheck | .tableCommit | .editAbandon
  | .gainAdjust => .reu
  | .entryRead | .tableSummary => if octAt body 0 = 0 then .fe else .reu
  | .engineStatus => .fe
  | .memoryWrite | .memoryRead | .clipDefine | .clipDelete | .clipRead => .sst
  | .play | .stop | .playerStatus => .plb
  | .recordSetup | .recordStart | .recordStop | .recorderStatus => .rcu
  | .eventsRead | .countersRead | .indicatorSet => .evu

/-- R166 step 4: whether a field the Management Unit judges itself is out of range. -/
def mguFieldBad (k : RequestKind) (body : List Byte) : Bool :=
  match k with
  | .entryRead | .tableSummary => decide (1 < octAt body 0)
  | .linkSet | .linkStatus | .linkRenegotiate | .partnerRead => decide (7 < octAt body 0)
  | _ => false

/-- R166, R168: what becomes of a taken message: a refusal the Management Unit builds at once, or a
request for its owner. -/
def judgeMessage (octets : List Byte) : Except (ResultCode × List Byte) RequestKind :=
  let body := octets.drop 4
  if field16 octets 2 ≠ body.length then .error (.badLength, [])
  else match RequestKind.ofCode (octAt octets 0) with
    | none => .error (.unknown, [])
    | some k =>
      if !k.lengthOk body.length then .error (.badLength, [])
      else if mguFieldBad k body then .error (.badField, u8 1)
      else .ok k

/-- R166 steps 3 to 5, R169: a message is taken: it gets a reference and stands in progress; its
response is built at once, or the request is handed to its owner. -/
def State.takeMessage (s : State) (l : Link) (octets : List Byte) : State :=
  let code := (octets[0]?).getD 0
  let tag := (octets[1]?).getD 0
  let ip : InProgress := ⟨⟨l, s.mgu.nextRef⟩, code, tag⟩
  let s := { s with mgu := { s.mgu with nextRef := s.mgu.nextRef + 1 } }.onMgu l fun k =>
    { k with inProgress := some ip }
  match judgeMessage octets with
  | .error r => s.respond l ip r.1 r.2 none
  | .ok k =>
    let body := octets.drop 4
    s.onMail fun m => { m with reqs := m.reqs ++ [(ownerOf k body, ⟨ip.ref, k, tag, body⟩)] }

/-- R166: whether what a Link Port sent is a message. -/
def LpMsg.isMessage : LpMsg → Bool
  | .message _ _ => true
  | .sent _ _ | .discarded _ _ | .stopped => false

/-- R166: the oldest report or notice of a Link Port and what remains without it. -/
def Mail.oldestOf (m : Mail) (l : Link) : Option ((Link × LpMsg) × List (Link × LpMsg)) :=
  takeFirst (fun x => x.1 == l) m.lpToMgu

/-- R166: the first thing sent that is of the given link or is a message of any link. Messages of
different links are taken in the order they arrive, and those of one Link Port in the order sent among
its reports and notices: a message of the link may be taken exactly when it is this one. -/
def Mail.nextMessage (m : Mail) (l : Link) : Option ((Link × LpMsg) × List (Link × LpMsg)) :=
  takeFirst (fun x => x.1 == l || x.2.isMessage) m.lpToMgu

/-- What the Link Ports have sent becomes the given list. -/
def State.setLpMail (s : State) (rest : List (Link × LpMsg)) : State :=
  s.onMail fun m => { m with lpToMgu := rest }

/-- R166, R172: the Management Unit deals with a message it takes from a link. -/
def State.dealMessage (s : State) (l : Link) (octets : List Byte) (mgr : Bool) : State :=
  let k := s.mgu.links[l]
  if !s.eligible l mgr then s.orderDiscard l
  else if k.inProgress.isSome || k.closing.isSome then
    if k.busyWaiting then s.orderDiscard l
    else s.answerBusy l ((octets[0]?).getD 0) ((octets[1]?).getD 0)
  else s.takeMessage l octets

/-- MESSAGE_TAKEN (R166, R172): the message of a link is taken in its turn. -/
def execMessageTaken (l : Link) (s : State) : Host.Outcome State Fault Refusal :=
  match s.mail.nextMessage l with
  | some ((l', .message octets mgr), rest) =>
    if l' = l then .next ((s.setLpMail rest).dealMessage l octets mgr) else .next s
  | _ => .next s

/-! ## Reports and notices of the Link Ports (R171 to R174) -/

/-- SENT_REPORT (R171, R172, R174). -/
def execSentReport (l : Link) (s : State) : Host.Outcome State Fault Refusal :=
  match s.mail.oldestOf l with
  | some ((_, .sent place ref), rest) => .next ((s.setLpMail rest).placeEmptied l place ref)
  | _ => .next s

/-- DISCARD_REPORT (R171, R172, R174, R87). -/
def execDiscardReport (l : Link) (s : State) : Host.Outcome State Fault Refusal :=
  match s.mail.oldestOf l with
  | some ((_, .discarded place ref), rest) => .next ((s.setLpMail rest).placeEmptied l place ref)
  | _ => .next s

/-- R173, R174: the stop notice ends a link's records; a deferred effect recorded there is carried out. -/
def State.stopLink (s : State) (l : Link) : State :=
  let k := s.mgu.links[l]
  (((s.onMgu l fun _ => MguLink.empty).carryIfDeferred l
    (k.closing.map fun c => c.effect)).carryIfDeferred l
    (k.heldResp.bind fun h => h.deferred)).requesterStopped l

/-- STOP_NOTICE (R173, R174). -/
def execStopNotice (l : Link) (s : State) : Host.Outcome State Fault Refusal :=
  match s.mail.oldestOf l with
  | some ((_, .stopped), rest) => .next ((s.setLpMail rest).stopLink l)
  | _ => .next s

/-! ## Results -/

/-- OWNER_RESULT (R169, R170): the oldest result a block handed is taken. -/
def execOwnerResult (b : Block) (s : State) : Host.Outcome State Fault Refusal :=
  match takeFirst (fun r => r.1 == b) s.mail.results with
  | some (r, rest) => .next ((s.onMail fun m => { m with results := rest }).takeResult r.2)
  | none => .next s

/-- EVENTS_WAITING_QUERY (R184): the Event Unit answers the number of records in its list. -/
def execEventsWaitingQuery (s : State) : Host.Outcome State Fault Refusal := .next s.queryEvents

/-! ## The Management Unit's own requests (R175, R176) -/

/-- The Management Unit answers a request of its own. -/
def State.answerOwn (s : State) (req : Req) (code : ResultCode) (body : List Byte) : State :=
  s.takeResult ⟨req.ref, code, body, none⟩

/-- R175, R202: the body of an IDENTIFY response. -/
def State.identity (s : State) : List Byte :=
  u16 2599 ++ u16 3208 ++ u8 1 ++ u48 Config.unitSerial.toNat ++ uBool s.msel ++ u8 s.unit.toNat ++
    u8 s.mgu.label.length ++ s.mgu.label

/-- IDENTIFY (R175). -/
def execIdentify (s : State) : Host.Outcome State Fault Refusal :=
  .next (s.withRequest .mgu (isKind .identify) fun req s => s.answerOwn req .ok s.identity)

/-- NAME_SET (R176). -/
def execNameSet (s : State) : Host.Outcome State Fault Refusal :=
  .next (s.withRequest .mgu (isKind .nameSet) fun req s =>
    match req.body.findIdx? (· == 0) with
    | some i => s.answerOwn req .badField (u8 (i + 1))
    | none =>
      { s with mgu := { s.mgu with label := req.body } }.answerOwn req .ok (u8 req.body.length))

/-! ## RESET (R177 to R179) -/

/-- R177: the octet of a scope. -/
def Scope.code : Scope → Nat
  | .routing => 0
  | .device => 1

/-- R178, R179: the blocks a RESET of a scope is handed to. -/
def resetBlocks (scope : Scope) (requester : Link) : List Block :=
  [.fe, .reu, .plb, .rcu, .evu] ++
    match scope with
    | .routing => []
    | .device => (allEight.filter fun l => l != requester).map Block.lp

/-- R179: a RESET of a link other than the requester's is ended. -/
def endedBy (requester : Link) (req : Req) : Bool := isKind .reset req && req.ref.link != requester

/-- R179: the Management Unit's records of every link other than the requester's are reset, and a
RESET of another link that waits is ended, whether it has been taken or not. -/
def State.endOthers (s : State) (requester : Link) : State :=
  { s with
    mgu :=
      { s.mgu with
        links := Vector.ofFn fun l => if l = requester then s.mgu.links[l] else MguLink.empty
        waitingResets := s.mgu.waitingResets.filter fun r => !endedBy requester r } }.onMail
    fun m => { m with reqs := m.reqs.filter fun x => !(x.1 == Block.mgu && endedBy requester x.2) }

/-- R177: the scope a RESET carries, ROUTING unless it is DEVICE. -/
def scopeOf (req : Req) : Scope := if octAt req.body 0 = Scope.device.code then .device else .routing

/-- R177: the Management Unit begins a valid RESET. A RESET DEVICE that has waited ends the other links'
records (R179) here, where it is carried out, and not when it began to wait (log entry 24). -/
def State.beginReset (s : State) (req : Req) : State :=
  let l := req.ref.link
  let blocks := resetBlocks (scopeOf req) l
  let s := { s with mgu := { s.mgu with curReset := some ⟨req.ref, scopeOf req, blocks, false⟩ } }
  let s := blocks.foldl (fun s b => s.handReset ⟨b, scopeOf req, l, true⟩) s
  match scopeOf req with
  | .routing => s
  | .device => s.endOthers l

/-- R177: the Management Unit takes a RESET: a bad scope is refused; a valid one is begun, or waits
while another is being carried out. -/
def State.takeReset (s : State) (req : Req) : State :=
  if 1 < octAt req.body 0 then s.answerOwn req .badField (u8 1)
  else if s.mgu.curReset.isSome then
    { s with mgu := { s.mgu with waitingResets := s.mgu.waitingResets ++ [req] } }
  else s.beginReset req

/-- RESET_ROUTING (R177, R178). A RESET of a bad scope is taken here (log entry 12). -/
def execResetRouting (s : State) : Host.Outcome State Fault Refusal :=
  .next (s.withRequest .mgu (fun r => isKind .reset r && scopeOf r == .routing) fun req s =>
    s.takeReset req)

/-- RESET_DEVICE (R177, R179). -/
def execResetDevice (s : State) : Host.Outcome State Fault Refusal :=
  .next (s.withRequest .mgu (fun r => isKind .reset r && scopeOf r == .device) fun req s =>
    s.takeReset req)

/-- R177, R174: every acknowledgment is in: the response is built, with the deferred effect of RESET
DEVICE; when the requester's record is gone the effect alone is carried out (log entry 14). -/
def State.finishReset (s : State) (r : CurrentReset) : State :=
  let s := { s with mgu := { s.mgu with curReset := none } }
  let effect : Option Deferred :=
    match r.scope with
    | .device => some .reset
    | .routing => none
  match s.mgu.links[r.ref.link].inProgress with
  | some ip =>
    if ip.ref = r.ref then s.respond r.ref.link ip .ok (u8 r.scope.code) effect
    else if r.effectDone then s else s.carryIfDeferred r.ref.link effect
  | none => if r.effectDone then s else s.carryIfDeferred r.ref.link effect

/-- R177: the oldest RESET that waits is carried out when the one before it has ended. -/
def State.nextReset (s : State) : State :=
  match s.mgu.waitingResets with
  | req :: rest => { s with mgu := { s.mgu with waitingResets := rest } }.beginReset req
  | [] => s

/-- RESET_ACK (R177): the Management Unit takes a block's acknowledgment; with the last one the RESET
ends, and the next one that waits begins. -/
def execResetAck (b : Block) (s : State) : Host.Outcome State Fault Refusal :=
  if s.mail.acks.contains b then
    let s := s.onMail fun m => { m with acks := m.acks.erase b }
    match s.mgu.curReset with
    | some r =>
      let r := { r with waiting := r.waiting.erase b }
      if r.waiting.isEmpty then .next (s.finishReset r).nextReset
      else .next { s with mgu := { s.mgu with curReset := some r } }
    | none => .next s
  else .next s

end Sys2Proof.Machine
end

