-- ==== Sys2Proof/Machine/SampleStore.lean ====
section
/-! DEFINITION. The Sample Store (07): the end of the memory clear, player reads and recorder writes,
holds and regions, memory requests, clip requests. -/

namespace Sys2Proof.Machine

/-- MEMORY_CLEAR_COMPLETE (R130, R93): the last word is cleared, so every word reads 0, and every Link
Port ends its hold in DOWN. -/
def execMemoryClearComplete (s : State) : Host.Outcome State Fault Refusal :=
  if s.sst.clear.isSome then
    .next { s with
      sst := { s.sst with mem := [], clear := none }
      lp := s.lp.map fun p => { p with held := false } }
  else .next s

/-! ## Reads and writes of other blocks (R131) -/

/-- R131: the Sample Store takes a player's oldest read and answers with the word. -/
def State.takePlayerRead (s : State) (p : Player) : Host.Outcome State Fault Refusal :=
  match takeFirst (fun r => r.player == p) s.mail.playerReads with
  | some (r, rest) =>
    if Config.memoryWords ≤ r.addr then .fault .noSuchAddress
    else
      .next (s.onMail fun m =>
        { m with
          playerReads := rest
          readAnswers := m.readAnswers ++ [⟨p, r.frame, Memory.read s.sst.mem r.addr⟩] })
  | none => .next s

/-- PLAYER_READ (R131). -/
def execPlayerRead (p : Player) (s : State) : Host.Outcome State Fault Refusal := s.takePlayerRead p

/-- R131: the Recorder Unit's messages without the oldest. -/
def State.dropRcu (s : State) : State := s.onMail fun m => { m with rcuToSst := m.rcuToSst.tail }

/-- RECORDER_WRITE (R131): one word written at one address, without a check. -/
def execRecorderWrite (s : State) : Host.Outcome State Fault Refusal :=
  match s.mail.rcuToSst with
  | .write a w :: _ =>
    if Config.memoryWords ≤ a then .fault .noSuchAddress
    else .next { s.dropRcu with sst := { s.sst with mem := Memory.write s.sst.mem a w } }
  | _ => .next s

/-! ## Holds (R136) -/

/-- HOLD_REQUEST (R136): a defined clip is held once more; an empty position is answered so. -/
def execHoldRequest (s : State) : Host.Outcome State Fault Refusal :=
  match s.mail.plbToSst with
  | .hold id :: rest =>
    let s := s.onMail fun m =>
      { m with plbToSst := rest, holdAnswer := some s.sst.clips[id] }
    match s.sst.clips[id] with
    | some _ => .next { s with sst := { s.sst with holds := updAt s.sst.holds id (· + 1) } }
    | none => .next s
  | _ => .next s

/-- RELEASE_NOTICE (R136): the hold count falls by one; a count at 0 stays. -/
def execReleaseNotice (s : State) : Host.Outcome State Fault Refusal :=
  match s.mail.plbToSst with
  | .release id :: rest =>
    .next ({ s with sst := { s.sst with holds := updAt s.sst.holds id (· - 1) } }.onMail fun m =>
      { m with plbToSst := rest })
  | _ => .next s

/-! ## Regions (R137, R138) -/

/-- R137: the judgement of a region request. -/
def judgeRegion (t : SST) (r : Rec) (start len : Nat) : RegionAnswer :=
  match clipOverlapping t start len with
  | some id => .refusedClip id.val
  | none =>
    if regionOverlaps t start len (otherRec r) then .refusedRecorder (otherRec r).val else .granted

/-- A region record changed. -/
def State.setRegion (s : State) (r : Rec) (f : Option Region → Option Region) : State :=
  { s with sst := { s.sst with regions := updAt s.sst.regions r f } }

/-- REGION_REQUEST (R137). -/
def execRegionRequest (s : State) : Host.Outcome State Fault Refusal :=
  match s.mail.rcuToSst with
  | .regionRequest r start len :: _ =>
    let answer := judgeRegion s.sst r start len
    let s := s.dropRcu.onMail fun m => { m with regionAnswer := some answer }
    match answer with
    | .granted => .next (s.setRegion r fun _ => some ⟨start, len, false⟩)
    | .refusedClip _ | .refusedRecorder _ => .next s
  | _ => .next s

/-- REGION_RELEASE (R137). -/
def execRegionRelease (s : State) : Host.Outcome State Fault Refusal :=
  match s.mail.rcuToSst with
  | .regionRelease r :: _ => .next (s.dropRcu.setRegion r fun _ => none)
  | _ => .next s

/-- RUNNING_NOTICE (R138): a running or stopped notice sets or clears the mark of a record present. -/
def execRunningNotice (s : State) : Host.Outcome State Fault Refusal :=
  match s.mail.rcuToSst with
  | .running r on :: _ =>
    .next (s.dropRcu.setRegion r fun g => g.map fun g => { g with running := on })
  | _ => .next s

/-! ## Memory requests (R132 to R134) -/

/-- R129: the last address. -/
def lastAddress : Nat := Config.memoryWords - 1

/-- MEMORY_WRITE (R132, R133). -/
def execMemoryWrite (s : State) : Host.Outcome State Fault Refusal :=
  .next (s.withRequest .sst (isKind .memoryWrite) fun req s =>
    let start := field24 req.body 0
    let words := wordsOf (req.body.drop 3)
    if lastAddress < start then s.badField .sst req 1
    else if Config.memoryWords < start + words.length then s.badField .sst req 2
    else match inUseScan s.sst start words.length with
      | some report => s.answer .sst req .inUse report
      | none =>
        { s with sst := { s.sst with mem := Memory.writeRun s.sst.mem start words } }.answer .sst req
          .ok (u24 start ++ countOctet words.length))

/-- MEMORY_READ (R134). -/
def execMemoryRead (s : State) : Host.Outcome State Fault Refusal :=
  .next (s.withRequest .sst (isKind .memoryRead) fun req s =>
    let start := field24 req.body 0
    let n := octAt req.body 3
    if lastAddress < start then s.badField .sst req 1
    else if n = 0 ∨ 128 < n ∨ Config.memoryWords < start + n then s.badField .sst req 2
    else
      s.answer .sst req .ok
        (u24 start ++ countOctet n ++
          octetsOfWords ((List.range n).map fun i => Memory.read s.sst.mem (start + i))))

/-! ## Clip requests (R139 to R141) -/

/-- R139: the index of the first field of a CLIP DEFINE out of range. -/
def clipDefineBad (b : List Byte) : Option Nat :=
  let start := field24 b 1
  let len := field24 b 4
  if 31 < octAt b 0 then some 1
  else if lastAddress < start then some 2
  else if len = 0 ∨ Config.memoryWords < start + len then some 3
  else if 1 < octAt b 7 then some 4
  else if (octAt b 7 = 1 ∧ len ≤ field24 b 8) ∨ (octAt b 7 = 0 ∧ field24 b 8 ≠ 0) then some 5
  else none

/-- R139: the record a CLIP DEFINE carries. -/
def clipOfBody (b : List Byte) : Clip :=
  ⟨field24 b 1, field24 b 4, if octAt b 7 = 1 then some (field24 b 8) else none⟩

/-- R135: the clip id of a request whose first field is in range. -/
def clipId (b : List Byte) : Fin 32 := Fin.ofNat 32 (octAt b 0)

/-- R199: the IN_USE report of a held clip. -/
def heldReport (t : SST) (id : Fin 32) : List Byte := u8 0 ++ u8 t.holds[id]

/-- A position of the clip table written. -/
def State.setClip (s : State) (id : Fin 32) (c : Option Clip) : State :=
  { s with sst := { s.sst with clips := updAt s.sst.clips id fun _ => c } }

/-- CLIP_DEFINE (R139). -/
def execClipDefine (s : State) : Host.Outcome State Fault Refusal :=
  .next (s.withRequest .sst (isKind .clipDefine) fun req s =>
    match clipDefineBad req.body with
    | some field => s.badField .sst req field
    | none =>
      let id := clipId req.body
      let c := clipOfBody req.body
      if 0 < s.sst.holds[id] then s.answer .sst req .inUse (heldReport s.sst id)
      else if regionOverlaps s.sst c.start c.len 0 then s.answer .sst req .inUse (u8 1 ++ u8 0)
      else if regionOverlaps s.sst c.start c.len 1 then s.answer .sst req .inUse (u8 1 ++ u8 1)
      else
        (s.setClip id (some c)).answer .sst req .ok (u8 id.val ++ uBool s.sst.clips[id].isSome))

/-- CLIP_DELETE (R140). -/
def execClipDelete (s : State) : Host.Outcome State Fault Refusal :=
  .next (s.withRequest .sst (isKind .clipDelete) fun req s =>
    let id := clipId req.body
    if 31 < octAt req.body 0 then s.badField .sst req 1
    else if s.sst.clips[id].isNone then s.answer .sst req .notFound []
    else if 0 < s.sst.holds[id] then s.answer .sst req .inUse (heldReport s.sst id)
    else (s.setClip id none).answer .sst req .ok (u8 id.val))

/-- R141, R202: a clip record as CLIP READ returns it. -/
def Clip.octets (c : Clip) : List Byte :=
  u24 c.start ++ u24 c.len ++ uBool c.loop.isSome ++ u24 (c.loop.getD 0)

/-- CLIP_READ (R141). -/
def execClipRead (s : State) : Host.Outcome State Fault Refusal :=
  .next (s.withRequest .sst (isKind .clipRead) fun req s =>
    if 31 < octAt req.body 0 then s.badField .sst req 1
    else
      let id := clipId req.body
      match s.sst.clips[id] with
      | some c => s.answer .sst req .ok (c.octets ++ u8 s.sst.holds[id])
      | none => s.answer .sst req .notFound [])

end Sys2Proof.Machine
end

