-- ==== Sys2Proof/Machine/Players.lean ====
section
/-! DEFINITION. The Player Bank (08): frame boundaries with their player reads, PLAY, STOP, PLAYER
STATUS, reset. -/

namespace Sys2Proof.Machine

/-- One player changed. -/
def State.onPlayer (s : State) (p : Player) (f : PlayerState → PlayerState) : State :=
  { s with plb := { s.plb with players := updAt s.plb.players p f } }

/-- R136: the release notices for queue places, in order. -/
def releases (places : List QueuePlace) : List PlbMsg :=
  places.map fun q : QueuePlace => .release q.id

/-! ## Frame boundaries (R145, R146) -/

/-- R145: a player's word posted among the words of its frame. -/
def Posted.put (frame : Nat) (p : Player) (w : Slot) (q : Posted) : Posted :=
  if q.frame = frame then { q with words := updAt q.words p fun _ => some w } else q

/-- R146: the end of the current clip `h` with the given places behind it: the player after it, whether
the head place was removed, and whether the player became IDLE. -/
def endOfClip (x : PlayerState) (h : QueuePlace) (behind : List QueuePlace) :
    PlayerState × Bool × Bool :=
  match behind, h.clip.loop, x.stopAtEnd with
  | _ :: _, _, _ => ({ x with queue := behind, pos := 0 }, true, false)
  | [], some o, false => ({ x with pos := o }, false, false)
  | [], _, _ => (PlayerState.idle, true, true)

/-- R146: a player advances after its word has been posted. -/
def State.advancePlayer (s : State) (p : Player) : State :=
  let x := s.plb.players[p]
  match x.queue with
  | [] => s
  | h :: behind =>
    if x.pos + 1 < h.clip.len then s.onPlayer p fun x => { x with pos := x.pos + 1 }
    else
      let r := endOfClip x h behind
      let s := s.onPlayer p fun _ => r.1
      let s := if r.2.1 then s.toSstFromPlb [.release h.id] else s
      if r.2.2 then s.report .plb .playerDone p.val h.id.val else s

/-- R145, R146: the Player Bank takes a player's oldest read answer: it posts the word with status LIVE
for its frame and advances the player, unless the place the read was for has been removed. -/
def State.takeReadAnswer (s : State) (p : Player) : State :=
  match takeFirst (fun a => a.player == p) s.mail.readAnswers with
  | some (a, rest) =>
    let w : Slot := ⟨a.word, .live⟩
    let s := { s with
      plb :=
        { s.plb with
          cur := s.plb.cur.map (Posted.put a.frame p w)
          prev := s.plb.prev.map (Posted.put a.frame p w) } }
    let s := s.onMail fun m => { m with readAnswers := rest }
    if s.plb.players[p].reading then
      (s.onPlayer p fun x => { x with reading := false }).advancePlayer p
    else s
  | none => s

/-- PLAYER_READ_ANSWER (R145, R146). -/
def execPlayerReadAnswer (p : Player) (s : State) : Host.Outcome State Fault Refusal :=
  .next (s.takeReadAnswer p)

/-- R145: the given players' outstanding reads are completed: each read answered by the Sample Store, its
word posted and its player advanced (log entry 22). -/
def State.settleReads (s : State) (ps : List Player) : Host.Outcome State Fault Refusal :=
  match ps with
  | [] => .next s
  | p :: rest =>
    match s.takePlayerRead p with
    | .next s => (s.takeReadAnswer p).settleReads rest
    | .fault f => .fault f
    | .refused r => .refused r

/-- R151, R154: a boundary taken before an event of the Player Bank has posted its words and advanced its
players by then, so every read still outstanding is completed before the event is taken
(log entries 10, 22). -/
def State.afterReads (s : State) (f : State → State) : Host.Outcome State Fault Refusal :=
  match s.settleReads allEight with
  | .next s => .next (f s)
  | .fault f => .fault f
  | .refused r => .refused r

/-- R145: the read a PLAYING player makes at a boundary. -/
def PlayerState.readOf (x : PlayerState) (p : Player) (frame : Nat) : Option PlayerRead :=
  match x.queue with
  | h :: _ => some ⟨p, frame, h.clip.start + x.pos⟩
  | [] => none

/-- R145: the reads of a boundary, player by player. -/
def PLB.reads (b : PLB) : List PlayerRead :=
  allEight.filterMap fun p => PlayerState.readOf b.players[p] p b.period

/-- R145: a PLAYING player's read is outstanding from the boundary on. -/
def PlayerState.openFrame (x : PlayerState) : PlayerState := { x with reading := x.playing }

/-- R145: what a boundary posts for a player at once: sample 0 with status IDLE, while it is IDLE. -/
def PlayerState.idleWord (x : PlayerState) : Option Slot :=
  if x.playing then none else some Slot.silent

/-- R145: the boundary that opens a frame: IDLE players post sample 0 with status IDLE, PLAYING ones
make their reads. -/
def State.openPlbFrame (s : State) : State :=
  let frame := s.plb.period
  { s with
    plb :=
      { s.plb with
        players := s.plb.players.map PlayerState.openFrame
        prev := s.plb.cur
        cur := some
          ⟨frame, s.plb.players.map PlayerState.idleWord⟩
        period := frame + 1 } }.onMail fun m =>
    { m with playerReads := m.playerReads ++ s.plb.reads }

/-- PLB_FRAME_BOUNDARY (R145). -/
def execPlbFrameBoundary (s : State) : Host.Outcome State Fault Refusal :=
  s.afterReads State.openPlbFrame

/-! ## Requests (R147 to R155) -/

/-- R147: the Player Bank takes the oldest request handed to it when no hold is outstanding. -/
def State.plbRequest (s : State) (which : Req → Bool) (f : Req → State → State) : State :=
  if s.plb.waiting.isNone then s.withRequest .plb which f else s

/-- R148: whether a request is a PLAY with mode NEXT. A PLAY of any other mode, a bad one included, is
taken by PLAY_NOW (log entry 12). -/
def isPlayNext (r : Req) : Bool := isKind .play r && octAt r.body 2 == 1

/-- R148: the first field of a PLAY out of range. -/
def playBad (b : List Byte) : Option Nat :=
  if 7 < octAt b 0 then some 1
  else if 31 < octAt b 1 then some 2
  else if 1 < octAt b 2 then some 3
  else none

/-- R148: the Player Bank asks for the hold of a PLAY that passed its checks. -/
def State.askHold (s : State) (req : Req) (next : Bool) : State :=
  let clip : Fin 32 := Fin.ofNat 32 (octAt req.body 1)
  { s with
    plb :=
      { s.plb with
        waiting := some ⟨req, linkOf (octAt req.body 0), clip, next, false⟩ } }.toSstFromPlb
    [.hold clip]

/-- PLAY_NOW (R148, R149). -/
def execPlayNow (s : State) : Host.Outcome State Fault Refusal :=
  s.afterReads fun s => s.plbRequest (fun r => isKind .play r && !isPlayNext r) fun req s =>
    match playBad req.body with
    | some field => s.badField .plb req field
    | none => s.askHold req false

/-- PLAY_NEXT (R148, R150). -/
def execPlayNext (s : State) : Host.Outcome State Fault Refusal :=
  s.afterReads fun s => s.plbRequest isPlayNext fun req s =>
    match playBad req.body with
    | some field => s.badField .plb req field
    | none =>
      let x := s.plb.players[linkOf (octAt req.body 0)]
      if x.stopAtEnd then s.answer .plb req .state []
      else if 4 ≤ x.queue.length then s.answer .plb req .noSpace []
      else s.askHold req true

/-- R149, R150: the clip of a granted hold is placed. -/
def State.place (s : State) (w : PlayWait) (c : Clip) : State :=
  let x := s.plb.players[w.player]
  if w.next then
    let queue := x.queue ++ [⟨w.clip, c⟩]
    (s.onPlayer w.player fun x => { x with queue := queue }).answer .plb w.req .ok
      (u8 w.player.val ++ u8 queue.length ++ u8 queue.length)
  else
    ((s.onPlayer w.player fun _ => ⟨[⟨w.clip, c⟩], 0, false, false⟩).toSstFromPlb
      (releases x.queue)).answer .plb w.req .ok (u8 w.player.val ++ u8 1 ++ u8 1)

/-- R148 to R150, R164: the Player Bank takes the Sample Store's answer to its hold request. -/
def State.takeHoldAnswer (s : State) : State :=
  match s.plb.waiting, s.mail.holdAnswer with
  | some w, some granted =>
    let s := { s with plb := { s.plb with waiting := none } }.onMail fun m =>
      { m with holdAnswer := none }
    match granted, w.aborted with
    | some _, true => (s.toSstFromPlb [.release w.clip]).answer .plb w.req .aborted []
    | none, true => s.answer .plb w.req .aborted []
    | some c, false => s.place w c
    | none, false => s.answer .plb w.req .notFound []
  | _, _ => s

/-- HOLD_ANSWER (R148 to R150, R164). -/
def execHoldAnswer (s : State) : Host.Outcome State Fault Refusal := s.afterReads State.takeHoldAnswer

/-- R152: whether a request is a STOP with mode END; any other STOP is taken by STOP_NOW
(log entry 12). -/
def isStopEnd (r : Req) : Bool := isKind .stop r && octAt r.body 1 == 1

/-- R152: the first field of a STOP out of range. -/
def stopBad (b : List Byte) : Option Nat :=
  if 7 < octAt b 0 then some 1 else if 1 < octAt b 1 then some 2 else none

/-- R152: a player stopped at once. -/
def State.stopNow (s : State) (p : Player) : State :=
  match s.plb.players[p].queue with
  | [] => s
  | h :: behind =>
    ((s.onPlayer p fun _ => PlayerState.idle).toSstFromPlb (releases (h :: behind))).report .plb
      .playerDone p.val (256 + h.id.val)

/-- STOP_NOW (R152). -/
def execStopNow (s : State) : Host.Outcome State Fault Refusal :=
  s.afterReads fun s => s.plbRequest (fun r => isKind .stop r && !isStopEnd r) fun req s =>
    match stopBad req.body with
    | some field => s.badField .plb req field
    | none =>
      let p := linkOf (octAt req.body 0)
      (s.stopNow p).answer .plb req .ok (u8 p.val)

/-- R153: a player that stops at the end of its current pass. -/
def State.stopEnd (s : State) (p : Player) : State :=
  match s.plb.players[p].queue with
  | [] => s
  | h :: behind =>
    (s.onPlayer p fun x => { x with queue := [h], stopAtEnd := true }).toSstFromPlb (releases behind)

/-- STOP_END (R153). -/
def execStopEnd (s : State) : Host.Outcome State Fault Refusal :=
  s.afterReads fun s => s.plbRequest isStopEnd fun req s =>
    match stopBad req.body with
    | some field => s.badField .plb req field
    | none =>
      let p := linkOf (octAt req.body 0)
      (s.stopEnd p).answer .plb req .ok (u8 p.val)

/-- R155, R202: a player as PLAYER STATUS returns it. -/
def PlayerState.octets (x : PlayerState) : List Byte :=
  uBool x.playing ++ u8 x.queue.length ++
    ((x.queue.map fun q : QueuePlace => BitVec.ofNat 8 q.id.val) ++ [255, 255, 255, 255]).take 4 ++
    u24 x.pos ++ uBool x.stopAtEnd

/-- PLAYER_STATUS (R155). -/
def execPlayerStatus (s : State) : Host.Outcome State Fault Refusal :=
  s.afterReads fun s => s.plbRequest (isKind .playerStatus) fun req s =>
    if 7 < octAt req.body 0 then s.badField .plb req 1
    else s.answer .plb req .ok s.plb.players[linkOf (octAt req.body 0)].octets

/-! ## Reset (R164) -/

/-- R164: a PLAY that waits for its hold is marked aborted by RESET DEVICE. -/
def PlayWait.reset (scope : Scope) (w : PlayWait) : PlayWait :=
  { w with aborted := w.aborted || scope == .device }

/-- R164: the release notices of every place of every queue, P0 to P7, head first. -/
def PLB.allReleases (b : PLB) : List PlbMsg :=
  allEight.flatMap fun p => releases (PlayerState.queue b.players[p])

/-- PLB_RESET (R164): every queue emptied with a release for each place, player by player. A PLAY that
waits for its hold completes normally after RESET ROUTING and is aborted by RESET DEVICE. -/
def execPlbReset (s : State) : Host.Outcome State Fault Refusal :=
  s.afterReads fun s => s.withReset .plb fun o s =>
    { s with
      plb :=
        { s.plb with
          players := Vector.replicate 8 PlayerState.idle
          waiting := s.plb.waiting.map (PlayWait.reset o.scope) } }.toSstFromPlb s.plb.allReleases

end Sys2Proof.Machine
end

