-- ==== Sys2Proof/Machine/Recorders.lean ====
section
/-! DEFINITION. The Recorder Unit (08): input words, RECORD SETUP, START and STOP, RECORDER STATUS,
reset. -/

namespace Sys2Proof.Machine

/-- One recorder changed. -/
def State.onRecorder (s : State) (r : Rec) (f : Recorder → Recorder) : State :=
  { s with rcu := { s.rcu with recorders := updAt s.rcu.recorders r f } }

/-! ## Recording (R157) -/

/-- R157: the write position after a write: the next address, or the region start once it is filled. -/
def Recorder.advance (x : Recorder) : Recorder :=
  match x.region with
  | some (start, len) =>
    if x.pos + 1 < start + len then { x with pos := x.pos + 1 }
    else { x with pos := start, wrapped := true, state := if x.once then .full else x.state }
  | none => x

/-- R157: a RUNNING recorder takes one sample. -/
def State.record (s : State) (r : Rec) (w : Sample) : State :=
  let x := s.rcu.recorders[r]
  let s := (s.toSstFromRcu [.write x.pos w]).onRecorder r Recorder.advance
  if s.rcu.recorders[r].state = .full then
    (s.toSstFromRcu [.running r false]).report .rcu .recorderFull r.val 0
  else s

/-- RECORDER_INPUT_WORD (R157, R63). -/
def execRecorderInputWord (r : Rec) (s : State) : Host.Outcome State Fault Refusal :=
  match s.mail.inputWords[r] with
  | w :: rest =>
    let s := s.onMail fun m => { m with inputWords := updAt m.inputWords r fun _ => rest }
    if s.rcu.recorders[r].state = .running then .next (s.record r w.sample) else .next s
  | [] => .next s

/-! ## Requests (R158 to R163) -/

/-- R158: the Recorder Unit takes the oldest request handed to it when no region request is
outstanding. -/
def State.rcuRequest (s : State) (k : RequestKind) (f : Req → State → State) : State :=
  if s.rcu.waiting.isNone then s.withRequest .rcu (isKind k) f else s

/-- The recorder a field in range names. -/
def recOf (n : Nat) : Rec := Fin.ofNat 2 n

/-- R159: the first field of a RECORD SETUP out of range. -/
def setupBad (b : List Byte) : Option Nat :=
  if 1 < octAt b 0 then some 1
  else if Config.memoryWords ≤ field24 b 1 then some 2
  else if field24 b 4 < 64 ∨ Config.memoryWords < field24 b 1 + field24 b 4 then some 3
  else if 1 < octAt b 7 then some 4
  else none

/-- RECORD_SETUP (R159): checks, then the region request. -/
def execRecordSetup (s : State) : Host.Outcome State Fault Refusal :=
  .next (s.rcuRequest .recordSetup fun req s =>
    match setupBad req.body with
    | some field => s.badField .rcu req field
    | none =>
      let r := recOf (octAt req.body 0)
      let start := field24 req.body 1
      let len := field24 req.body 4
      if s.rcu.recorders[r].state = .running then s.answer .rcu req .state []
      else
        { s with
          rcu :=
            { s.rcu with
              waiting := some ⟨req, r, start, len, octAt req.body 7 == 1, false⟩ } }.toSstFromRcu
          [.regionRequest r start len])

/-- REGION_ANSWER (R159, R165). -/
def execRegionAnswer (s : State) : Host.Outcome State Fault Refusal :=
  match s.rcu.waiting, s.mail.regionAnswer with
  | some w, some a =>
    let s := { s with rcu := { s.rcu with waiting := none } }.onMail fun m =>
      { m with regionAnswer := none }
    if w.aborted then .next (s.answer .rcu w.req .aborted [])
    else match a with
      | .granted =>
        .next ((s.onRecorder w.recorder fun _ =>
          ⟨.set, some (w.start, w.len), w.once, w.start, false⟩).answer .rcu w.req .ok
            (u8 w.recorder.val))
      | .refusedClip id => .next (s.answer .rcu w.req .inUse (u8 0 ++ u8 id))
      | .refusedRecorder r => .next (s.answer .rcu w.req .inUse (u8 1 ++ u8 r))
  | _, _ => .next s

/-- A recorder at its region start with wrapped clear, in the given state (R160, R165). -/
def Recorder.rewind (x : Recorder) (st : RecState) : Recorder :=
  { x with state := st, pos := (x.region.map Prod.fst).getD 0, wrapped := false }

/-- R160: RECORD START by the recorder's state. -/
def State.recordStart (s : State) (req : Req) (r : Rec) : State :=
  match s.rcu.recorders[r].state with
  | .idle => s.answer .rcu req .state []
  | .set | .full =>
    ((s.onRecorder r fun x => x.rewind .running).toSstFromRcu [.running r true]).answer .rcu req .ok
      (u8 r.val)
  | .running => s.answer .rcu req .ok (u8 r.val)

/-- RECORD_START (R160). -/
def execRecordStart (s : State) : Host.Outcome State Fault Refusal :=
  .next (s.rcuRequest .recordStart fun req s =>
    if 1 < octAt req.body 0 then s.badField .rcu req 1
    else s.recordStart req (recOf (octAt req.body 0)))

/-- R161: RECORD STOP by the recorder's state. -/
def State.recordStop (s : State) (r : Rec) : State :=
  match s.rcu.recorders[r].state with
  | .running =>
    (s.onRecorder r fun x => { x with state := .set }).toSstFromRcu [.running r false]
  | .full => s.onRecorder r fun x => { x with state := .set }
  | .idle | .set => s

/-- RECORD_STOP (R161). -/
def execRecordStop (s : State) : Host.Outcome State Fault Refusal :=
  .next (s.rcuRequest .recordStop fun req s =>
    if 1 < octAt req.body 0 then s.badField .rcu req 1
    else
      let r := recOf (octAt req.body 0)
      (s.recordStop r).answer .rcu req .ok (u8 r.val))

/-- R163, R202: a recorder as RECORDER STATUS returns it. -/
def Recorder.octets (x : Recorder) : List Byte :=
  u8 x.state.code ++ u24 (x.region.getD (0, 0)).1 ++ u24 (x.region.getD (0, 0)).2 ++ uBool x.once ++
    u24 x.pos ++ uBool x.wrapped

/-- RECORDER_STATUS (R163). -/
def execRecorderStatus (s : State) : Host.Outcome State Fault Refusal :=
  .next (s.rcuRequest .recorderStatus fun req s =>
    if 1 < octAt req.body 0 then s.badField .rcu req 1
    else s.answer .rcu req .ok s.rcu.recorders[recOf (octAt req.body 0)].octets)

/-! ## Reset (R165) -/

/-- R165: RESET ROUTING at one recorder. -/
def State.routingResetRecorder (s : State) (r : Rec) : State :=
  match s.rcu.recorders[r].state with
  | .running => (s.onRecorder r fun x => x.rewind .set).toSstFromRcu [.running r false]
  | .full => s.onRecorder r fun x => x.rewind .set
  | .idle | .set => s

/-- R165: whether RESET DEVICE sends a region release for a recorder: it has a region, or one has been
requested for it. -/
def RCU.holdsRegion (u : RCU) (r : Rec) : Bool :=
  u.recorders[r].region.isSome || (u.waiting.map fun w => w.recorder == r).getD false

/-- R165: RESET DEVICE at one recorder. A RUNNING recorder sends no stopped notice: R165 says so for this
reset, against R138's `or IDLE`, and the region release removes the mark (log entry 23). -/
def State.deviceResetRecorder (s : State) (r : Rec) : State :=
  let s' := s.onRecorder r fun _ => Recorder.idle
  if s.rcu.holdsRegion r then s'.toSstFromRcu [.regionRelease r] else s'

/-- RCU_RESET (R165): a RECORD SETUP that waits for its region completes normally after RESET ROUTING
and is aborted by RESET DEVICE. What is sent for recorder 0 goes before what is sent for recorder 1
(log entry 30). -/
def execRcuReset (s : State) : Host.Outcome State Fault Refusal :=
  .next (s.withReset .rcu fun o s =>
    match o.scope with
    | .routing => (s.routingResetRecorder 0).routingResetRecorder 1
    | .device =>
      let s := (s.deviceResetRecorder 0).deviceResetRecorder 1
      { s with
        rcu := { s.rcu with waiting := s.rcu.waiting.map fun w => { w with aborted := true } } })

end Sys2Proof.Machine
end

