-- ==== Sys2Proof/Machine/RouteEdit.lean ====
section
/-! DEFINITION. The Route Edit Unit (02): the edit claim, editing requests, the admission check and
commit, gain adjustments, the hold timer, link loss, notices of the Frame Engine, reset. -/

namespace Sys2Proof.Machine

/-! ## Requests and the claim gate -/

/-- R26: the REU takes the oldest request handed to it when no transaction is outstanding. -/
def State.reuRequest (s : State) (k : RequestKind) (f : Req → State → State) : State :=
  if s.reu.txn.isNone then s.withRequest .reu (isKind k) f else s

/-- The claim changed. -/
def State.setClaim (s : State) (c : Option Claim) : State := { s with reu := { s.reu with claim := c } }

/-- R28: a request taken through the claim gate; `f` gets the claim of a sender that passes. -/
def State.gated (s : State) (req : Req) (frozen : Bool) (f : Claim → State → State) : State :=
  match claimGate s.reu.claim req.ref.link frozen, s.reu.claim with
  | some r, _ => s.answer .reu req r.1 r.2
  | none, some c => f c s
  | none, none => s

/-- R26: a transaction with the Frame Engine begins. -/
def State.askFe (s : State) (t : Txn) (a : Ask) : State :=
  { s with reu := { s.reu with txn := some t } }.onMail fun m => { m with reuAsk := some a }

/-- R26: the answer of the Frame Engine is taken. -/
def State.endTxn (s : State) : State :=
  { s with reu := { s.reu with txn := none } }.onMail fun m => { m with feAnswer := none }

/-! ## Opening the claim (R27) -/

/-- R27: what EDIT OPEN answers a sender that cannot open the claim as it stands. -/
def openGate (claim : Option Claim) (sender : Link) : Option (ResultCode × List Byte) :=
  match claim with
  | none => none
  | some c =>
    if c.owner ≠ sender then some (.owned, u8 c.owner.val)
    else match c.phase with
      | .held _ => none
      | .pending => some (.pending, [])

/-- EDIT_OPEN (R27): checks, then the copy of the active table. The hold timer of a claim it restarts runs
on until the copy completes it (R26, log entry 15). -/
def execEditOpen (s : State) : Host.Outcome State Fault Refusal :=
  .next (s.reuRequest .editOpen fun req s =>
    let hold := octAt req.body 0
    if hold = 0 ∨ 60 < hold then s.badField .reu req 1
    else match openGate s.reu.claim req.ref.link with
      | some r => s.answer .reu req r.1 r.2
      | none => s.askFe (.copy req hold false) .copy)

/-- COPY_ANSWER (R26, R27, R33): the claim is taken or restarted with the copy, its hold timer started from
the full new time (log entry 15), or the copy is dropped. -/
def execCopyAnswer (s : State) : Host.Outcome State Fault Refusal :=
  match s.reu.txn, s.mail.feAnswer with
  | some (.copy req hold dropped), some (.copy table) =>
    let s := s.endTxn
    if dropped then .next (s.answer .reu req .aborted [])
    else match openGate s.reu.claim req.ref.link with
      | some r => .next (s.answer .reu req r.1 r.2)
      | none =>
        .next ((s.setClaim (some ⟨req.ref.link, hold, .held 0, table, []⟩)).answer .reu req .ok
          (u8 req.ref.link.val ++ u16 table.length))
  | _, _ => .next s

/-! ## Editing requests (R29 to R32, R36) -/

/-- R29: a claim with an entry written and its position touched. -/
def Claim.putEntry (c : Claim) (pos : Nat) (e : Entry) : Claim :=
  { c with staging := Table.put c.staging pos e, touched := Table.put c.touched pos () }

/-- ENTRY_PUT (R29, R201). -/
def execEntryPut (s : State) : Host.Outcome State Fault Refusal :=
  .next (s.reuRequest .entryPut fun req s =>
    s.gated req false fun c s =>
      let pos := field16 req.body 0
      if 511 < pos then (s.setClaim c.restart).badField .reu req 0
      else match parseEntry (req.body.drop 2) with
        | .error field => (s.setClaim c.restart).badField .reu req field
        | .ok e =>
          let c := (c.putEntry pos e).restart
          (s.setClaim c).answer .reu req .ok (u16 pos ++ u16 c.staging.length))

/-- R30: whether a position lies in a range. -/
def inRange (first last pos : Nat) : Bool := decide (first ≤ pos) && decide (pos ≤ last)

/-- R30: a claim with a range of positions emptied and touched. -/
def Claim.deleteRange (c : Claim) (first last : Nat) : Claim :=
  { c with
    staging := c.staging.filter fun e => !inRange first last e.1
    touched :=
      (List.range (last + 1 - first)).foldl (fun t i => Table.put t (first + i) ()) c.touched }

/-- ENTRY_DELETE (R30). -/
def execEntryDelete (s : State) : Host.Outcome State Fault Refusal :=
  .next (s.reuRequest .entryDelete fun req s =>
    s.gated req false fun c s =>
      let first := field16 req.body 0
      let last := field16 req.body 2
      if 511 < first then (s.setClaim c.restart).badField .reu req 1
      else if 511 < last ∨ last < first then (s.setClaim c.restart).badField .reu req 2
      else
        (s.setClaim (c.deleteRange first last).restart).answer .reu req .ok
          (u16 (c.staging.countP fun e => inRange first last e.1)))

/-- ENTRY_READ_STAGING (R31). -/
def execEntryReadStaging (s : State) : Host.Outcome State Fault Refusal :=
  .next (s.reuRequest .entryRead fun req s =>
    s.gated req true fun c s =>
      let s := s.setClaim c.restart
      let pos := field16 req.body 1
      if 511 < pos then s.badField .reu req 2
      else match Table.get? c.staging pos with
        | some e => s.answer .reu req .ok (e.octets ++ uBool (Table.has c.touched pos))
        | none => s.answer .reu req .notFound [])

/-- TABLE_SUMMARY_STAGING (R32). -/
def execTableSummaryStaging (s : State) : Host.Outcome State Fault Refusal :=
  .next (s.reuRequest .tableSummary fun req s =>
    s.gated req true fun c s =>
      (s.setClaim c.restart).answer .reu req .ok
        (occupancyMap c.staging ++ u16 c.staging.length ++ u16 (tableCost c.staging)))

/-- EDIT_ABANDON (R36). -/
def execEditAbandon (s : State) : Host.Outcome State Fault Refusal :=
  .next (s.reuRequest .editAbandon fun req s =>
    s.gated req false fun _ s => (s.setClaim none).answer .reu req .ok [])

/-! ## Admission check and commit (R40 to R42) -/

/-- TABLE_CHECK (R41): the REU asks the Frame Engine for its link views (log entry 15). -/
def execTableCheck (s : State) : Host.Outcome State Fault Refusal :=
  .next (s.reuRequest .tableCheck fun req s =>
    s.gated req false fun c s => (s.setClaim c.restart).askFe (.snapshot req false) .snapshot)

/-- TABLE_COMMIT (R42): the REU asks the Frame Engine for its link views. -/
def execTableCommit (s : State) : Host.Outcome State Fault Refusal :=
  .next (s.reuRequest .tableCommit fun req s =>
    s.gated req false fun _ s => s.askFe (.snapshot req true) .snapshot)

/-- R42: a commit that passes: the claim becomes PENDING, the commit is recorded, and a copy of the
staging table goes to the Frame Engine. -/
def State.passCommit (s : State) (req : Req) (c : Claim) : State :=
  let n := s.reu.nextCommit
  let cost := tableCost c.staging
  { s with
    reu :=
      { s.reu with
        claim := some { c with phase := .pending }
        pending := some ⟨n, cost, c.staging.length, c.owner, req.ref, req.tag, false⟩
        nextCommit := n + 1 } }.onMail fun m =>
    { m with handOffs := m.handOffs ++ [(⟨c.staging, cost, c.owner, n⟩ : HandOff)] }

/-- SNAPSHOT_ANSWER (R26, R40 to R42): TABLE CHECK or TABLE COMMIT completes against the claim as it
stands. -/
def execSnapshotAnswer (s : State) : Host.Outcome State Fault Refusal :=
  match s.reu.txn, s.mail.feAnswer with
  | some (.snapshot req commit), some (.snapshot views) =>
    .next (s.endTxn.gated req false fun c s =>
      let body := admissionReport views c.staging
      if commit then
        match admission c.staging with
        | .pass => s.passCommit req c
        | _ => s.answer .reu req .refused body
      else (s.setClaim c.restart).answer .reu req .ok body)
  | _, _ => .next s

/-! ## Gain adjustments (R47, R48) -/

/-- GAIN_ADJUST (R47): checks, then the transaction with the Frame Engine. -/
def execGainAdjust (s : State) : Host.Outcome State Fault Refusal :=
  .next (s.reuRequest .gainAdjust fun req s =>
    let pos := field16 req.body 0
    let term := octAt req.body 2
    let code := octAt req.body 3
    if s.reu.pending.isSome = true ∨ s.reu.owed ≠ [] then s.answer .reu req .pending []
    else if 511 < pos then s.badField .reu req 1
    else if term = 0 ∨ 8 < term then s.badField .reu req 2
    else if 216 < code then s.badField .reu req 3
    else s.askFe (.gain req pos term code) (.gain pos term code))

/-- R48: a staging entry with the gain code of a term written, `term` from 1. -/
def Entry.setGain (e : Entry) (term code : Nat) : Option Entry :=
  match e with
  | .span _ => none
  | .mix d ts =>
    if ts.length < term then none
    else some (.mix d (ts.modify (term - 1) fun t => { t with gain := code }))

/-- R48: the claim after reconciliation, and the response flag. -/
def reconcile (claim : Option Claim) (pos term code : Nat) : Option Claim × Nat :=
  match claim with
  | none => (none, 0)
  | some c =>
    if Table.has c.touched pos then (some c, 2)
    else match (Table.get? c.staging pos).bind fun e => e.setGain term code with
      | some e => (some { c with staging := Table.put c.staging pos e }, 1)
      | none => (some c, 2)

/-- GAIN_ADJUST_ANSWER (R47, R48). -/
def execGainAdjustAnswer (s : State) : Host.Outcome State Fault Refusal :=
  match s.reu.txn, s.mail.feAnswer with
  | some (.gain req pos term code), some (.gain found) =>
    let s := s.endTxn
    if found then
      let r := reconcile s.reu.claim pos term code
      .next ((s.setClaim r.1).answer .reu req .ok (u8 r.2))
    else .next (s.answer .reu req .notFound [])
  | _, _ => .next s

/-! ## The fate of a table (R44, R46) -/

/-- R44, R46: the COMMIT response of a record, unless its answer is lost: OK with the adoption frame,
or ABORTED. -/
def State.answerCommit (s : State) (r : CommitRecord) (adopted : Option (BitVec 32)) : State :=
  if r.lost then s
  else s.onMail fun m =>
    { m with
      results := m.results ++
        [(.reu,
          match adopted with
          | some frame => ⟨r.ref, .ok, u32 frame.toNat ++ u16 r.cost ++ u16 r.count, none⟩
          | none => ⟨r.ref, .aborted, [], none⟩)] }

/-- R44, R46: the REU takes the fate of a table: of an owed record, of the pending table, or of none. -/
def State.takeFate (s : State) (f : Fate) : State :=
  match takeFirst (fun r => r.number == f.number) s.reu.owed with
  | some (r, rest) => { s with reu := { s.reu with owed := rest } }.answerCommit r f.adopted
  | none =>
    match s.reu.pending with
    | some r =>
      if r.number = f.number then
        { s with reu := { s.reu with claim := none, pending := none } }.answerCommit r f.adopted
      else s
    | none => s

/-- R44, R46: the oldest notice of the Frame Engine is taken when it is of the given sort. -/
def State.withFate (s : State) (adopted : Bool) : State :=
  match s.mail.fates with
  | f :: rest =>
    if f.adopted.isSome = adopted then (s.onMail fun m => { m with fates := rest }).takeFate f else s
  | [] => s

/-- ADOPTION_NOTICE (R44, R46). -/
def execAdoptionNotice (s : State) : Host.Outcome State Fault Refusal := .next (s.withFate true)

/-- DISCARD_NOTICE (R46). -/
def execDiscardNotice (s : State) : Host.Outcome State Fault Refusal := .next (s.withFate false)

/-! ## Other events -/

/-- CLAIM_QUERY (R70, R26): the REU answers the claim's owner and whether it is PENDING. -/
def execClaimQuery (s : State) : Host.Outcome State Fault Refusal :=
  if 0 < s.mail.claimQueries then
    let a : Option Link × Bool :=
      match s.reu.claim with
      | some c => (some c.owner, match c.phase with | .pending => true | .held _ => false)
      | none => (none, false)
    .next (s.onMail fun m =>
      { m with claimQueries := m.claimQueries - 1, claimAnswers := m.claimAnswers ++ [a] })
  else .next s

/-- HOLD_TIMER_EXPIRY (R33). -/
def execHoldTimerExpiry (s : State) : Host.Outcome State Fault Refusal :=
  match s.reu.claim with
  | some c =>
    match c.phase with
    | .held t =>
      if c.holdTime * Config.ticksPerSecond ≤ t then
        .next ((s.setClaim none).report .reu .claimLapsed c.owner.val 0)
      else .next s
    | .pending => .next s
  | none => .next s

/-- R26: a copy outstanding is dropped when `p` holds of the request it serves. -/
def Txn.dropCopy (p : Req → Bool) : Txn → Txn
  | .copy req hold dropped => .copy req hold (dropped || p req)
  | t => t

/-- R35: the claim and the pending record when the link of the claim's owner is lost. -/
def State.ownerLost (s : State) (l : Link) : State :=
  match s.reu.claim with
  | some c =>
    if c.owner = l then
      match c.phase with
      | .held _ => (s.setClaim none).report .reu .claimLapsed l.val 1
      | .pending =>
        { s with
          reu := { s.reu with pending := s.reu.pending.map fun r => { r with lost := true } } }
    else s
  | none => s

/-- LINK_LOSS_NOTICE (R35, R26). -/
def execLinkLossNotice (l : Link) (s : State) : Host.Outcome State Fault Refusal :=
  if 0 < s.mail.lossNotices[l] then
    let s := s.onMail fun m => { m with lossNotices := updAt m.lossNotices l (· - 1) }
    .next ({ s with
      reu := { s.reu with txn := s.reu.txn.map (Txn.dropCopy fun r => r.ref.link == l) } }.ownerLost l)
  else .next s

/-- REU_RESET (R46, R49): both scopes act alike. -/
def execReuReset (s : State) : Host.Outcome State Fault Refusal :=
  .next (s.withReset .reu fun _ s =>
    { s with
      reu :=
        { s.reu with
          claim := none
          owed := s.reu.owed ++ s.reu.pending.toList
          pending := none
          txn := s.reu.txn.map (Txn.dropCopy fun _ => true) } })

end Sys2Proof.Machine
end

