-- ==== Sys2Proof/Machine/Dispatch.lean ====
section
/-! DEFINITION. The meaning of each command, one arm per row of spec/opcode_table.json. -/

namespace Sys2Proof.Machine

def exec (i : Instr) (s : State) : Host.Outcome State Fault Refusal :=
  match i with
  | .hardwareReset msel unit => Sys2Proof.Machine.execHardwareReset msel unit s
  | .memoryClearComplete => Sys2Proof.Machine.execMemoryClearComplete s
  | .feFrameBoundary => Sys2Proof.Machine.execFeFrameBoundary s
  | .handOff => Sys2Proof.Machine.execHandOff s
  | .linkViewNotice l => Sys2Proof.Machine.execLinkViewNotice l s
  | .activeTableCopy => Sys2Proof.Machine.execActiveTableCopy s
  | .copyAnswer => Sys2Proof.Machine.execCopyAnswer s
  | .linkViewSnapshot => Sys2Proof.Machine.execLinkViewSnapshot s
  | .snapshotAnswer => Sys2Proof.Machine.execSnapshotAnswer s
  | .gainAdjustApply => Sys2Proof.Machine.execGainAdjustApply s
  | .gainAdjustAnswer => Sys2Proof.Machine.execGainAdjustAnswer s
  | .adoptionNotice => Sys2Proof.Machine.execAdoptionNotice s
  | .discardNotice => Sys2Proof.Machine.execDiscardNotice s
  | .claimQuery => Sys2Proof.Machine.execClaimQuery s
  | .claimAnswer => Sys2Proof.Machine.execClaimAnswer s
  | .holdTimerExpiry => Sys2Proof.Machine.execHoldTimerExpiry s
  | .linkLossNotice l => Sys2Proof.Machine.execLinkLossNotice l s
  | .plbFrameBoundary => Sys2Proof.Machine.execPlbFrameBoundary s
  | .playerRead p => Sys2Proof.Machine.execPlayerRead p s
  | .recorderWrite => Sys2Proof.Machine.execRecorderWrite s
  | .holdRequest => Sys2Proof.Machine.execHoldRequest s
  | .releaseNotice => Sys2Proof.Machine.execReleaseNotice s
  | .regionRequest => Sys2Proof.Machine.execRegionRequest s
  | .regionRelease => Sys2Proof.Machine.execRegionRelease s
  | .runningNotice => Sys2Proof.Machine.execRunningNotice s
  | .holdAnswer => Sys2Proof.Machine.execHoldAnswer s
  | .regionAnswer => Sys2Proof.Machine.execRegionAnswer s
  | .recorderInputWord r => Sys2Proof.Machine.execRecorderInputWord r s
  | .receivedFrame l service payload => Sys2Proof.Machine.execReceivedFrame l service payload s
  | .alignmentAcquired l => Sys2Proof.Machine.execAlignmentAcquired l s
  | .alignmentLoss l => Sys2Proof.Machine.execAlignmentLoss l s
  | .windowPass l => Sys2Proof.Machine.execWindowPass l s
  | .windowFail l => Sys2Proof.Machine.execWindowFail l s
  | .trainLimit l => Sys2Proof.Machine.execTrainLimit l s
  | .signalDetect l => Sys2Proof.Machine.execSignalDetect l s
  | .signalLoss l => Sys2Proof.Machine.execSignalLoss l s
  | .negotiationTimerExpiry l => Sys2Proof.Machine.execNegotiationTimerExpiry l s
  | .restoreTimerExpiry l => Sys2Proof.Machine.execRestoreTimerExpiry l s
  | .restHoldTimerExpiry l => Sys2Proof.Machine.execRestHoldTimerExpiry l s
  | .restEntered l => Sys2Proof.Machine.execRestEntered l s
  | .clearRunComplete l => Sys2Proof.Machine.execClearRunComplete l s
  | .wakeTimerExpiry l => Sys2Proof.Machine.execWakeTimerExpiry l s
  | .useNotice l => Sys2Proof.Machine.execUseNotice l s
  | .linkFrameTransmit l => Sys2Proof.Machine.execLinkFrameTransmit l s
  | .responseSent l => Sys2Proof.Machine.execResponseSent l s
  | .sentReport l => Sys2Proof.Machine.execSentReport l s
  | .discardReport l => Sys2Proof.Machine.execDiscardReport l s
  | .stopNotice l => Sys2Proof.Machine.execStopNotice l s
  | .messageTaken l => Sys2Proof.Machine.execMessageTaken l s
  | .messageDiscardReport l => Sys2Proof.Machine.execMessageDiscardReport l s
  | .ownerResult b => Sys2Proof.Machine.execOwnerResult b s
  | .eventsWaitingQuery => Sys2Proof.Machine.execEventsWaitingQuery s
  | .heldMove l => Sys2Proof.Machine.execHeldMove l s
  | .identify => Sys2Proof.Machine.execIdentify s
  | .nameSet => Sys2Proof.Machine.execNameSet s
  | .resetRouting => Sys2Proof.Machine.execResetRouting s
  | .resetDevice => Sys2Proof.Machine.execResetDevice s
  | .resetAck b => Sys2Proof.Machine.execResetAck b s
  | .feReset => Sys2Proof.Machine.execFeReset s
  | .reuReset => Sys2Proof.Machine.execReuReset s
  | .plbReset => Sys2Proof.Machine.execPlbReset s
  | .rcuReset => Sys2Proof.Machine.execRcuReset s
  | .evuReset => Sys2Proof.Machine.execEvuReset s
  | .lpReset l => Sys2Proof.Machine.execLpReset l s
  | .linkSet l => Sys2Proof.Machine.execLinkSet l s
  | .linkStatus l => Sys2Proof.Machine.execLinkStatus l s
  | .linkRenegotiate l => Sys2Proof.Machine.execLinkRenegotiate l s
  | .partnerRead l => Sys2Proof.Machine.execPartnerRead l s
  | .editOpen => Sys2Proof.Machine.execEditOpen s
  | .entryPut => Sys2Proof.Machine.execEntryPut s
  | .entryDelete => Sys2Proof.Machine.execEntryDelete s
  | .entryReadActive => Sys2Proof.Machine.execEntryReadActive s
  | .entryReadStaging => Sys2Proof.Machine.execEntryReadStaging s
  | .tableSummaryActive => Sys2Proof.Machine.execTableSummaryActive s
  | .tableSummaryStaging => Sys2Proof.Machine.execTableSummaryStaging s
  | .tableCheck => Sys2Proof.Machine.execTableCheck s
  | .tableCommit => Sys2Proof.Machine.execTableCommit s
  | .editAbandon => Sys2Proof.Machine.execEditAbandon s
  | .gainAdjust => Sys2Proof.Machine.execGainAdjust s
  | .engineStatus => Sys2Proof.Machine.execEngineStatus s
  | .memoryWrite => Sys2Proof.Machine.execMemoryWrite s
  | .memoryRead => Sys2Proof.Machine.execMemoryRead s
  | .clipDefine => Sys2Proof.Machine.execClipDefine s
  | .clipDelete => Sys2Proof.Machine.execClipDelete s
  | .clipRead => Sys2Proof.Machine.execClipRead s
  | .playNow => Sys2Proof.Machine.execPlayNow s
  | .playNext => Sys2Proof.Machine.execPlayNext s
  | .stopNow => Sys2Proof.Machine.execStopNow s
  | .stopEnd => Sys2Proof.Machine.execStopEnd s
  | .playerStatus => Sys2Proof.Machine.execPlayerStatus s
  | .recordSetup => Sys2Proof.Machine.execRecordSetup s
  | .recordStart => Sys2Proof.Machine.execRecordStart s
  | .recordStop => Sys2Proof.Machine.execRecordStop s
  | .recorderStatus => Sys2Proof.Machine.execRecorderStatus s
  | .eventsRead => Sys2Proof.Machine.execEventsRead s
  | .countersRead => Sys2Proof.Machine.execCountersRead s
  | .counterQuery l => Sys2Proof.Machine.execCounterQuery l s
  | .counterAnswer => Sys2Proof.Machine.execCounterAnswer s
  | .indicatorSet => Sys2Proof.Machine.execIndicatorSet s
  | .eventReport b => Sys2Proof.Machine.execEventReport b s
  | .counterNotice => Sys2Proof.Machine.execCounterNotice s
  | .stateNotice l => Sys2Proof.Machine.execStateNotice l s
  | .completionReport l => Sys2Proof.Machine.execCompletionReport l s
  | .pulseTimerExpiry n => Sys2Proof.Machine.execPulseTimerExpiry n s
  | .blinkPhase g => Sys2Proof.Machine.execBlinkPhase g s
  | .playerReadAnswer p => Sys2Proof.Machine.execPlayerReadAnswer p s

end Sys2Proof.Machine
end

