-- ==== Sys2Proof/Safety.lean ====
section
/-! DEFINITION. What a sound state of the part is, group by group, and which blocks a step leaves alone.
The invariants name states that the rules of the spec allow; the frames say what an event of one
block cannot reach. -/

namespace Sys2Proof.Machine

/-! ## What waits to be taken -/

/-- `x` is the oldest element of a list that satisfies `p`, and `rest` is the list without it. -/
def Oldest {α : Type} (p : α → Bool) (xs : List α) (x : α) (rest : List α) : Prop :=
  ∃ before after, xs = before ++ x :: after ∧ rest = before ++ after ∧ p x = true ∧
    ∀ y ∈ before, p y = false

/-- R169: the oldest request handed to a block, and the state in which the block has taken it. -/
def Handed (b : Block) (req : Req) (s t : State) : Prop :=
  ∃ rest, Oldest (fun x => x.1 == b) s.mail.reqs (b, req) rest ∧
    t = s.onMail fun m => { m with reqs := rest }

/-- R177: the oldest reset handed to a block, and the state in which the block has taken it. -/
def HandedReset (o : ResetOrder) (s t : State) : Prop :=
  ∃ rest, Oldest (fun x => x.block == o.block) s.mail.resets o rest ∧
    t = s.onMail fun m => { m with resets := rest }

/-! ## Event list -/

/-- R182: at most 64 records, with consecutive sequence numbers that end just below the sequence
counter, modulo 65,536. -/
def EVU.Sound (e : EVU) : Prop :=
  e.events.length ≤ 64 ∧
    ∀ i (h : i < e.events.length),
      e.events[i].seq = e.seq - BitVec.ofNat 16 (e.events.length - i)

/-! ## Route tables -/

/-- The record of every position of an active table (R23). -/
def recordsOf (t : Table ActiveEntry) : Table Entry := Table.mapVal (fun _ e => e.entry) t

/-- R1, R23: a route table has 512 positions; the model lists the occupied ones in rising order. -/
def RouteTable (t : Table Entry) : Prop := Table.wf 512 t = true

/-- R9, R40: a table that passes the admission check, with the cost the check computed. -/
def Admitted (t : Table Entry) (cost : Nat) : Prop :=
  RouteTable t ∧ admission t = .pass ∧ cost = tableCost t

/-- R9, R23, R25, R42, R51: the tables of the part: the active table and every table handed off have
passed admission; the staging table, its touched flags and a copy on its way are route tables; the
claim is PENDING exactly while a commit is pending, with the claim's owner. -/
structure State.RoutingSound (s : State) : Prop where
  active : Admitted (recordsOf s.fe.active) s.fe.cost
  queued : ∀ h ∈ s.fe.queue, Admitted h.table h.cost
  handed : ∀ h ∈ s.mail.handOffs, Admitted h.table h.cost
  copied : ∀ t, s.mail.feAnswer = some (.copy t) → RouteTable t
  staged : ∀ c, s.reu.claim = some c → RouteTable c.staging ∧ Table.wf 512 c.touched = true
  claimed : ∀ r, s.reu.pending = some r →
    ∃ c, s.reu.claim = some c ∧ c.phase = .pending ∧ c.owner = r.owner
  pended : ∀ c, s.reu.claim = some c → c.phase = .pending → s.reu.pending.isSome = true
  adjusted : ∀ req pos term code, s.reu.txn = some (.gain req pos term code) →
    pos < 512 ∧ 1 ≤ term ∧ term ≤ 8 ∧ code ≤ 216
  asked : ∀ pos term code, s.mail.reuAsk = some (.gain pos term code) →
    pos < 512 ∧ 1 ≤ term ∧ term ≤ 8 ∧ code ≤ 216

/-! ## Sample memory, clips, players, recorders -/

/-- R135: a clip record within memory, its loop point within the clip. -/
def Clip.Sound (c : Clip) : Prop :=
  1 ≤ c.len ∧ c.start + c.len ≤ Config.memoryWords ∧ ∀ o, c.loop = some o → o < c.len

/-- R156: a region within memory. -/
def RegionSound (start len : Nat) : Prop := 64 ≤ len ∧ start + len ≤ Config.memoryWords

/-- R129, R135 to R137: the Sample Store: memory in canonical form, clips within memory, only defined
clips held, no clip over a recorded region, no region over the other. -/
structure SST.Sound (t : SST) : Prop where
  memory : Memory.wf t.mem = true
  clip : ∀ (id : Fin 32) c, t.clips[id] = some c → c.Sound
  held : ∀ id : Fin 32, 0 < t.holds[id] → t.clips[id].isSome = true
  clear : ∀ (r : Rec) g (id : Fin 32) c, t.regions[r] = some g → t.clips[id] = some c →
    rangesOverlap g.start g.len c.start c.len = false
  apart : ∀ g h, t.regions[(0 : Fin 2)] = some g → t.regions[(1 : Fin 2)] = some h →
    rangesOverlap g.start g.len h.start h.len = false

/-- R144: a player: at most four places, the position within the head clip; IDLE at position 0 with
stop-at-end clear. -/
structure PlayerState.Sound (x : PlayerState) : Prop where
  short : x.queue.length ≤ 4
  place : ∀ q ∈ x.queue, q.clip.Sound
  pos : ∀ h, x.queue.head? = some h → x.pos < h.clip.len
  idle : x.queue = [] → x.pos = 0 ∧ x.stopAtEnd = false ∧ x.reading = false

/-- R156: a recorder: a region exactly outside IDLE, the write position inside the region. -/
structure Recorder.Sound (x : Recorder) : Prop where
  idle : x.state = .idle ↔ x.region = none
  region : ∀ start len, x.region = some (start, len) →
    RegionSound start len ∧ start ≤ x.pos ∧ x.pos < start + len

/-- R131: every recorder write on its way names an address that exists. -/
def RcuMsg.Sound : RcuMsg → Prop
  | .write a _ => a < Config.memoryWords
  | .regionRequest _ start len => RegionSound start len
  | .regionRelease _ | .running _ _ => True

/-- R129 to R165: the blocks that play and record, and the messages between them. -/
structure State.AudioSound (s : State) : Prop where
  store : s.sst.Sound
  player : ∀ p : Player, PlayerState.Sound s.plb.players[p]
  waiting : ∀ w, s.plb.waiting = some w → w.next = true →
    (PlayerState.queue s.plb.players[w.player]).length ≤ 3
  granted : ∀ c, s.mail.holdAnswer = some (some c) → c.Sound
  reads : ∀ r ∈ s.mail.playerReads, r.addr < Config.memoryWords
  recorder : ∀ r : Rec, Recorder.Sound s.rcu.recorders[r]
  setup : ∀ w, s.rcu.waiting = some w → RegionSound w.start w.len
  sent : ∀ m ∈ s.mail.rcuToSst, m.Sound

/-! ## Link Ports -/

/-- R85, R108, R111: a Link Port: its advertisement contains G16 and nothing above the maximum grade,
the attempt counter stays below a threshold of 1 to 15, and each place of the transmit list holds at
most one message. -/
structure LP.Sound (p : LP) : Prop where
  least : p.advert.g16 = true
  most : p.advert.diff (Grades.upTo p.cfg.maxGrade) = ⟨false, false, false⟩
  threshold : 1 ≤ p.cfg.threshold ∧ p.cfg.threshold ≤ 15
  attempts : p.attempts < p.cfg.threshold
  places : (p.txq.map TxMsg.place).Nodup

/-- R85, R108: every Link Port. -/
def State.LinksSound (s : State) : Prop := ∀ l : Link, LP.Sound s.lp[l]

/-- R79, R80, R86, R105, R107, R121, R125: nothing that an earlier frame, received or sent, has made due
waits on a Link Port (log entry 10). -/
structure LP.Settled (p : LP) : Prop where
  sent : ∀ m ∈ p.txq.head?, p.txSent < m.octets.length
  acquired : p.state = .listen → p.align.acqRun < 8
  aligned : p.state.beyondListen = true → p.align.badRun < 4
  window : p.state = .train → ∀ w, p.train.window = some w →
    w.errors < 3 ∧ (p.rdy = false → w.judged < 256)
  frames : p.state = .train → p.train.frames < 512
  rest : p.state = .up → p.rest.ownRst = true → p.rest.setRun < 16
  wake : p.state = .wake → p.rest.clearRun < 16

/-! ## What ties blocks together -/

/-- The queue places of all players. -/
def PLB.places (b : PLB) : List QueuePlace := allEight.flatMap fun p => PlayerState.queue b.players[p]

/-- R147: a PLAY waits for a hold of the given clip. -/
def PLB.waitsFor (b : PLB) (id : Fin 32) : Bool := b.waiting.any fun w => w.clip == id

/-- R136: what the Sample Store holds for the Player Bank: one hold for each queue place, for each release
notice on its way and for a granted answer on its way; the copy in a place is the record defined. -/
structure State.HoldsTied (s : State) : Prop where
  count : ∀ id : Fin 32, s.sst.holds[id] =
    (s.plb.places.countP fun q => q.id == id) + s.mail.plbToSst.count (.release id) +
      if s.mail.holdAnswer.join.isSome = true ∧ s.plb.waitsFor id = true then 1 else 0
  record : ∀ q ∈ s.plb.places, s.sst.clips[q.id] = some q.clip
  granted : ∀ w c, s.plb.waiting = some w → s.mail.holdAnswer = some (some c) →
    s.sst.clips[w.clip] = some c
  asked : ∀ id : Fin 32, s.mail.plbToSst.count (.hold id) =
    if s.mail.holdAnswer = none ∧ s.plb.waitsFor id = true then 1 else 0
  answered : s.mail.holdAnswer ≠ none → s.plb.waiting ≠ none

/-- R137, R138: the region record of a recorder after one message of the Recorder Unit, a region request
being granted when `ok` says so. -/
def regionStep (ok : Bool) (r : Rec) (g : Option Region) (m : RcuMsg) : Option Region :=
  match m with
  | .regionRequest r' start len => if r' = r ∧ ok = true then some ⟨start, len, false⟩ else g
  | .regionRelease r' => if r' = r then none else g
  | .running r' on => if r' = r then g.map fun x => { x with running := on } else g
  | .write _ _ => g

/-- R137, R138: the region record of a recorder once every message on its way has been taken. -/
def State.regionSoon (s : State) (ok : Bool) (r : Rec) : Option Region :=
  s.mail.rcuToSst.foldl (regionStep ok r) s.sst.regions[r]

/-- R156: the recorder's region as the Sample Store records it, marked while the recorder is RUNNING. -/
def Recorder.record (x : Recorder) : Option Region :=
  x.region.map fun g => ⟨g.1, g.2, x.state == .running⟩

/-- R137: the recorder, start and length of a region request. -/
def RcuMsg.asks (m : RcuMsg) : Option (Rec × Nat × Nat) :=
  match m with
  | .regionRequest r start len => some (r, start, len)
  | .regionRelease _ | .running _ _ | .write _ _ => none

/-- R137, R138, R156, R165: once the messages on their way have been taken the Sample Store records the
recorder's own region, with its running mark; a RECORD SETUP that waits has its one request, or its
answer, on the way, and a granted one leaves the range it asked for, or none after RESET DEVICE. -/
structure State.RegionsTied (s : State) : Prop where
  asked : s.mail.rcuToSst.filterMap RcuMsg.asks =
    match s.rcu.waiting, s.mail.regionAnswer with
    | some w, none => [(w.recorder, w.start, w.len)]
    | _, _ => []
  answered : s.mail.regionAnswer ≠ none → s.rcu.waiting ≠ none
  own : ∀ r : Rec, s.mail.regionAnswer ≠ some .granted ∨
      (∀ w, s.rcu.waiting = some w → w.recorder ≠ r) →
    s.regionSoon false r = Recorder.record s.rcu.recorders[r]
  wanted : ∀ w, s.rcu.waiting = some w →
    s.mail.regionAnswer = none ∨ s.mail.regionAnswer = some .granted →
    s.regionSoon true w.recorder = if w.aborted then none else some ⟨w.start, w.len, false⟩
  aborted : ∀ w, s.rcu.waiting = some w → w.aborted = true →
    Recorder.region s.rcu.recorders[w.recorder] = none

/-- R136, R156: what the Sample Store holds agrees with what the Player Bank and the Recorder Unit hold. -/
structure State.BlocksTied (s : State) : Prop where
  holds : s.HoldsTied
  regions : s.RegionsTied

/-! ## Frames: what the events of one block leave alone -/

/-- Only the Link Port of one link, and messages between blocks, differ. -/
structure OnlyLink (l : Link) (s t : State) : Prop where
  rest : t = { s with lp := t.lp, mail := t.mail }
  others : ∀ l' : Link, l' ≠ l → t.lp[l'] = s.lp[l']

/-- Only the Frame Engine and messages between blocks differ. -/
def OnlyFe (s t : State) : Prop := t = { s with fe := t.fe, mail := t.mail }

/-- Only the Route Edit Unit and messages between blocks differ. -/
def OnlyReu (s t : State) : Prop := t = { s with reu := t.reu, mail := t.mail }

/-- Only the Sample Store and messages between blocks differ. -/
def OnlySst (s t : State) : Prop := t = { s with sst := t.sst, mail := t.mail }

/-- Only the Player Bank and messages between blocks differ. -/
def OnlyPlb (s t : State) : Prop := t = { s with plb := t.plb, mail := t.mail }

/-- Only the Recorder Unit and messages between blocks differ. -/
def OnlyRcu (s t : State) : Prop := t = { s with rcu := t.rcu, mail := t.mail }

/-- Only the Event Unit and messages between blocks differ. -/
def OnlyEvu (s t : State) : Prop := t = { s with evu := t.evu, mail := t.mail }

/-- Only the Management Unit, the transmit list of one link, and messages between blocks differ. -/
structure OnlyMgu (l : Link) (s t : State) : Prop where
  rest : t = { s with mgu := t.mgu, lp := t.lp, mail := t.mail }
  list : t.lp = updAt s.lp l fun p => { p with txq := LP.txq t.lp[l] }

/-- R55, R73, R75, R84, R91, R92, R119, R120: a link has left the running states for a stopped state,
with one event report: its Link Port has dropped its transmit list, its transmit frames and its message
in assembly, which counts as discarded, its rest flags and runs are clear, its timers stand as on entry
into the new state, its framing is base, its partner record is no longer current, and every neighbour
has been told. A receive frame already presented stays (log entry 11). The discard reports stand in the
order of the list (log entry 30). -/
structure LeftRunning (l : Link) (s t : State) (new : LinkState) (kind : EventKind) : Prop where
  frame : OnlyLink l s t
  state : LP.state t.lp[l] = new
  emptied : LP.txq t.lp[l] = [] ∧ LP.asm t.lp[l] = .empty ∧ LP.rdy t.lp[l] = false
  counted : ∀ buf, LP.asm s.lp[l] = .assembling buf →
    (LP.counters t.lp[l]).discarded = satInc (LP.counters s.lp[l]).discarded
  uncounted : (∀ buf, LP.asm s.lp[l] ≠ .assembling buf) →
    (LP.counters t.lp[l]).discarded = (LP.counters s.lp[l]).discarded
  framing : LP.framing t.lp[l] = 16
  frames : LP.rx t.lp[l] = LP.rx s.lp[l] ∧ LP.txNow t.lp[l] = none ∧ LP.txNext t.lp[l] = none
  afresh : (LP.align t.lp[l]).acqRun = 0 ∧ (LP.align t.lp[l]).prev = none ∧
    (LP.align t.lp[l]).badRun = 0
  rest : LP.rest t.lp[l] = ⟨false, false, 0, 0, (LP.rest s.lp[l]).used⟩
  timers : LP.timers t.lp[l] = ⟨none, if new = .down then some 0 else none, none, none⟩
  stale : LP.partner t.lp[l] = (LP.partner s.lp[l]).map fun r => { r with current := false }
  kept : LP.cfg t.lp[l] = LP.cfg s.lp[l] ∧ LP.advert t.lp[l] = LP.advert s.lp[l] ∧
    LP.attempts t.lp[l] = LP.attempts s.lp[l] ∧ LP.removed t.lp[l] = LP.removed s.lp[l]
  mail : t.mail =
    { s.mail with
      reports := s.mail.reports ++ [(.lp l, ⟨kind, l.val, LP.slotCount s.lp[l], none⟩)]
      lpToMgu := s.mail.lpToMgu ++
        ((LP.txq s.lp[l]).map fun m => (l, LpMsg.discarded m.place m.ref)) ++ [(l, .stopped)]
      lossNotices := updAt s.mail.lossNotices l (· + 1)
      stateNotices := updAt s.mail.stateNotices l (· ++ [new])
      viewNotices := updAt s.mail.viewNotices l (· ++ [⟨.out, 0⟩]) }

/-! ## Responses (R170, R171, R174) -/

/-- R174: the messages between blocks after the Management Unit has carried out a deferred effect of a
link, if there is one: the instruction to carry out a held move, or the reset of RESET DEVICE. -/
def CarriedOut (l : Link) (d : Option Deferred) (m : Mail) : Mail :=
  match d with
  | none => m
  | some .heldMove => { m with moveOrders := updAt m.moveOrders l (· + 1) }
  | some .reset => { m with resets := m.resets ++ [⟨.lp l, .device, l, false⟩] }

/-- R171: a built response has been offered to its Link Port as it stood (log entry 10), which was
stopped, occupied or took it. -/
structure Offered (l : Link) (ref : Ref) (octets : List Byte) (deferred : Option Deferred)
    (s t : State) : Prop where
  stopped : (LP.state s.lp[l]).running = false →
    t = { s with
      mgu :=
        { s.mgu with
          links := updAt s.mgu.links l fun k => { k with inProgress := none, heldResp := none } }
      mail := CarriedOut l deferred s.mail }
  occupied : (LP.state s.lp[l]).running = true → (∃ x ∈ LP.txq s.lp[l], x.place = .response) →
    t = { s with
      mgu :=
        { s.mgu with
          links := updAt s.mgu.links l fun k => { k with heldResp := some ⟨ref, octets, deferred⟩ } } }
  accepted : (LP.state s.lp[l]).running = true → (∀ x ∈ LP.txq s.lp[l], x.place ≠ .response) →
    t = { s with
      lp := updAt s.lp l fun p =>
        { p with txq := p.txq ++ [⟨.response, some ref, withCheck octets⟩] }
      mgu :=
        { s.mgu with
          links := updAt s.mgu.links l fun k =>
            { k with
              inProgress := none
              heldResp := none
              closing := match deferred with | some d => some ⟨d, ref⟩ | none => k.closing } } }

/-- R170: the response to the request in progress on a link has been built, with the number of events
waiting at that moment, and offered. -/
def Answered (l : Link) (ip : InProgress) (code : ResultCode) (body : List Byte)
    (deferred : Option Deferred) (s t : State) : Prop :=
  Offered l ip.ref
    ([ip.code ||| 0x80#8, ip.tag, BitVec.ofNat 8 code.value, BitVec.ofNat 8 s.evu.events.length] ++
      u16 body.length ++ body)
    deferred { s with mgu := { s.mgu with eventsWaiting := s.evu.events.length } } t

/-- The words of sample memory read as before. -/
def SameMemory (s t : State) : Prop := ∀ a, Memory.read t.sst.mem a = Memory.read s.sst.mem a

end Sys2Proof.Machine
end

