-- ==== Sys2Proof/Certificates/Slice0/Obligations.lean ====
section
/-! DEFINITION. The statements for the provers. A statement about a command says when it completes and
what the next state is; the frames say what it leaves alone. -/

open Sys2Proof Sys2Proof.Machine

/-! ## The machine -/

/-- A step with a command at the front of the queue runs that command on the state with the queue's
rest; with an empty queue one tick of the time base passes and nothing is taken (log entry 2). -/
def Obligations.StepRunsTheFrontCommand : Prop :=
  (∀ (c : Instr) (s : State), step { s with pending := c :: s.pending } = exec c s) ∧
    ∀ s : State, s.pending = [] → step s = .next s.tick

/-- One tick of the time base (log entries 2, 6, 25), with no command waiting: every running timer of
every Link Port, the hold timer of a HELD claim, the running pulse timers and both blink generators
advance by one; the memory clear, while it runs, goes to a free address, not before its own, and has
written 0 up to there; nothing else changes. -/
def Obligations.TickAdvancesTimersAndGenerators : Prop :=
  ∀ s : State, s.pending = [] → ∃ t, step s = .next t ∧
    t = { s with lp := t.lp, reu := t.reu, sst := t.sst, evu := t.evu } ∧
    (∀ l : Link, t.lp[l] = (fun p : LP => { p with
      timers := ⟨p.timers.neg.map (· + 1), p.timers.restore.map (· + 1), p.timers.restHold.map (· + 1),
        p.timers.wake.map (· + 1)⟩ }) s.lp[l]) ∧
    t.reu = { s.reu with claim := t.reu.claim } ∧
    (s.reu.claim = none → t.reu.claim = none) ∧
    (∀ c, s.reu.claim = some c →
      (c.phase = .pending → t.reu.claim = some c) ∧
      ∀ k, c.phase = .held k → t.reu.claim = some { c with phase := .held (k + 1) }) ∧
    t.evu = { s.evu with
      lines := t.evu.lines
      fast := ⟨s.evu.fast.on, s.evu.fast.elapsed + 1⟩
      slow := ⟨s.evu.slow.on, s.evu.slow.elapsed + 1⟩ } ∧
    (∀ n : Fin 4, t.evu.lines[n] =
      (fun x : IndLine => { x with pulseTimer := x.pulseTimer.map (· + 1) }) s.evu.lines[n]) ∧
    (s.sst.clear = none → t.sst = s.sst) ∧
    ∀ a, s.sst.clear = some a → ∃ b, b ≤ 131071 ∧ (a ≤ 131071 → a ≤ b) ∧
      t.sst = { s.sst with mem := t.sst.mem, clear := some b } ∧
      ∀ i, Memory.read t.sst.mem i = if a ≤ i ∧ i < b then 0 else Memory.read s.sst.mem i

/-- HARDWARE_RESET: every block at its reset values, the straps as sampled, sample memory kept until the
clear, which starts at address 0, and the queue kept (log entries 4, 6, 8, 20). -/
def Piece.HardwareResetValues : Prop :=
  ∀ (msel : Bool) (unit : BitVec 4) (s : State), ∃ t,
    exec (.hardwareReset msel unit) s = .next t ∧ t.msel = msel ∧ t.unit = unit ∧
    t.pending = s.pending ∧ t.sst.mem = s.sst.mem ∧ t.sst.clear = some 0 ∧
    (∀ l : Link, LP.state t.lp[l] = .down ∧ LP.held t.lp[l] = true ∧
      LP.cfg t.lp[l] = ⟨true, .g64, 3, 4, 0⟩ ∧ LP.advert t.lp[l] = ⟨true, true, true⟩ ∧
      LP.removed t.lp[l] = ⟨false, false, false⟩ ∧ LP.attempts t.lp[l] = 0 ∧
      LP.agreed t.lp[l] = none ∧ LP.partner t.lp[l] = none ∧
      LP.counters t.lp[l] = ⟨0, 0, 0, 0, 0, 0⟩ ∧ LP.negTimeouts t.lp[l] = 0 ∧
      LP.asm t.lp[l] = .empty ∧ LP.txq t.lp[l] = [] ∧ LP.rdy t.lp[l] = false ∧
      LP.rest t.lp[l] = ⟨false, false, 0, 0, false⟩ ∧
      LP.timers t.lp[l] = ⟨none, some 0, none, none⟩ ∧ LP.heldMove t.lp[l] = false) ∧
    (∀ l : Link, t.mgu.links[l] = ⟨none, none, false, none⟩) ∧ t.mgu.label = [] ∧
    t.reu.claim = none ∧ t.reu.pending = none ∧ t.reu.owed = [] ∧
    t.fe.active = [] ∧ t.fe.cost = 0 ∧ t.fe.queue = [] ∧ t.fe.counter = 0 ∧
    (∀ l : Link, t.fe.view[l] = ⟨.out, 0⟩ ∧ t.fe.used[l] = false) ∧
    (∀ id : Fin 32, t.sst.clips[id] = none ∧ t.sst.holds[id] = 0) ∧
    (∀ r : Rec, t.sst.regions[r] = none ∧ t.rcu.recorders[r] = ⟨.idle, none, false, 0, false⟩) ∧
    (∀ p : Player, t.plb.players[p] = ⟨[], 0, false, false⟩) ∧
    t.evu.events = [⟨0, 0, .start, 0, 0⟩] ∧ t.evu.seq = 1 ∧ t.evu.overflow = 0 ∧
    t.evu.frameCopy = 0 ∧ (∀ l : Link, t.evu.linkCopy[l] = .down) ∧
    ∀ n : Fin 4, t.evu.lines[n] = ⟨Fin.ofNat 8 n.val, true, true, true, true, none⟩

/-- Every invariant holds in the state after reset, and after HARDWARE_RESET of any state whose memory
is in canonical form. -/
def Piece.ResetIsSound : Prop :=
  (State.reset.evu.Sound ∧ State.reset.RoutingSound ∧ State.reset.AudioSound ∧
    State.reset.LinksSound ∧ State.reset.BlocksTied) ∧
  ∀ (msel : Bool) (unit : BitVec 4) (s t : State), Memory.wf s.sst.mem = true →
    exec (.hardwareReset msel unit) s = .next t →
      t.evu.Sound ∧ t.RoutingSound ∧ t.AudioSound ∧ t.LinksSound ∧ t.BlocksTied

/-- What hardware reset leaves, block by block, and that every invariant holds there. The values the spec
does not give are the model's (log entries 4, 6, 8, 20). -/
def Obligations.ResetLeavesTheResetValues : Prop :=
  Piece.HardwareResetValues ∧ Piece.ResetIsSound

/-- R182: every step keeps the event list at most 64 records long, with consecutive sequence numbers
that end just below the sequence counter. -/
def Obligations.StepKeepsTheEventList : Prop :=
  ∀ s t : State, s.evu.Sound → step s = .next t → t.evu.Sound

/-- R9, R23, R25, R40: every step keeps every table that the Frame Engine holds or is handed within the
admission check, the staging table a table of 512 positions, and the claim PENDING exactly while a
commit is pending. -/
def Obligations.StepKeepsTheRoutingSound : Prop :=
  ∀ s t : State, s.RoutingSound → step s = .next t → t.RoutingSound

/-- R129, R133, R135 to R137, R144, R156: every step keeps sample memory in canonical form, only defined
clips held, clips and regions apart, queues at most four long, positions inside clip and region, and
every access on its way within memory. -/
def Obligations.StepKeepsTheAudioSound : Prop :=
  ∀ s t : State, s.AudioSound → step s = .next t → t.AudioSound

/-- R85, R108: every step keeps G16 in every advertisement and nothing above the maximum grade, the
attempt counter below the threshold, and at most one message in each place of a transmit list. -/
def Obligations.StepKeepsTheLinksSound : Prop :=
  ∀ s t : State, s.LinksSound → step s = .next t → t.LinksSound

/-- R136 to R138, R156: every step keeps the Sample Store's records tied to the blocks they serve. The hold
count of a clip is the number of queue places with its id, and of releases and granted answers on
their way; every place's copy is the record defined. Each recorder's region record, once the messages
on their way are taken, is the recorder's own region with its running mark; a RECORD SETUP that waits
has one request or its answer on the way, and leaves no region after RESET DEVICE. -/
def Obligations.StepKeepsTheBlocksTied : Prop :=
  ∀ s t : State, s.BlocksTied → step s = .next t → t.BlocksTied

/-- R129, R131: in a sound state no command stops the part: every step answers a next state. That an
address that does not exist would stop it is log entry 19, that a command without its event changes
nothing log entry 1. -/
def Obligations.NoCommandStopsThePart : Prop :=
  ∀ s : State, s.AudioSound → ∃ t, step s = .next t

/-! ## Frames -/

/-- The commands a Link Port takes. -/
def linkPortCommands (l : Link) : List Instr :=
  [.alignmentAcquired l, .alignmentLoss l, .windowPass l, .windowFail l, .trainLimit l,
    .signalDetect l, .signalLoss l, .negotiationTimerExpiry l, .restoreTimerExpiry l,
    .restHoldTimerExpiry l, .restEntered l, .clearRunComplete l, .wakeTimerExpiry l, .useNotice l,
    .linkFrameTransmit l, .responseSent l, .messageDiscardReport l, .heldMove l, .lpReset l,
    .linkSet l, .linkStatus l, .linkRenegotiate l, .partnerRead l, .counterQuery l]

/-- A command of a Link Port changes that Link Port and the messages between blocks; every other Link
Port, block, counter, clip and word of memory stays. -/
def Obligations.LinkPortFrame : Prop :=
  ∀ (l : Link) (s t : State),
    (∀ c ∈ linkPortCommands l, exec c s = .next t → OnlyLink l s t ∧ SameMemory s t) ∧
    ∀ (w : Word) (payload : Vector Word 64),
      exec (.receivedFrame l w payload) s = .next t → OnlyLink l s t ∧ SameMemory s t

/-- A command of the Frame Engine changes the Frame Engine and the messages between blocks; a frame
boundary also takes the receive frame of every Link Port and hands it a transmit frame, which are
`rx`, `txNow` and `txNext` of the Link Port (log entry 11). -/
def Piece.FrameEngineFrame : Prop :=
  ∀ s t : State,
    (∀ c ∈ [Instr.handOff, .activeTableCopy, .linkViewSnapshot, .gainAdjustApply, .claimAnswer,
        .entryReadActive, .tableSummaryActive, .engineStatus, .feReset],
      exec c s = .next t → OnlyFe s t ∧ SameMemory s t) ∧
    (∀ l, exec (.linkViewNotice l) s = .next t → OnlyFe s t ∧ SameMemory s t) ∧
    (exec .feFrameBoundary s = .next t →
      t = { s with fe := t.fe, lp := t.lp, mail := t.mail } ∧ SameMemory s t ∧
      ∀ l : Link, ∃ f : Option (List Slot),
        t.lp[l] = { s.lp[l] with rx := none, txNow := LP.txNext s.lp[l], txNext := f })

/-- A command of the Route Edit Unit changes the Route Edit Unit and the messages between blocks. -/
def Piece.RouteEditFrame : Prop :=
  ∀ s t : State,
    (∀ c ∈ [Instr.editOpen, .copyAnswer, .entryPut, .entryDelete, .entryReadStaging,
        .tableSummaryStaging, .tableCheck, .tableCommit, .snapshotAnswer, .editAbandon, .gainAdjust,
        .gainAdjustAnswer, .adoptionNotice, .discardNotice, .claimQuery, .holdTimerExpiry, .reuReset],
      exec c s = .next t → OnlyReu s t ∧ SameMemory s t) ∧
    ∀ l, exec (.linkLossNotice l) s = .next t → OnlyReu s t ∧ SameMemory s t

/-- What a command of the Frame Engine or of the Route Edit Unit leaves alone. -/
def Obligations.FrameEngineAndRouteEditFrame : Prop :=
  Piece.FrameEngineFrame ∧ Piece.RouteEditFrame

/-- A command of the Sample Store changes the Sample Store and the messages between blocks; memory
changes only at the run of a MEMORY WRITE and the address of a recorder write. -/
def Piece.SampleStoreFrame : Prop :=
  ∀ s t : State,
    (∀ c ∈ [Instr.holdRequest, .releaseNotice, .regionRequest, .regionRelease, .runningNotice,
        .memoryRead, .clipDefine, .clipDelete, .clipRead],
      exec c s = .next t → OnlySst s t ∧ SameMemory s t) ∧
    (∀ p, exec (.playerRead p) s = .next t → OnlySst s t ∧ SameMemory s t) ∧
    (exec .recorderWrite s = .next t → OnlySst s t ∧
      (Memory.wf s.sst.mem = true → ∀ a, (∀ w, s.mail.rcuToSst.head? ≠ some (.write a w)) →
        Memory.read t.sst.mem a = Memory.read s.sst.mem a)) ∧
    (exec .memoryWrite s = .next t → OnlySst s t ∧
      (Memory.wf s.sst.mem = true → ∀ a,
        (∀ req s', Handed .sst req s s' →
          a < field24 req.body 0 ∨ field24 req.body 0 + (req.body.length - 3) / 3 ≤ a) →
        Memory.read t.sst.mem a = Memory.read s.sst.mem a))

/-- A command of the Player Bank changes the Player Bank and the messages between blocks. -/
def Piece.PlayerBankFrame : Prop :=
  ∀ s t : State,
    (∀ c ∈ [Instr.plbFrameBoundary, .holdAnswer, .playNow, .playNext, .stopNow, .stopEnd,
        .playerStatus, .plbReset],
      exec c s = .next t → OnlyPlb s t ∧ SameMemory s t) ∧
    ∀ p, exec (.playerReadAnswer p) s = .next t → OnlyPlb s t ∧ SameMemory s t

/-- A command of the Recorder Unit changes the Recorder Unit and the messages between blocks. -/
def Piece.RecorderUnitFrame : Prop :=
  ∀ s t : State,
    (∀ c ∈ [Instr.recordSetup, .regionAnswer, .recordStart, .recordStop, .recorderStatus, .rcuReset],
      exec c s = .next t → OnlyRcu s t ∧ SameMemory s t) ∧
    ∀ r, exec (.recorderInputWord r) s = .next t → OnlyRcu s t ∧ SameMemory s t

/-- What a command of the Sample Store, the Player Bank or the Recorder Unit leaves alone. -/
def Obligations.AudioBlocksFrame : Prop :=
  Piece.SampleStoreFrame ∧ Piece.PlayerBankFrame ∧ Piece.RecorderUnitFrame

/-- A command of the Event Unit changes the Event Unit and the messages between blocks. -/
def Piece.EventUnitFrame : Prop :=
  ∀ s t : State,
    (∀ c ∈ [Instr.eventsRead, .countersRead, .counterAnswer, .indicatorSet, .counterNotice, .evuReset],
      exec c s = .next t → OnlyEvu s t ∧ SameMemory s t) ∧
    (∀ b, exec (.eventReport b) s = .next t → OnlyEvu s t ∧ SameMemory s t) ∧
    (∀ l, exec (.stateNotice l) s = .next t → OnlyEvu s t ∧ SameMemory s t) ∧
    (∀ l, exec (.completionReport l) s = .next t → OnlyEvu s t ∧ SameMemory s t) ∧
    (∀ n, exec (.pulseTimerExpiry n) s = .next t → OnlyEvu s t ∧ SameMemory s t) ∧
    ∀ g, exec (.blinkPhase g) s = .next t → OnlyEvu s t ∧ SameMemory s t

/-- A command of the Management Unit changes the Management Unit, the messages between blocks and the
transmit list of one link: the link the command names, or the link of the request, result or RESET it
takes. -/
def Piece.ManagementUnitFrame : Prop :=
  ∀ s t : State,
    (∀ l, ∀ c ∈ [Instr.messageTaken l, .sentReport l, .discardReport l, .stopNotice l],
      exec c s = .next t → OnlyMgu l s t ∧ SameMemory s t) ∧
    (exec .eventsWaitingQuery s = .next t → t = { s with mgu := t.mgu }) ∧
    (∀ c ∈ [Instr.identify, .nameSet, .resetRouting, .resetDevice],
      exec c s = .next t → SameMemory s t ∧
        (∀ req s', Handed .mgu req s s' → OnlyMgu req.ref.link s t) ∧
        ((∀ req s', ¬Handed .mgu req s s') → t = s)) ∧
    (∀ b, exec (.ownerResult b) s = .next t → SameMemory s t ∧
      (∀ r rest, Oldest (fun x => x.1 == b) s.mail.results (b, r) rest → OnlyMgu r.ref.link s t) ∧
      ((∀ x ∈ s.mail.results, x.1 ≠ b) → t = s)) ∧
    ∀ b, exec (.resetAck b) s = .next t → SameMemory s t ∧
      (∀ r, s.mgu.curReset = some r → OnlyMgu r.ref.link s t) ∧
      (s.mgu.curReset = none → t = { s with mail := t.mail })

/-- What a command of the Management Unit or of the Event Unit leaves alone. -/
def Obligations.ManagementAndEventFrame : Prop :=
  Piece.EventUnitFrame ∧ Piece.ManagementUnitFrame

/-! ## What is due comes first (log entry 10) -/

/-- The events that a received or sent frame makes due at a Link Port, in the order they are settled. -/
def dueEvents (l : Link) : List Instr :=
  [.responseSent l, .alignmentAcquired l, .alignmentLoss l, .windowPass l, .windowFail l, .trainLimit l,
    .restEntered l, .clearRunComplete l]

/-- The other events of a Link Port, beside a received frame. -/
def laterEvents (l : Link) : List Instr :=
  [.signalDetect l, .signalLoss l, .negotiationTimerExpiry l, .restoreTimerExpiry l,
    .restHoldTimerExpiry l, .wakeTimerExpiry l, .useNotice l, .linkFrameTransmit l,
    .messageDiscardReport l, .heldMove l, .lpReset l, .linkSet l, .linkStatus l, .linkRenegotiate l,
    .partnerRead l, .counterQuery l]

/-- The commands have been run one after another, each to a next state. -/
def Ran : List Instr → State → State → Prop
  | [], s, t => t = s
  | c :: cs, s, t => ∃ u, exec c s = .next u ∧ Ran cs u t

/-- R79, R80, R86, R90, R105, R107, R121, R125: an event of a Link Port does what it does after every event
that a frame had made due there; where nothing is due, the events of that kind change nothing. -/
def Piece.LinkEventsFollowWhatIsDue : Prop :=
  ∀ (l : Link) (s : State),
    (∃ u, Ran (dueEvents l) s u ∧ (LP.Settled u.lp[l] →
      (∀ c ∈ laterEvents l, exec c s = exec c u) ∧
      ∀ (w : Word) (payload : Vector Word 64),
        exec (.receivedFrame l w payload) s = exec (.receivedFrame l w payload) u)) ∧
    (LP.Settled s.lp[l] → ∀ c ∈ dueEvents l, exec c s = .next s)

/-- R122, R126: the sixteenth frame taken first. A use notice that finds the set run complete finds the
link in REST, with REST_ENTERED reported, and wakes it; a wake timer that expires with the clear run
complete finds the link in UP, and nothing fails. -/
def Piece.SixteenthFrameComesFirst : Prop :=
  ∀ (l : Link) (s : State),
    (∀ m ∈ (LP.txq s.lp[l]).head?, LP.txSent s.lp[l] < m.octets.length) →
    (LP.align s.lp[l]).badRun < 4 →
    (∀ rest, LP.state s.lp[l] = .up → (LP.rest s.lp[l]).ownRst = true →
      16 ≤ (LP.rest s.lp[l]).setRun → (LP.rest s.lp[l]).used = false →
      s.mail.useNotices[l] = true :: rest →
      ∃ t, exec (.useNotice l) s = .next t ∧ OnlyLink l s t ∧ LP.state t.lp[l] = .wake ∧
        LP.rest t.lp[l] = { LP.rest s.lp[l] with used := true, ownRst := false, clearRun := 0 } ∧
        (LP.timers t.lp[l]).wake = some 0 ∧ LP.txq t.lp[l] = LP.txq s.lp[l] ∧
        t.mail = { s.mail with
          useNotices := updAt s.mail.useNotices l fun _ => rest
          stateNotices := updAt s.mail.stateNotices l (· ++ [.rest, .wake])
          viewNotices := updAt s.mail.viewNotices l
            (· ++ [⟨.rest, LP.slotCount s.lp[l]⟩, ⟨.wake, LP.slotCount s.lp[l]⟩])
          reports := s.mail.reports ++
            [(.lp l, ⟨.restEntered, l.val, LP.slotCount s.lp[l], none⟩)] }) ∧
    (LP.state s.lp[l] = .wake → 16 ≤ (LP.rest s.lp[l]).clearRun →
      ∃ t, exec (.wakeTimerExpiry l) s = .next t ∧ OnlyLink l s t ∧ LP.state t.lp[l] = .up ∧
        (LP.timers t.lp[l]).wake = none ∧ LP.txq t.lp[l] = LP.txq s.lp[l] ∧
        t.mail = { s.mail with
          stateNotices := updAt s.mail.stateNotices l (· ++ [.up])
          viewNotices := updAt s.mail.viewNotices l (· ++ [⟨.up, LP.slotCount s.lp[l]⟩]) })

/-- The reads of every player, each taken by the Sample Store and its answer by the Player Bank. -/
def readEvents : List Instr :=
  allEight.flatMap fun p => [.playerRead p, .playerReadAnswer p]

/-- R145, R151, R154: an event of the Player Bank does what it does after the reads of the boundary before
it have been completed, whose words are posted and whose players have advanced (log entry 22). -/
def Piece.PlayerEventsFollowTheReads : Prop :=
  ∀ s : State,
    ((∀ r ∈ s.mail.playerReads, r.addr < 131072) → ∃ u, Ran readEvents s u) ∧
    ∀ u, Ran readEvents s u → u.mail.playerReads = [] → u.mail.readAnswers = [] →
      ∀ c ∈ [Instr.plbFrameBoundary, .holdAnswer, .playNow, .playNext, .stopNow, .stopEnd,
          .playerStatus, .plbReset],
        exec c s = exec c u

/-- R90, R122, R126, R145, R151, R154: what an earlier frame, octet or read has made due happens before the
next event of the Link Port or of the Player Bank (log entries 10 and 22). -/
def Obligations.WhatIsDueComesFirst : Prop :=
  Piece.LinkEventsFollowWhatIsDue ∧ Piece.SixteenthFrameComesFirst ∧ Piece.PlayerEventsFollowTheReads

/-! ## Link Ports

A statement about an event other than those of `dueEvents` is about a Link Port where nothing is due:
`LP.Settled`. The statement above says what such an event does elsewhere. -/

/-- R79, R81: a frame received in LISTEN, nothing being due: the acquisition run and the service
errors by the four cases, and nothing else. -/
def Piece.ListenJudgesSync : Prop :=
  ∀ (l : Link) (s : State) (w : Word) (payload : Vector Word 64),
    LP.state s.lp[l] = .listen → LP.Settled s.lp[l] →
    ∃ (a : Align) (c : Counters),
      exec (.receivedFrame l w payload) s =
        .next (s.onLp l fun p => { p with align := a, counters := c }) ∧
      a.expected = (LP.align s.lp[l]).expected ∧ a.badRun = (LP.align s.lp[l]).badRun ∧
      (svcSync w = none → a.acqRun = 0 ∧ c = { LP.counters s.lp[l] with
        serviceErrors := satInc (LP.counters s.lp[l]).serviceErrors }) ∧
      ∀ v, svcSync w = some v → a.prev = some v ∧
        ((LP.align s.lp[l]).acqRun = 0 → a.acqRun = 1 ∧ c = LP.counters s.lp[l]) ∧
        (1 ≤ (LP.align s.lp[l]).acqRun → (LP.align s.lp[l]).prev ≠ some v →
          a.acqRun = (LP.align s.lp[l]).acqRun + 1 ∧ c = LP.counters s.lp[l]) ∧
        (1 ≤ (LP.align s.lp[l]).acqRun → (LP.align s.lp[l]).prev = some v →
          a.acqRun = 1 ∧ c = { LP.counters s.lp[l] with
            serviceErrors := satInc (LP.counters s.lp[l]).serviceErrors })

/-- R79, R92, R95, R102: with the acquisition run at 8 in LISTEN the link moves to NEGOTIATE: it expects
the opposite of the eighth frame's pattern, its pages are built, the negotiation timer starts, and
the Event Unit alone is told. -/
def Piece.AlignmentAcquiredNegotiates : Prop :=
  ∀ (l : Link) (s : State) (v : Sync),
    LP.state s.lp[l] = .listen → 8 ≤ (LP.align s.lp[l]).acqRun → (LP.align s.lp[l]).prev = some v →
    ∃ t, exec (.alignmentAcquired l) s = .next t ∧ OnlyLink l s t ∧
      LP.state t.lp[l] = .negotiate ∧
      (LP.align t.lp[l]).expected = v.other ∧ (LP.align t.lp[l]).badRun = 0 ∧
      LP.timers t.lp[l] = ⟨some 0, none, none, none⟩ ∧ LP.pageRx t.lp[l] = PageRx.empty ∧
      LP.pageTx t.lp[l] = ⟨ownPages (LP.advert s.lp[l]) s.unit s.mgu.label, 0, 0, []⟩ ∧
      LP.rdy t.lp[l] = false ∧ LP.attempts t.lp[l] = LP.attempts s.lp[l] ∧
      LP.advert t.lp[l] = LP.advert s.lp[l] ∧ LP.counters t.lp[l] = LP.counters s.lp[l] ∧
      t.mail = { s.mail with stateNotices := updAt s.mail.stateNotices l (· ++ [.negotiate]) }

/-- R79: LISTEN, from its first frame to alignment acquired. -/
def Obligations.ListenAcquiresAlignment : Prop :=
  Piece.ListenJudgesSync ∧ Piece.AlignmentAcquiredNegotiates

/-- R90, R91, R92, R126: alignment loss, signal loss and a failed wake each take a running link that
holds no move out of the running states, with their event and what R91 gives. Every message still in
the transmit list is reported as discarded (log entry 28). -/
def Piece.RunningLinkIsLost : Prop :=
  ∀ (l : Link) (s : State), (LP.state s.lp[l]).running = true → LP.heldMove s.lp[l] = false →
    (4 ≤ (LP.align s.lp[l]).badRun →
      ∃ t, exec (.alignmentLoss l) s = .next t ∧ LeftRunning l s t .listen .linkLost ∧
        (LP.counters t.lp[l]).alignLosses = satInc (LP.counters s.lp[l]).alignLosses) ∧
    (LP.Settled s.lp[l] →
      ∃ t, exec (.signalLoss l) s = .next t ∧ LeftRunning l s t .down .linkDown ∧
        LP.timers t.lp[l] = ⟨none, some 0, none, none⟩ ∧
        (LP.counters t.lp[l]).alignLosses = (LP.counters s.lp[l]).alignLosses) ∧
    ∀ k, LP.Settled s.lp[l] → LP.state s.lp[l] = .wake → (LP.timers s.lp[l]).wake = some k → 400 ≤ k →
      ∃ t, exec (.wakeTimerExpiry l) s = .next t ∧ LeftRunning l s t .listen .wakeFailed ∧
        (LP.counters t.lp[l]).alignLosses = (LP.counters s.lp[l]).alignLosses

/-- R112: a running link that holds a move and is lost carries the move out from the state it reaches: to
DISABLED when enable is 0; otherwise it stays where the loss has taken it. -/
def Piece.HeldMoveFollowsTheLoss : Prop :=
  ∀ (l : Link) (s : State) (c : Instr) (new : LinkState),
    (LP.state s.lp[l]).running = true → LP.heldMove s.lp[l] = true →
    (c = .alignmentLoss l ∧ new = .listen ∧ 4 ≤ (LP.align s.lp[l]).badRun) ∨
      (c = .signalLoss l ∧ new = .down ∧ LP.Settled s.lp[l]) ∨
      (c = .wakeTimerExpiry l ∧ new = .listen ∧ LP.Settled s.lp[l] ∧ LP.state s.lp[l] = .wake ∧
        ∃ k, (LP.timers s.lp[l]).wake = some k ∧ 400 ≤ k) →
    ∃ t, exec c s = .next t ∧ OnlyLink l s t ∧ LP.heldMove t.lp[l] = false ∧
      LP.state t.lp[l] = (if (LP.cfg s.lp[l]).enable then new else .disabled) ∧
      LP.txq t.lp[l] = [] ∧ LP.cfg t.lp[l] = LP.cfg s.lp[l] ∧
      ((LP.cfg s.lp[l]).enable = true → LP.framing t.lp[l] = 16) ∧
      LP.asm t.lp[l] = .empty ∧ LP.rdy t.lp[l] = false ∧
      LP.rest t.lp[l] = ⟨false, false, 0, 0, (LP.rest s.lp[l]).used⟩ ∧
      LP.timers t.lp[l] =
        ⟨none, if (LP.cfg s.lp[l]).enable = true ∧ new = .down then some 0 else none, none, none⟩ ∧
      (∀ buf, LP.asm s.lp[l] = .assembling buf →
        (LP.counters t.lp[l]).discarded = satInc (LP.counters s.lp[l]).discarded) ∧
      t.mail.lossNotices = updAt s.mail.lossNotices l (· + 1) ∧
      t.mail.viewNotices = updAt s.mail.viewNotices l (· ++ [⟨.out, 0⟩])

/-- R92: alignment loss in NEGOTIATE and TRAIN moves the link to LISTEN, where acquisition begins afresh:
the timers stop, the training window and the pages go, the attempt counter and the advertisement stay;
no event is reported and no alignment loss counted. -/
def Piece.StoppedLinkLosesAlignment : Prop :=
  ∀ (l : Link) (s : State),
    LP.state s.lp[l] ∈ [LinkState.negotiate, .train] → 4 ≤ (LP.align s.lp[l]).badRun →
    ∃ t, exec (.alignmentLoss l) s = .next t ∧ OnlyLink l s t ∧ LP.state t.lp[l] = .listen ∧
      (LP.align t.lp[l]).acqRun = 0 ∧ (LP.align t.lp[l]).prev = none ∧
      (LP.align t.lp[l]).badRun = 0 ∧ LP.timers t.lp[l] = ⟨none, none, none, none⟩ ∧
      LP.train t.lp[l] = ⟨0, none⟩ ∧ LP.rdy t.lp[l] = false ∧ LP.pageRx t.lp[l] = PageRx.empty ∧
      LP.framing t.lp[l] = 16 ∧ LP.attempts t.lp[l] = LP.attempts s.lp[l] ∧
      LP.advert t.lp[l] = LP.advert s.lp[l] ∧ LP.counters t.lp[l] = LP.counters s.lp[l] ∧
      LP.partner t.lp[l] = (LP.partner s.lp[l]).map (fun r => { r with current := false }) ∧
      t.mail = { s.mail with stateNotices := updAt s.mail.stateNotices l (· ++ [.listen]) }

/-- R90 to R92, R112, R126: a link that leaves the running states, with and without a held move, and one
that loses alignment before it runs. -/
def Obligations.LinkIsLostAndHeldMoveFollows : Prop :=
  Piece.RunningLinkIsLost ∧ Piece.HeldMoveFollowsTheLoss ∧ Piece.StoppedLinkLosesAlignment

/-- R90, R93, R110: signal detect takes a link in DOWN that is not held to LISTEN, where acquisition
begins afresh and the restore timer stops; a held link stays. Signal loss takes LISTEN, NEGOTIATE and
TRAIN to DOWN without an event, and starts the restore timer. -/
def Piece.SignalMovesStoppedLinks : Prop :=
  ∀ (l : Link) (s : State),
    LP.Settled s.lp[l] →
    (LP.state s.lp[l] = .down → LP.held s.lp[l] = false →
      ∃ t, exec (.signalDetect l) s = .next t ∧ OnlyLink l s t ∧ LP.state t.lp[l] = .listen ∧
        (LP.align t.lp[l]).acqRun = 0 ∧ (LP.align t.lp[l]).prev = none ∧
        LP.timers t.lp[l] = ⟨none, none, none, none⟩ ∧
        t.mail = { s.mail with stateNotices := updAt s.mail.stateNotices l (· ++ [.listen]) }) ∧
    (LP.held s.lp[l] = true → exec (.signalDetect l) s = .next s) ∧
    (LP.state s.lp[l] ∈ [LinkState.listen, .negotiate, .train] →
      ∃ t, exec (.signalLoss l) s = .next t ∧ OnlyLink l s t ∧ LP.state t.lp[l] = .down ∧
        LP.timers t.lp[l] = ⟨none, some 0, none, none⟩ ∧ LP.attempts t.lp[l] = LP.attempts s.lp[l] ∧
        t.mail = { s.mail with stateNotices := updAt s.mail.stateNotices l (· ++ [.down]) }) ∧
    (LP.state s.lp[l] ∈ [LinkState.disabled, .down] → exec (.signalLoss l) s = .next s)

/-- R102, R114: the negotiation timer at 500 ms in NEGOTIATE moves the link to LISTEN and counts a
negotiation timeout, with no event. -/
def Piece.NegotiationTimesOut : Prop :=
  ∀ (l : Link) (s : State) (k : Nat),
    LP.Settled s.lp[l] → LP.state s.lp[l] = .negotiate → (LP.timers s.lp[l]).neg = some k →
    2000 ≤ k →
    ∃ t, exec (.negotiationTimerExpiry l) s = .next t ∧ OnlyLink l s t ∧
      LP.state t.lp[l] = .listen ∧ LP.negTimeouts t.lp[l] = satInc (LP.negTimeouts s.lp[l]) ∧
      LP.timers t.lp[l] = ⟨none, none, none, none⟩ ∧ (LP.align t.lp[l]).acqRun = 0 ∧
      LP.counters t.lp[l] = LP.counters s.lp[l] ∧
      t.mail = { s.mail with stateNotices := updAt s.mail.stateNotices l (· ++ [.listen]) }

/-- R109, R110: in DOWN for the restore time, the advertisement becomes every grade up to the maximum
grade, the downshift record empties, the timer stops, and ADVERT_RESTORED is reported exactly when
the advertisement changed. -/
def Piece.RestoreTimerRestores : Prop :=
  ∀ (l : Link) (s : State) (k : Nat),
    LP.Settled s.lp[l] → LP.state s.lp[l] = .down → (LP.timers s.lp[l]).restore = some k →
    (LP.cfg s.lp[l]).restoreTime * 4000 ≤ k →
    ∃ t, exec (.restoreTimerExpiry l) s = .next t ∧
      t.lp = updAt s.lp l (fun p =>
        { p with
          advert := Grades.upTo p.cfg.maxGrade, removed := ⟨false, false, false⟩
          timers := { p.timers with restore := none } }) ∧
      (LP.advert s.lp[l] = Grades.upTo (LP.cfg s.lp[l]).maxGrade → t.mail = s.mail) ∧
      (LP.advert s.lp[l] ≠ Grades.upTo (LP.cfg s.lp[l]).maxGrade →
        t.mail = { s.mail with
          reports := s.mail.reports ++ [(.lp l,
            ⟨.advertRestored, l.val, (LP.cfg s.lp[l]).maxGrade.slots, none⟩)] })

/-- R90, R102, R109, R110: the signal reports and the timers of a link that is not running. -/
def Obligations.StoppedLinksMoveBySignalAndTimer : Prop :=
  Piece.SignalMovesStoppedLinks ∧ Piece.NegotiationTimesOut ∧ Piece.RestoreTimerRestores

/-- R119, R121, R125: the rest hold timer at its time in UP sets the own RST and clears the set run; a
set run of 16 with the own RST set takes the link to REST; a clear run of 16 in WAKE takes it to UP. -/
def Piece.RestAndWakeMoves : Prop :=
  ∀ (l : Link) (s : State),
    (∀ k, LP.Settled s.lp[l] → LP.state s.lp[l] = .up → (LP.timers s.lp[l]).restHold = some k →
      (LP.cfg s.lp[l]).restHold * 4 ≤ k →
      exec (.restHoldTimerExpiry l) s = .next (s.onLp l fun p =>
        { p with
          rest := { p.rest with ownRst := true, setRun := 0 }
          timers := { p.timers with restHold := none } })) ∧
    (LP.state s.lp[l] = .up → (LP.rest s.lp[l]).ownRst = true → 16 ≤ (LP.rest s.lp[l]).setRun →
      ∃ t, exec (.restEntered l) s = .next t ∧ OnlyLink l s t ∧ LP.state t.lp[l] = .rest ∧
        (LP.rest t.lp[l]).ownRst = true ∧ LP.txq t.lp[l] = LP.txq s.lp[l] ∧
        LP.asm t.lp[l] = LP.asm s.lp[l] ∧
        t.mail = { s.mail with
          stateNotices := updAt s.mail.stateNotices l (· ++ [.rest])
          viewNotices := updAt s.mail.viewNotices l (· ++ [⟨.rest, LP.slotCount s.lp[l]⟩])
          reports := s.mail.reports ++
            [(.lp l, ⟨.restEntered, l.val, LP.slotCount s.lp[l], none⟩)] }) ∧
    (LP.state s.lp[l] = .wake → 16 ≤ (LP.rest s.lp[l]).clearRun →
      ∃ t, exec (.clearRunComplete l) s = .next t ∧ OnlyLink l s t ∧ LP.state t.lp[l] = .up ∧
        (LP.timers t.lp[l]).wake = none ∧ LP.txq t.lp[l] = LP.txq s.lp[l] ∧
        LP.asm t.lp[l] = LP.asm s.lp[l] ∧ LP.attempts t.lp[l] = LP.attempts s.lp[l] ∧
        ((LP.timers t.lp[l]).restHold = some 0 ↔
          (LP.rest s.lp[l]).used = false ∧ 0 < (LP.cfg s.lp[l]).restHold ∧
            ∃ r, LP.partner s.lp[l] = some r ∧ r.base.rcap = true) ∧
        t.mail = { s.mail with
          stateNotices := updAt s.mail.stateNotices l (· ++ [.up])
          viewNotices := updAt s.mail.viewNotices l (· ++ [⟨.up, LP.slotCount s.lp[l]⟩]) })

/-- R105: the window whose 256th frame is judged with at most 2 error frames passes: RDY is set, once. -/
def Piece.WindowPassSetsReady : Prop :=
  ∀ (l : Link) (s : State) (w : Window),
    LP.state s.lp[l] = .train → LP.rdy s.lp[l] = false → (LP.train s.lp[l]).window = some w →
    256 ≤ w.judged → w.errors ≤ 2 →
    exec (.windowPass l) s = .next (s.onLp l fun p => { p with rdy := true })

/-- R107, R108: a training failure, by a window with 3 error frames or by the 512th frame: the link goes
back to NEGOTIATE with the failure counted; at the threshold the agreed grade and those above leave
the advertisement with DOWNSHIFT, or TRAIN_FAILING is reported for G16. -/
def Obligations.TrainingFailureDownshifts : Prop :=
  ∀ (l : Link) (s : State) (c : Instr),
    LP.state s.lp[l] = .train →
    (c = .windowFail l ∧ (∃ w, (LP.train s.lp[l]).window = some w ∧ 3 ≤ w.errors)) ∨
      (c = .trainLimit l ∧ 512 ≤ (LP.train s.lp[l]).frames) →
    ∃ t, exec c s = .next t ∧ OnlyLink l s t ∧ LP.state t.lp[l] = .negotiate ∧
      LP.rdy t.lp[l] = false ∧ LP.timers t.lp[l] = ⟨some 0, none, none, none⟩ ∧
      LP.train t.lp[l] = ⟨0, none⟩ ∧ LP.pageRx t.lp[l] = PageRx.empty ∧
      (LP.pageTx t.lp[l]).pages = ownPages (LP.advert t.lp[l]) s.unit s.mgu.label ∧
      LP.partner t.lp[l] = (LP.partner s.lp[l]).map (fun r => { r with current := false }) ∧
      (LP.counters t.lp[l]).trainFailures = satInc (LP.counters s.lp[l]).trainFailures ∧
      (LP.attempts s.lp[l] + 1 < (LP.cfg s.lp[l]).threshold →
        LP.attempts t.lp[l] = LP.attempts s.lp[l] + 1 ∧ LP.advert t.lp[l] = LP.advert s.lp[l] ∧
        (LP.counters t.lp[l]).downshifts = (LP.counters s.lp[l]).downshifts ∧
        t.mail = { s.mail with stateNotices := updAt s.mail.stateNotices l (· ++ [.negotiate]) }) ∧
      ((LP.cfg s.lp[l]).threshold ≤ LP.attempts s.lp[l] + 1 →
        LP.attempts t.lp[l] = 0 ∧
        (∀ g, LP.agreed s.lp[l] = some g → g ≠ .g16 →
          LP.advert t.lp[l] = (LP.advert s.lp[l]).diff (Grades.fromUp g) ∧
          LP.removed t.lp[l] =
            (LP.removed s.lp[l]).union ((LP.advert s.lp[l]).inter (Grades.fromUp g)) ∧
          (LP.counters t.lp[l]).downshifts = satInc (LP.counters s.lp[l]).downshifts ∧
          t.mail = { s.mail with
            reports := s.mail.reports ++ [(.lp l, ⟨.downshift, l.val,
              g.slots * 256 + ((LP.advert s.lp[l]).diff (Grades.fromUp g)).bestSlots, none⟩)]
            stateNotices := updAt s.mail.stateNotices l (· ++ [.negotiate]) }) ∧
        (LP.agreed s.lp[l] = some .g16 →
          LP.advert t.lp[l] = LP.advert s.lp[l] ∧
          (LP.counters t.lp[l]).downshifts = (LP.counters s.lp[l]).downshifts ∧
          t.mail = { s.mail with
            reports := s.mail.reports ++ [(.lp l, ⟨.trainFailing, l.val, 16, none⟩)]
            stateNotices := updAt s.mail.stateNotices l (· ++ [.negotiate]) }))

/-- R118: the conditions of rest beside the used flag. -/
def mayRest (p : LP) : Prop :=
  0 < p.cfg.restHold ∧ ∃ r, p.partner = some r ∧ r.base.rcap = true

/-- R100, R105, R106, R119, R120: in TRAIN with the local window passed, a good-sync word with RDY set
takes the link to UP: attempt counter 0, assembly and transmit list empty, the window discarded, own
and partner RST clear, the rest hold timer started from zero exactly when the link is rest-eligible,
LINK_UP, and the UP view with the slot count. -/
def Piece.ReadyWordBringsLinkUp : Prop :=
  ∀ (l : Link) (s : State) (w : Word) (payload : Vector Word 64),
    LP.state s.lp[l] = .train → LP.rdy s.lp[l] = true → LP.Settled s.lp[l] →
    svcSync w = some (LP.align s.lp[l]).expected → svcRdy w = true →
    ∃ t, exec (.receivedFrame l w payload) s = .next t ∧ OnlyLink l s t ∧
      LP.state t.lp[l] = .up ∧ LP.attempts t.lp[l] = 0 ∧ LP.asm t.lp[l] = .empty ∧
      LP.txq t.lp[l] = [] ∧ LP.rdy t.lp[l] = true ∧ LP.rx t.lp[l] = LP.rx s.lp[l] ∧
      LP.train t.lp[l] = ⟨0, none⟩ ∧
      (LP.align t.lp[l]).expected = (LP.align s.lp[l]).expected.other ∧
      LP.rest t.lp[l] = ⟨false, false, 0, 0, (LP.rest s.lp[l]).used⟩ ∧
      (∃ timer, LP.timers t.lp[l] = ⟨none, none, timer, none⟩ ∧
        ((LP.rest s.lp[l]).used = false ∧ mayRest s.lp[l] → timer = some 0) ∧
        (¬((LP.rest s.lp[l]).used = false ∧ mayRest s.lp[l]) → timer = none)) ∧
      t.mail = { s.mail with
        stateNotices := updAt s.mail.stateNotices l (· ++ [.up])
        viewNotices := updAt s.mail.viewNotices l (· ++ [⟨.up, LP.slotCount s.lp[l]⟩])
        reports := s.mail.reports ++ [(.lp l, ⟨.linkUp, l.val, LP.slotCount s.lp[l], none⟩)] }

/-- R104: the word of payload slot `i + 1` in a training frame sent with a sync pattern. -/
def trainingWord (sync : Sync) (i : Nat) : Slot :=
  match sync with
  | .a => ⟨BitVec.ofNat 24 ((i + 1) * 65793), .live⟩
  | .b => ⟨~~~BitVec.ofNat 24 ((i + 1) * 65793), .live⟩

/-- R105: a frame received in TRAIN is an error frame: bad sync, another code than TRAIN, or a payload slot
that differs from the training word of the pattern expected. -/
def isErrorFrame (p : LP) (w : Word) (payload : Vector Word 64) : Prop :=
  svcSync w ≠ some p.align.expected ∨ svcCode w ≠ some .train ∨
    ∃ i x, ((payload.toList.take p.slotCount).map slotOf)[i]? = some x ∧
      x ≠ trainingWord p.align.expected i

/-- R80, R81, R105, R107: a frame received in TRAIN that does not bring the link up: it counts toward the
512 frames; the window opens with the first good TRAIN word and judges each frame from then on, an
error frame counted, until the link is ready. -/
def Piece.TrainingFramesAreJudged : Prop :=
  ∀ (l : Link) (s : State) (w : Word) (payload : Vector Word 64),
    LP.state s.lp[l] = .train → LP.Settled s.lp[l] →
    ¬(LP.rdy s.lp[l] = true ∧ svcSync w = some (LP.align s.lp[l]).expected ∧ svcRdy w = true) →
    let p : LP := s.lp[l]
    ∃ (x : Option Window) (bad : Nat) (c : Counters),
      exec (.receivedFrame l w payload) s = .next (s.onLp l fun p =>
        { p with
          train := ⟨p.train.frames + 1, x⟩
          align := { p.align with expected := p.align.expected.other, badRun := bad }
          counters := c }) ∧
      (p.rdy = true → x = p.train.window) ∧
      (p.rdy = false → p.train.window = none →
        (svcSync w = some p.align.expected → svcCode w = some .train →
          (isErrorFrame p w payload → x = some ⟨1, 1⟩) ∧
          (¬isErrorFrame p w payload → x = some ⟨1, 0⟩)) ∧
        (svcSync w ≠ some p.align.expected ∨ svcCode w ≠ some .train → x = none)) ∧
      (∀ y, p.rdy = false → p.train.window = some y →
        (isErrorFrame p w payload → x = some ⟨y.judged + 1, y.errors + 1⟩) ∧
        (¬isErrorFrame p w payload → x = some ⟨y.judged + 1, y.errors⟩)) ∧
      (svcSync w = some p.align.expected → bad = 0 ∧
        c = if svcCode w = none then { p.counters with codeErrors := satInc p.counters.codeErrors }
          else p.counters) ∧
      (svcSync w ≠ some p.align.expected → bad = p.align.badRun + 1 ∧
        c = { p.counters with serviceErrors := satInc p.counters.serviceErrors })

/-- R105 to R107: training, frame by frame, up to the entry into UP. -/
def Obligations.TrainingBringsLinkUp : Prop :=
  Piece.TrainingFramesAreJudged ∧ Piece.WindowPassSetsReady ∧ Piece.ReadyWordBringsLinkUp

/-! ### Pages (R97 to R101, R103) -/

/-- R99: the own ACK flag stands as the accepted copies say. -/
def AckDecided (y : PageRx) : Prop :=
  y.ownAck = true ↔ ∃ b, y.base = some b ∧ ∀ i : Fin 4, i.val < b.nextCount → y.next[i] ≠ none

/-- R98: a reception of page 0 with the fields `c` and the flag ACK. One that repeats the last reception is
accepted; if it replaces other content the accepted next pages go. One that differs becomes the last
reception, its flag recorded if it equals the accepted copy. -/
def BaseReceived (x : PageRx) (c : BasePage) (ack : Bool) (y : PageRx) : Prop :=
  (x.lastBase = some c →
    y = { x with base := some c, partnerAck := ack, next := y.next, ownAck := y.ownAck } ∧
    (x.base = none ∨ x.base = some c → y.next = x.next) ∧
    (∀ b, x.base = some b → b ≠ c → ∀ i : Fin 4, y.next[i] = none) ∧ AckDecided y) ∧
  (x.lastBase ≠ some c →
    y = { x with
      lastBase := some c, partnerAck := if x.base = some c then ack else x.partnerAck })

/-- R97, R98: a reception of next page `i + 1`, ignored when the accepted base page announces fewer,
accepted when it repeats the last reception. -/
def NextReceived (x : PageRx) (i : Fin 4) (chars : List Byte) (y : PageRx) : Prop :=
  ((∃ b, x.base = some b ∧ b.nextCount < i.val + 1) → y = x) ∧
  ((∀ b, x.base = some b → i.val + 1 ≤ b.nextCount) →
    (x.lastNext[i] = some chars →
      y = { x with next := updAt x.next i fun _ => some chars, ownAck := y.ownAck } ∧ AckDecided y) ∧
    (x.lastNext[i] ≠ some chars →
      y = { x with lastNext := updAt x.lastNext i fun _ => some chars }))

/-- R97, R198: a complete page: ignored above number 4, or as a base page with a next count above 4. -/
def PageReceived (x : PageRx) (os : List Byte) (y : PageRx) : Prop :=
  (4 < octAt os 0 → y = x) ∧
  (octAt os 0 = 0 →
    (4 < (basePageOf os).nextCount → y = x) ∧
    ((basePageOf os).nextCount ≤ 4 → BaseReceived x (basePageOf os) (basePageAck os) y)) ∧
  ∀ i : Fin 4, octAt os 0 = i.val + 1 → NextReceived x i ((os.drop 1).take 6) y

/-- R97: a PAGE word with good sync: quarter 0 starts a page, the next quarter in order is appended, any
other discards the partial page, and quarter 3 completes it. -/
def PageWordTaken (x : PageRx) (q : Nat) (o1 o2 : Byte) (y : PageRx) : Prop :=
  (q = 0 → y = { x with part := [o1, o2] }) ∧
  (q ≠ 0 → x.part.length ≠ 2 * q → y = { x with part := [] }) ∧
  (q = 1 ∨ q = 2 → x.part.length = 2 * q → y = { x with part := x.part ++ [o1, o2] }) ∧
  (q = 3 → x.part.length = 6 → PageReceived { x with part := [] } (x.part ++ [o1, o2]) y)

/-- R99 to R101, R103: agreement as it stands on a link. With both flags set, a common grade writes the
partner record and the agreed grade, stops the timer and moves the link to TRAIN; no common grade
reports NEGOTIATION_FAILED, once per stay. -/
def AgreementJudged (l : Link) (s t : State) : Prop :=
  let p : LP := s.lp[l]
  (p.pageRx.ownAck = false ∨ p.pageRx.partnerAck = false ∨ p.pageRx.base = none → t = s) ∧
  ∀ b, p.pageRx.ownAck = true → p.pageRx.partnerAck = true → p.pageRx.base = some b →
    (∀ g, (p.advert.inter b.advert).best = some g → OnlyLink l s t ∧
      LP.state t.lp[l] = .train ∧ LP.agreed t.lp[l] = some g ∧
      LP.partner t.lp[l] = some ⟨b, labelOf b.nextCount p.pageRx.next, g, true⟩ ∧
      LP.timers t.lp[l] = ⟨none, none, none, none⟩ ∧ LP.train t.lp[l] = ⟨0, none⟩ ∧
      LP.rdy t.lp[l] = false ∧ LP.framing t.lp[l] = g.slots ∧ LP.align t.lp[l] = p.align ∧
      LP.counters t.lp[l] = p.counters ∧ LP.advert t.lp[l] = p.advert ∧
      LP.attempts t.lp[l] = p.attempts ∧
      t.mail = { s.mail with stateNotices := updAt s.mail.stateNotices l (· ++ [.train]) }) ∧
    ((p.advert.inter b.advert).best = none →
      (p.pageRx.failReported = true → t = s) ∧
      (p.pageRx.failReported = false →
        t = { s with
          lp := updAt s.lp l fun p => { p with pageRx := { p.pageRx with failReported := true } }
          mail := { s.mail with
            reports := s.mail.reports ++ [(.lp l, ⟨.negotiationFailed, l.val, 0, none⟩)] } }))

/-- R78, R80, R81, R97 to R101, R103: a frame received in NEGOTIATE: bad sync is counted and the word is
not acted on; a word of another code only keeps alignment, an undefined one counted; a PAGE word goes
to page reception, and agreement is judged on what it leaves. -/
def Obligations.NegotiationReceivesPages : Prop :=
  ∀ (l : Link) (s : State) (w : Word) (payload : Vector Word 64),
    LP.state s.lp[l] = .negotiate → LP.Settled s.lp[l] →
    (svcSync w ≠ some (LP.align s.lp[l]).expected →
      exec (.receivedFrame l w payload) s = .next (s.onLp l fun p =>
        { p with
          align := { p.align with expected := p.align.expected.other, badRun := p.align.badRun + 1 }
          counters := { p.counters with serviceErrors := satInc p.counters.serviceErrors } })) ∧
    (svcSync w = some (LP.align s.lp[l]).expected →
      (svcCode w ≠ some .page →
        exec (.receivedFrame l w payload) s = .next (s.onLp l fun p =>
          { p with
            align := { p.align with expected := p.align.expected.other, badRun := 0 }
            counters :=
              if svcCode w = none then
                { p.counters with codeErrors := satInc p.counters.codeErrors }
              else p.counters })) ∧
      (svcCode w = some .page →
        ∃ (y : PageRx) (t : State), exec (.receivedFrame l w payload) s = .next t ∧
          PageWordTaken (LP.pageRx s.lp[l]) (svcQuarter w) (svcOctet1 w) (svcOctet2 w) y ∧
          AgreementJudged l (s.onLp l fun p =>
            { p with
              align := { p.align with expected := p.align.expected.other, badRun := 0 }
              pageRx := y }) t))

/-! ### Frames in the running states -/

/-- R76, R80, R81, R84: a frame received in a running state is presented to the Frame Engine: with good
sync its slots as decoded, with bad sync every slot as 0 with status SUBST, the error counted and a
message in assembly discarded. The expected pattern alternates in both cases. -/
def Piece.RunningFrameIsPresented : Prop :=
  ∀ (l : Link) (s : State) (w : Word) (payload : Vector Word 64),
    (LP.state s.lp[l]).running = true → LP.Settled s.lp[l] →
    ∃ t, exec (.receivedFrame l w payload) s = .next t ∧ OnlyLink l s t ∧
      (LP.align t.lp[l]).expected = (LP.align s.lp[l]).expected.other ∧
      LP.txq t.lp[l] = LP.txq s.lp[l] ∧ LP.agreed t.lp[l] = LP.agreed s.lp[l] ∧
      (svcSync w = some (LP.align s.lp[l]).expected →
        LP.rx t.lp[l] = some ((payload.toList.take (LP.slotCount s.lp[l])).map slotOf) ∧
        (LP.align t.lp[l]).badRun = 0 ∧ (LP.rest t.lp[l]).partnerRst = svcRst w ∧
        (LP.state t.lp[l] = if LP.state s.lp[l] = .rest ∧ svcRst w = false then .wake
          else LP.state s.lp[l])) ∧
      (svcSync w ≠ some (LP.align s.lp[l]).expected →
        LP.rx t.lp[l] = some (List.replicate (LP.slotCount s.lp[l]) ⟨0, .subst⟩) ∧
        (LP.align t.lp[l]).badRun = (LP.align s.lp[l]).badRun + 1 ∧
        LP.state t.lp[l] = LP.state s.lp[l] ∧ t.mail = s.mail ∧
        (LP.rest t.lp[l]).partnerRst = (LP.rest s.lp[l]).partnerRst ∧
        (LP.rest t.lp[l]).setRun = 0 ∧ (LP.rest t.lp[l]).clearRun = 0 ∧
        (LP.counters t.lp[l]).serviceErrors = satInc (LP.counters s.lp[l]).serviceErrors ∧
        (∀ buf, LP.asm s.lp[l] = .assembling buf → LP.asm t.lp[l] = .skipping ∧
          (LP.counters t.lp[l]).discarded = satInc (LP.counters s.lp[l]).discarded) ∧
        ((∀ buf, LP.asm s.lp[l] ≠ .assembling buf) → LP.asm t.lp[l] = LP.asm s.lp[l] ∧
          (LP.counters t.lp[l]).discarded = (LP.counters s.lp[l]).discarded))

/-- R120, R124: the RST flag of a frame received in a running state. Good sync with RST set: the set run
goes up by one, to 16 at most, and the clear run is 0; with RST clear the other way round; bad sync: both
are 0 and the partner's flag keeps its value. A good word with RST clear wakes a link in REST: own RST
clear, this frame the first of the clear run, the wake timer started, and the WAKE notices. No other
frame moves the link, and none of them is an event. -/
def Piece.RestFlagIsCounted : Prop :=
  ∀ (l : Link) (s : State) (w : Word) (payload : Vector Word 64),
    (LP.state s.lp[l]).running = true → LP.Settled s.lp[l] →
    let r : RestState := LP.rest s.lp[l]
    ∃ t, exec (.receivedFrame l w payload) s = .next t ∧ t.mail.reports = s.mail.reports ∧
      let stays : Prop := LP.state t.lp[l] = LP.state s.lp[l] ∧ LP.timers t.lp[l] = LP.timers s.lp[l] ∧
        t.mail.stateNotices = s.mail.stateNotices ∧ t.mail.viewNotices = s.mail.viewNotices
      (svcSync w ≠ some (LP.align s.lp[l]).expected →
        stays ∧ LP.rest t.lp[l] = { r with setRun := 0, clearRun := 0 }) ∧
      (svcSync w = some (LP.align s.lp[l]).expected →
        (svcRst w = true → stays ∧ LP.rest t.lp[l] =
          { r with partnerRst := true, setRun := min (r.setRun + 1) 16, clearRun := 0 }) ∧
        (svcRst w = false → LP.state s.lp[l] ≠ .rest → stays ∧ LP.rest t.lp[l] =
          { r with partnerRst := false, setRun := 0, clearRun := min (r.clearRun + 1) 16 }) ∧
        (svcRst w = false → LP.state s.lp[l] = .rest →
          LP.state t.lp[l] = .wake ∧ LP.rest t.lp[l] = ⟨false, false, 0, 1, r.used⟩ ∧
          LP.timers t.lp[l] = { LP.timers s.lp[l] with restHold := none, wake := some 0 } ∧
          t.mail.stateNotices = updAt s.mail.stateNotices l (· ++ [.wake]) ∧
          t.mail.viewNotices =
            updAt s.mail.viewNotices l (· ++ [⟨.wake, LP.slotCount s.lp[l]⟩])))

/-- What a message word leaves on a link: the assembly, and whether a code error and a discard have been
counted; nothing is handed over. -/
def AssemblyLeft (l : Link) (s t : State) (a : Assembly) (codeError discard : Bool) : Prop :=
  LP.asm t.lp[l] = a ∧
  LP.counters t.lp[l] = (fun c : Counters => { c with
    codeErrors := if codeError then satInc c.codeErrors else c.codeErrors
    discarded := if discard then satInc c.discarded else c.discarded }) (LP.counters s.lp[l]) ∧
  t.mail.lpToMgu = s.mail.lpToMgu ∧ t.mail.completions = s.mail.completions

/-- R83: the Link Port has handed the Management Unit a message, with the partner's MGR flag (R167), and
reported it as completed. -/
def MessageHandedOver (l : Link) (s t : State) (msg : List Byte) : Prop :=
  LP.asm t.lp[l] = .empty ∧ LP.counters t.lp[l] = LP.counters s.lp[l] ∧
  t.mail.lpToMgu = s.mail.lpToMgu ++
    [(l, .message msg (((LP.partner s.lp[l]).map fun r => r.base.mgr).getD false))] ∧
  t.mail.completions = updAt s.mail.completions l (· + 1)

/-- R78, R82 to R84, R167, R188: a good word in UP, REST or WAKE, by its code and the assembly's state: the
table of R82 row by row, an overflow past 406 octets (log entry 27), a run too short or with a wrong
check discarded, and a run with the right check handed over. -/
def Piece.MessageWordsAreAssembled : Prop :=
  ∀ (l : Link) (s : State) (w : Word) (payload : Vector Word 64),
    (LP.state s.lp[l]).running = true → LP.Settled s.lp[l] →
    svcSync w = some (LP.align s.lp[l]).expected →
    let o1 := svcOctet1 w
    let o2 := svcOctet2 w
    let a : Assembly := LP.asm s.lp[l]
    ∃ t, exec (.receivedFrame l w payload) s = .next t ∧ OnlyLink l s t ∧
      t.mail.reports = s.mail.reports ∧
      (svcCode w = none → AssemblyLeft l s t a true false) ∧
      (∀ c ∈ [ServiceCode.fill, .page, .train], svcCode w = some c → AssemblyLeft l s t a false false) ∧
      (svcCode w = some .msgFirst →
        (a = .empty ∨ a = .skipping → AssemblyLeft l s t (.assembling [o1, o2]) false false) ∧
        ∀ buf, a = .assembling buf → AssemblyLeft l s t (.assembling [o1, o2]) false true) ∧
      (svcCode w = some .msgMore →
        (a = .empty → AssemblyLeft l s t .empty true false) ∧
        (a = .skipping → AssemblyLeft l s t .skipping false false) ∧
        ∀ buf, a = .assembling buf →
          (buf.length + 2 ≤ 406 → AssemblyLeft l s t (.assembling (buf ++ [o1, o2])) false false) ∧
          (406 < buf.length + 2 → AssemblyLeft l s t .skipping false true)) ∧
      (∀ last ∈ [(ServiceCode.msgLast2, [o1, o2]), (.msgLast1, [o1])], svcCode w = some last.1 →
        (a = .empty → AssemblyLeft l s t .empty true false) ∧
        (a = .skipping → AssemblyLeft l s t .empty false false) ∧
        ∀ buf, a = .assembling buf →
          (406 < buf.length + last.2.length → AssemblyLeft l s t .skipping false true) ∧
          (buf.length + last.2.length ≤ 406 →
            (buf.length + last.2.length < 6 ∨ (∀ msg, buf ++ last.2 ≠ withCheck msg) →
              AssemblyLeft l s t .empty false true) ∧
            ∀ msg, 4 ≤ msg.length → buf ++ last.2 = withCheck msg → MessageHandedOver l s t msg)) ∧
      (svcCode w = some .msgAbort →
        (a = .empty ∨ a = .skipping → AssemblyLeft l s t .empty false false) ∧
        ∀ buf, a = .assembling buf → AssemblyLeft l s t .empty false true)

/-- R76, R80 to R84, R120, R124: a frame received in a running state, its payload, its RST flag and its
message word. -/
def Obligations.RunningFrameIsReceived : Prop :=
  Piece.RunningFrameIsPresented ∧ Piece.RestFlagIsCounted ∧ Piece.MessageWordsAreAssembled

/-- R67, R118, R119, R122, R124, R125: a use notice: one that repeats the held flag changes nothing. One
that sets it stops the rest hold timer and clears the own RST in UP, wakes the link in REST, and is
only held in any other state. One that clears it starts the rest hold timer from zero in UP when the
link may rest, and is only held in any other state. -/
def Piece.UseNoticeActs : Prop :=
  ∀ (l : Link) (s : State) (used : Bool) (rest : List Bool),
    s.mail.useNotices[l] = used :: rest → LP.Settled s.lp[l] →
    let taken := s.onMail fun m => { m with useNotices := updAt m.useNotices l fun _ => rest }
    ((LP.rest s.lp[l]).used = used → exec (.useNotice l) s = .next taken) ∧
    (used = true → (LP.rest s.lp[l]).used = false → LP.state s.lp[l] = .up →
      exec (.useNotice l) s = .next (taken.onLp l fun p =>
        { p with
          timers := { p.timers with restHold := none }
          rest := { p.rest with
            used := true, ownRst := false
            setRun := if p.rest.ownRst then 0 else p.rest.setRun } })) ∧
    (used = true → (LP.rest s.lp[l]).used = false → LP.state s.lp[l] = .rest →
      ∃ t, exec (.useNotice l) s = .next t ∧ OnlyLink l s t ∧ LP.state t.lp[l] = .wake ∧
        LP.rest t.lp[l] = { LP.rest s.lp[l] with used := true, ownRst := false, clearRun := 0 } ∧
        (LP.timers t.lp[l]).wake = some 0 ∧ LP.txq t.lp[l] = LP.txq s.lp[l] ∧
        t.mail = { taken.mail with
          stateNotices := updAt s.mail.stateNotices l (· ++ [.wake])
          viewNotices := updAt s.mail.viewNotices l (· ++ [⟨.wake, LP.slotCount s.lp[l]⟩]) }) ∧
    (used = false → (LP.rest s.lp[l]).used = true → LP.state s.lp[l] = .up →
      ∃ timer, exec (.useNotice l) s = .next (taken.onLp l fun p =>
        { p with
          timers := { p.timers with restHold := timer }
          rest := { p.rest with used := false } }) ∧
        (mayRest s.lp[l] → timer = some 0) ∧ (¬mayRest s.lp[l] → timer = none)) ∧
    ((LP.rest s.lp[l]).used ≠ used → LP.state s.lp[l] ≠ .up →
      (used = true → LP.state s.lp[l] ≠ .rest) →
      exec (.useNotice l) s = .next (taken.onLp l fun p =>
        { p with rest := { p.rest with used := used } }))

/-- R119 to R125: rest hold, rest entry, the use notice and the end of waking. -/
def Obligations.RestingAndWaking : Prop :=
  Piece.RestAndWakeMoves ∧ Piece.UseNoticeActs

/-- R73, R75, R77: a Link Port sends one frame: the next sync pattern, alternating, and as many payload
slots as the framing has; all-zero slots in DOWN, LISTEN, NEGOTIATE and REST; the training pattern in
TRAIN; in UP and WAKE the Frame Engine's frame, or all-zero slots when it handed the not-written mark
or a frame of another length. It is quiet in DISABLED and while held. -/
def Piece.LinkFrameIsSent : Prop :=
  ∀ (l : Link) (s : State), LP.Settled s.lp[l] →
    ∃ t, exec (.linkFrameTransmit l) s = .next t ∧ OnlyLink l s t ∧ t.mail = s.mail ∧
      LP.state t.lp[l] = LP.state s.lp[l] ∧ LP.txq t.lp[l] = LP.txq s.lp[l] ∧
      (LP.held s.lp[l] = true ∨ LP.state s.lp[l] = .disabled → LP.line t.lp[l] = none) ∧
      (LP.held s.lp[l] = false → LP.state s.lp[l] ≠ .disabled →
        ∃ f, LP.line t.lp[l] = some f ∧ svcSync f.service = some (LP.nextSync s.lp[l]) ∧
          LP.nextSync t.lp[l] = (LP.nextSync s.lp[l]).other ∧
          svcRst f.service = (LP.rest s.lp[l]).ownRst ∧ svcRdy f.service = LP.rdy s.lp[l] ∧
          f.payload.length = LP.framing s.lp[l] ∧
          (LP.state s.lp[l] ∈ [LinkState.down, .listen, .negotiate, .rest] →
            ∀ x ∈ f.payload, x = 0) ∧
          (LP.state s.lp[l] = .train →
            f.payload = (List.range (LP.framing s.lp[l])).map fun i =>
              slotWord (trainingWord (LP.nextSync s.lp[l]) i)) ∧
          (LP.state s.lp[l] ∈ [LinkState.up, .wake] →
            (∀ g, LP.txNow s.lp[l] = some g → g.length = LP.framing s.lp[l] →
              f.payload = g.map slotWord) ∧
            ((∀ g, LP.txNow s.lp[l] = some g → g.length ≠ LP.framing s.lp[l]) →
              ∀ x ∈ f.payload, x = 0)))

/-- R77, R86, R96, R104: the service word of a frame sent, and how what is being sent advances. In
NEGOTIATE a PAGE word carries the next quarter of the page of the round, the base page with the ACK
flag of the moment it starts, and the round goes on after quarter 3. In TRAIN the code is TRAIN. In
the running states the oldest message of the transmit list goes out two octets at a time, its last
octet alone when one is left. FILL is sent otherwise. -/
def Piece.ServiceWordIsSent : Prop :=
  ∀ (l : Link) (s : State), LP.Settled s.lp[l] → LP.held s.lp[l] = false →
    LP.state s.lp[l] ≠ .disabled →
    let p : LP := s.lp[l]
    ∃ (t : State) (f : LineFrame), exec (.linkFrameTransmit l) s = .next t ∧
      LP.line t.lp[l] = some f ∧
      let sends (code : ServiceCode) (quarter : Nat) (o1 o2 : Byte) : Prop :=
        svcCode f.service = some code ∧ svcQuarter f.service = quarter ∧
          svcOctet1 f.service = o1 ∧ svcOctet2 f.service = o2
      (p.state ∈ [LinkState.down, .listen] → sends .fill 0 0 0) ∧
      (p.state = .train → sends .train 0 0 0) ∧
      (p.state = .negotiate → ∀ (q : Nat) (page : List Byte), p.pageTx.quarter = q → q < 4 →
        page = (if q = 0 then startPage p.pageTx.pages p.pageTx.index p.pageRx.ownAck
          else p.pageTx.now) →
        sends .page q ((page[2 * q]?).getD 0) ((page[2 * q + 1]?).getD 0) ∧
        (q < 3 → LP.pageTx t.lp[l] = { p.pageTx with quarter := q + 1, now := page }) ∧
        (q = 3 → LP.pageTx t.lp[l] = { p.pageTx with
          quarter := 0
          now := page
          index := if p.pageTx.index + 1 < p.pageTx.pages.length then p.pageTx.index + 1 else 0 }) ∧
        (∀ i, q = 0 → p.pageTx.index = i → (i ≠ 0 ∨ p.pageRx.ownAck = false) →
          page = (p.pageTx.pages[i]?).getD []) ∧
        ∀ a b more, q = 0 → p.pageTx.index = 0 → p.pageRx.ownAck = true →
          p.pageTx.pages[0]? = some (a :: b :: more) → page = a :: (b ||| 0x20#8) :: more) ∧
      (p.state.running = true →
        (p.txq = [] → sends .fill 0 0 0 ∧ LP.txSent t.lp[l] = p.txSent) ∧
        ∀ m more left, p.txq = m :: more → m.octets.length = p.txSent + left →
          (left = 1 → sends .msgLast1 0 ((m.octets[p.txSent]?).getD 0) 0 ∧
            LP.txSent t.lp[l] = p.txSent + 1) ∧
          (2 ≤ left →
            sends (if p.txSent = 0 then .msgFirst else if left = 2 then .msgLast2 else .msgMore) 0
              ((m.octets[p.txSent]?).getD 0) ((m.octets[p.txSent + 1]?).getD 0) ∧
            LP.txSent t.lp[l] = p.txSent + 2))

/-- R86: a message whose last octet has been sent leaves its place, and the Management Unit and the Event
Unit are told. -/
def Piece.SentMessageLeavesItsPlace : Prop :=
  ∀ (l : Link) (s : State) (m : TxMsg) (rest : List TxMsg),
    LP.txq s.lp[l] = m :: rest → m.octets.length ≤ LP.txSent s.lp[l] →
    ∃ t, exec (.responseSent l) s = .next t ∧
      t.lp = updAt s.lp l (fun p => { p with txq := rest, txSent := 0 }) ∧
      t.mail = { s.mail with
        lpToMgu := s.mail.lpToMgu ++ [(l, .sent m.place m.ref)]
        completions := updAt s.mail.completions l (· + 1) } ∧
      t = { s with lp := t.lp, mail := t.mail }

/-- R73, R75, R77, R86, R96, R104: what a Link Port sends. -/
def Obligations.FramesAndMessagesAreSent : Prop :=
  Piece.LinkFrameIsSent ∧ Piece.ServiceWordIsSent ∧ Piece.SentMessageLeavesItsPlace

/-- R81, R112, R166, R174: a Link Port counts a discard the Management Unit reports, and carries out a
held move when told: to DISABLED when enable is 0, else to LISTEN. -/
def Piece.ManagementOrdersAreCarriedOut : Prop :=
  ∀ (l : Link) (s : State), LP.Settled s.lp[l] →
    (0 < s.mail.discardOrders[l] →
      exec (.messageDiscardReport l) s = .next ((s.onMail fun m =>
        { m with discardOrders := updAt m.discardOrders l (· - 1) }).onLp l fun p =>
          { p with counters := { p.counters with discarded := satInc p.counters.discarded } })) ∧
    (0 < s.mail.moveOrders[l] → LP.heldMove s.lp[l] = true → (LP.state s.lp[l]).running = true →
      ∃ t, exec (.heldMove l) s = .next t ∧ OnlyLink l s t ∧ LP.heldMove t.lp[l] = false ∧
        LP.state t.lp[l] = (if (LP.cfg s.lp[l]).enable then .listen else .disabled) ∧
        LP.txq t.lp[l] = [] ∧ LP.cfg t.lp[l] = LP.cfg s.lp[l] ∧
        t.mail.reports = s.mail.reports ∧
        t.mail.lossNotices[l] = s.mail.lossNotices[l] + 1 ∧
        t.mail.viewNotices[l] = s.mail.viewNotices[l] ++ [⟨.out, 0⟩] ∧
        t.mail.moveOrders = updAt s.mail.moveOrders l (· - 1)) ∧
    (0 < s.mail.moveOrders[l] → LP.heldMove s.lp[l] = false →
      exec (.heldMove l) s = .next (s.onMail fun m =>
        { m with moveOrders := updAt m.moveOrders l (· - 1) }))

/-- R88, R117, R128: a Link Port that takes RESET DEVICE goes to DOWN with its configuration, counters,
advertisement and records at their hardware reset values, its alignment, assembly, transmit list, page
and training state and transmit frames empty, its rest flags and runs clear and every timer but the
restore timer stopped, with no LINK_DOWN or LINK_LOST event, and acknowledges when the Management Unit
waits for it. The restore timer of a link already in DOWN runs on (log entry 21); the used flag is left
to the Frame Engine's notice; a receive frame already presented stays (R55, log entry 11). -/
def Obligations.LinkPortReset : Prop :=
  ∀ (l : Link) (s s' : State) (o : ResetOrder),
    LP.Settled s.lp[l] → o.block = .lp l → HandedReset o s s' →
    ∃ t, exec (.lpReset l) s = .next t ∧ OnlyLink l s t ∧
      LP.state t.lp[l] = .down ∧ LP.cfg t.lp[l] = ⟨true, .g64, 3, 4, 0⟩ ∧
      LP.advert t.lp[l] = ⟨true, true, true⟩ ∧ LP.removed t.lp[l] = ⟨false, false, false⟩ ∧
      LP.attempts t.lp[l] = 0 ∧ LP.agreed t.lp[l] = none ∧ LP.partner t.lp[l] = none ∧
      LP.counters t.lp[l] = ⟨0, 0, 0, 0, 0, 0⟩ ∧ LP.negTimeouts t.lp[l] = 0 ∧
      LP.heldMove t.lp[l] = false ∧
      LP.rest t.lp[l] = ⟨false, false, 0, 0, (LP.rest s.lp[l]).used⟩ ∧
      (LP.align t.lp[l]).acqRun = 0 ∧ (LP.align t.lp[l]).prev = none ∧
      (LP.align t.lp[l]).badRun = 0 ∧ LP.framing t.lp[l] = 16 ∧ LP.asm t.lp[l] = .empty ∧
      LP.txq t.lp[l] = [] ∧ LP.rdy t.lp[l] = false ∧ LP.train t.lp[l] = ⟨0, none⟩ ∧
      LP.pageRx t.lp[l] = PageRx.empty ∧ LP.pageTx t.lp[l] = PageTx.empty ∧
      LP.rx t.lp[l] = LP.rx s.lp[l] ∧ LP.txNow t.lp[l] = none ∧ LP.txNext t.lp[l] = none ∧
      LP.timers t.lp[l] = ⟨none,
        if LP.state s.lp[l] = .down then (LP.timers s.lp[l]).restore else some 0, none, none⟩ ∧
      t.mail.reports = s.mail.reports ∧
      t.mail.resets = s'.mail.resets ∧
      t.mail.acks = (if o.ack then s.mail.acks ++ [.lp l] else s.mail.acks) ∧
      ((LP.state s.lp[l]).running = true →
        t.mail.lossNotices[l] = s.mail.lossNotices[l] + 1 ∧
        t.mail.viewNotices[l] = s.mail.viewNotices[l] ++ [⟨.out, 0⟩])

/-- R115, R116, R186, R202: LINK STATUS answers the 26 octets of the link status record, PARTNER READ the
partner record or NOT_FOUND, and a counter query the six counters, cleared when asked. -/
def Piece.LinkReadsAnswer : Prop :=
  ∀ (l : Link) (s : State), LP.Settled s.lp[l] →
    (∀ s' req, Handed (.lp l) req s s' →
      (req.kind = .linkStatus →
        exec (.linkStatus l) s =
          .next (s'.answer (.lp l) req .ok (LP.statusOctets s.lp[l])) ∧
        (LP.statusOctets s.lp[l]).length = 26) ∧
      (req.kind = .partnerRead →
        (LP.partner s.lp[l] = none →
          exec (.partnerRead l) s = .next (s'.answer (.lp l) req .notFound [])) ∧
        ∀ r, LP.partner s.lp[l] = some r →
          exec (.partnerRead l) s = .next (s'.answer (.lp l) req .ok r.octets))) ∧
    ∀ clear, s.mail.counterQuery = some (l, clear) →
      exec (.counterQuery l) s = .next ((s.onMail fun m =>
        { m with counterQuery := none, counterAnswer := some (l, LP.counters s.lp[l]) }).onLp l
          fun p => { p with counters := if clear then ⟨0, 0, 0, 0, 0, 0⟩ else p.counters })

/-- R81, R112, R115, R116, R186: the reads of a Link Port and the orders of the Management Unit. -/
def Obligations.LinkReadsAndManagementOrders : Prop :=
  Piece.ManagementOrdersAreCarriedOut ∧ Piece.LinkReadsAnswer

/-- R112: a move of a link that a request asks for is held: the link is running, and either the request
came over it or a move is held already, which the new one joins. -/
def moveIsHeld (p : LP) (l : Link) (req : Req) : Prop :=
  p.state.running = true ∧ (req.ref.link = l ∨ p.heldMove = true)

/-- R110, R111, R112, R127: LINK SET. The first field out of range is answered BAD_FIELD and nothing
changes. With every field in range the five values are in force, the attempt counter is 0, the result
is OK, and the link moves by the table, or holds the move; only the response of the requesting link
carries the held move. A new rest hold acts at once in UP by the table of R127, and a restore time
already spent in DOWN restores the advertisement at once. -/
def Piece.LinkSetConfigures : Prop :=
  ∀ (l : Link) (s s' : State) (req : Req) (x e g h t r1 r2 : Byte),
    LP.Settled s.lp[l] →
    Handed (.lp l) req s s' → req.kind = .linkSet → req.body = [x, e, g, h, t, r1, r2] →
    (1 < e.toNat → exec (.linkSet l) s = .next (s'.badField (.lp l) req 2)) ∧
    (e.toNat ≤ 1 → 2 < g.toNat → exec (.linkSet l) s = .next (s'.badField (.lp l) req 3)) ∧
    (e.toNat ≤ 1 → g.toNat ≤ 2 → h.toNat = 0 ∨ 15 < h.toNat →
      exec (.linkSet l) s = .next (s'.badField (.lp l) req 4)) ∧
    (e.toNat ≤ 1 → g.toNat ≤ 2 → 1 ≤ h.toNat → h.toNat ≤ 15 → t.toNat = 0 →
      exec (.linkSet l) s = .next (s'.badField (.lp l) req 5)) ∧
    (e.toNat ≤ 1 → g.toNat ≤ 2 → 1 ≤ h.toNat → h.toNat ≤ 15 → 1 ≤ t.toNat →
      60000 < r1.toNat * 256 + r2.toNat → exec (.linkSet l) s = .next (s'.badField (.lp l) req 6)) ∧
    ∀ (grade : Grade) (hold : Nat), Grade.ofCode g.toNat = some grade → e.toNat ≤ 1 → 1 ≤ h.toNat →
      h.toNat ≤ 15 → 1 ≤ t.toNat → hold = r1.toNat * 256 + r2.toNat → hold ≤ 60000 →
      ∃ (u : State) (d : Option Deferred), exec (.linkSet l) s = .next u ∧ OnlyLink l s u ∧
        LP.cfg u.lp[l] = ⟨e.toNat == 1, grade, h.toNat, t.toNat, hold⟩ ∧
        LP.attempts u.lp[l] = 0 ∧
        (grade ≠ (LP.cfg s.lp[l]).maxGrade → LP.advert u.lp[l] = Grades.upTo grade ∧
          LP.removed u.lp[l] = ⟨false, false, false⟩) ∧
        u.mail.results = s.mail.results ++ [(.lp l, ⟨req.ref, .ok, [BitVec.ofNat 8 l.val], d⟩)] ∧
        (let st := LP.state s.lp[l]
        let new := linkSetMove (LP.cfg u.lp[l]) st (decide ((LP.cfg s.lp[l]).maxGrade ≠ grade))
        (¬moveIsHeld s.lp[l] l req → d = none ∧ LP.state u.lp[l] = new.getD st) ∧
        (moveIsHeld s.lp[l] l req → LP.state u.lp[l] = st ∧
          LP.heldMove u.lp[l] = (LP.heldMove s.lp[l] || new.isSome) ∧
          d = if req.ref.link = l ∧ new.isSome = true then some .heldMove else none)) ∧
        (LP.state s.lp[l] = .up → LP.state u.lp[l] = .up →
          (hold = 0 → (LP.timers u.lp[l]).restHold = none ∧
            LP.rest u.lp[l] = { LP.rest s.lp[l] with
              ownRst := false
              setRun := if (LP.rest s.lp[l]).ownRst then 0 else (LP.rest s.lp[l]).setRun }) ∧
          (0 < hold → LP.rest u.lp[l] = LP.rest s.lp[l] ∧
            ((LP.rest s.lp[l]).ownRst = true ∨ hold = (LP.cfg s.lp[l]).restHold →
              (LP.timers u.lp[l]).restHold = (LP.timers s.lp[l]).restHold) ∧
            ((LP.rest s.lp[l]).ownRst = false → hold ≠ (LP.cfg s.lp[l]).restHold →
              (LP.timers u.lp[l]).restHold =
                if (LP.rest s.lp[l]).used = false ∧
                  ((LP.partner s.lp[l]).map fun r => r.base.rcap) = some true then some 0
                else none))) ∧
        (∀ k, LP.state s.lp[l] = .down → (LP.timers s.lp[l]).restore = some k →
          (t.toNat * 4000 ≤ k → LP.advert u.lp[l] = Grades.upTo grade ∧
            LP.removed u.lp[l] = ⟨false, false, false⟩ ∧ (LP.timers u.lp[l]).restore = none ∧
            u.mail.reports = s.mail.reports ++
              if LP.advert s.lp[l] = Grades.upTo grade then []
              else [(.lp l, ⟨.advertRestored, l.val, grade.slots, none⟩)]) ∧
          (k < t.toNat * 4000 → grade = (LP.cfg s.lp[l]).maxGrade →
            LP.advert u.lp[l] = LP.advert s.lp[l] ∧ LP.removed u.lp[l] = LP.removed s.lp[l] ∧
            u.mail.reports = s.mail.reports))

/-- R112, R113: LINK RENEGOTIATE restores the advertisement, clears the attempt counter, answers OK, and
moves a link beyond LISTEN to LISTEN, or holds the move. -/
def Piece.LinkRenegotiates : Prop :=
  ∀ (l : Link) (s s' : State) (req : Req),
    LP.Settled s.lp[l] → Handed (.lp l) req s s' → req.kind = .linkRenegotiate →
    ∃ (u : State) (d : Option Deferred), exec (.linkRenegotiate l) s = .next u ∧ OnlyLink l s u ∧
      LP.advert u.lp[l] = Grades.upTo (LP.cfg s.lp[l]).maxGrade ∧
      LP.removed u.lp[l] = ⟨false, false, false⟩ ∧ LP.attempts u.lp[l] = 0 ∧
      u.mail.results = s.mail.results ++ [(.lp l, ⟨req.ref, .ok, [BitVec.ofNat 8 l.val], d⟩)] ∧
      ((LP.state s.lp[l]).beyondListen = false → d = none ∧ LP.state u.lp[l] = LP.state s.lp[l]) ∧
      ((LP.state s.lp[l]).beyondListen = true → ¬moveIsHeld s.lp[l] l req →
        d = none ∧ LP.state u.lp[l] = .listen) ∧
      (moveIsHeld s.lp[l] l req →
        d = (if req.ref.link = l then some .heldMove else none) ∧
        LP.state u.lp[l] = LP.state s.lp[l] ∧ LP.heldMove u.lp[l] = true)

/-- R110 to R113, R127: the two requests that change a link. -/
def Obligations.LinkSetAndRenegotiate : Prop :=
  Piece.LinkSetConfigures ∧ Piece.LinkRenegotiates

/-! ## Frame Engine -/

/-- R50, R52, R54, R66, R67: a frame boundary adopts the oldest queued table whole, with its cost, the
used flags, a use notice to every link, the adoption notice and COMMIT_ADOPTED; with an empty queue
the records stay. It increments the frame counter and notifies the Event Unit in both cases. -/
def Piece.BoundaryAdoptsOneTable : Prop :=
  ∀ s : State, ∃ t, exec .feFrameBoundary s = .next t ∧
    t.fe.counter = s.fe.counter + 1 ∧ t.fe.view = s.fe.view ∧ t.fe.status = s.fe.status ∧
    t.mail.counterNotices = s.mail.counterNotices ++ [s.fe.counter + 1] ∧
    (s.fe.queue = [] → recordsOf t.fe.active = recordsOf s.fe.active ∧ t.fe.cost = s.fe.cost ∧
      t.fe.queue = [] ∧ t.fe.used = s.fe.used ∧ t.mail.fates = s.mail.fates ∧
      t.mail.reports = s.mail.reports ∧ t.mail.useNotices = s.mail.useNotices) ∧
    ∀ h rest, s.fe.queue = h :: rest →
      recordsOf t.fe.active = h.table ∧ t.fe.cost = h.cost ∧ t.fe.queue = rest ∧
      t.mail.fates = s.mail.fates ++ [⟨h.number, some s.fe.counter⟩] ∧
      t.mail.reports = s.mail.reports ++ [(.fe, ⟨.commitAdopted, h.owner.val,
        s.fe.counter.toNat % 65536, some s.fe.counter⟩)] ∧
      ∀ l : Link,
        (t.fe.used[l] = true ↔ ∃ e ∈ h.table, e.2.onLink l = true) ∧
        t.mail.useNotices[l] = s.mail.useNotices[l] ++ [t.fe.used[l]]

/-- R53, R54: the terms and the saturation counter a newly adopted MIX entry starts with, against the old
entry of its position: a term that matches the old term of its index and source keeps the current
code, any other stands at its target; the counter is carried for the same destination alone. -/
structure StartsFrom (old : Option ActiveEntry) (d : Dest) (us : List LiveTerm) (n : Nat) : Prop where
  matched : ∀ (i : Nat) (u : LiveTerm), us[i]? = some u →
    ∀ (d0 : Dest) (os : List LiveTerm) (n0 : Nat) (r0 : Reach) (o : LiveTerm),
      old = some (.mix d0 os n0 r0) → os[i]? = some o → o.source = u.source → u.current = o.current
  fresh : ∀ (i : Nat) (u : LiveTerm), us[i]? = some u →
    (∀ (d0 : Dest) (os : List LiveTerm) (n0 : Nat) (r0 : Reach) (o : LiveTerm),
      old = some (.mix d0 os n0 r0) → os[i]? = some o → o.source ≠ u.source) → u.current = u.target
  carried : ∀ os n0 r0, old = some (.mix d os n0 r0) → n = n0
  started : (∀ os n0 r0, old ≠ some (.mix d os n0 r0)) → n = 0

/-- R60: the sum of a MIX entry's terms, shifted, lies outside the sample range in a frame in which its
destination is in reach. -/
def isSaturated (s : State) (d : Dest) (ts : List LiveTerm) : Prop :=
  d.inReach s.fe.view = true ∧
    (8388607 < mixShifted s.readSource ts ∨ mixShifted s.readSource ts < -8388608)

/-- R16, R52 to R54, R60, R64: what an adopted entry is after the boundary that adopts it. A SPAN entry has
its reach decided. A MIX entry started from its terms' codes at adoption: its saturation counter has
gone up by one, to 65,535 at most, exactly when that frame was saturated, and then every term has
taken its first glide step. -/
def Piece.AdoptionMatchesTerms : Prop :=
  ∀ (s t : State) (h : HandOff) (rest : List HandOff) (pos : Nat),
    s.fe.queue = h :: rest → RouteTable h.table → exec .feFrameBoundary s = .next t →
    (∀ sp, (pos, Entry.span sp) ∈ h.table →
      Table.get? t.fe.active pos = some (.span sp (spanReach s.fe.view sp))) ∧
    ∀ d ts, (pos, Entry.mix d ts) ∈ h.table → ∃ (us : List LiveTerm) (n m : Nat),
      (us.map fun u => (⟨u.source, u.target⟩ : Term)) = ts ∧
      StartsFrom (Table.get? s.fe.active pos) d us n ∧
      (isSaturated s d us → m = min (n + 1) 65535) ∧ (¬isSaturated s d us → m = n) ∧
      Table.get? t.fe.active pos = some (.mix d
        (us.map fun u => ⟨u.source, glideStep u.current u.target, u.target⟩) m
        (mixReach s.fe.view d (ts.map Term.source)))

/-- R50, R52 to R54: adoption at a frame boundary, of the table and of its terms. -/
def Obligations.BoundaryAdopts : Prop :=
  Piece.BoundaryAdoptsOneTable ∧ Piece.AdoptionMatchesTerms

/-- R50, R52 to R54: the table a frame boundary computes with: the active table, or, with a table queued,
the oldest one, its MIX entries started from the old ones of their positions. -/
def TableInForce (s : State) (table : Table ActiveEntry) : Prop :=
  (s.fe.queue = [] → table = s.fe.active) ∧
  ∀ h rest, s.fe.queue = h :: rest → recordsOf table = h.table ∧
    ∀ pos d us n r, (pos, ActiveEntry.mix d us n r) ∈ table →
      StartsFrom (Table.get? s.fe.active pos) d us n

/-- R11, R50, R56 to R63: at a boundary of a sound state, with or without a table to adopt: a link whose
view is UP or WAKE is handed one slot for each slot of its view (`txNext`, log entry 11). For payload
slots 1 to 64, a MIX entry's slot carries the limited sum of its terms, at their codes before the
glide, shifted right by 20 bits with the status of R61; a span's slot that no MIX entry covers carries
its source's word, or 0 / IDLE when the source is out of reach; an uncovered slot carries 0 / IDLE.
Any other link is handed the not-written mark. Each recorder is handed one word. A player's word not
posted in time is a free value (log entry 7). -/
def Piece.BoundaryProducesTheSlots : Prop :=
  ∀ s t : State, s.RoutingSound → exec .feFrameBoundary s = .next t →
    ∃ table, TableInForce s table ∧
    (∀ l : Link, s.fe.view[l].cls ≠ .up → s.fe.view[l].cls ≠ .wake → LP.txNext t.lp[l] = none) ∧
    (∀ l : Link, s.fe.view[l].cls = .up ∨ s.fe.view[l].cls = .wake →
      ∃ f, LP.txNext t.lp[l] = some f ∧ f.length = s.fe.view[l].count ∧
      ∀ slot, 1 ≤ slot → slot ≤ 64 → slot ≤ s.fe.view[l].count →
        (∀ pos ts n r, (pos, ActiveEntry.mix (.link l slot) ts n r) ∈ table →
          f[slot - 1]? = some (mixResult s.readSource ts)) ∧
        ((∀ e ∈ table, e.2.entry.mixCovers (.link l slot) = false) →
          (∀ pos sp r, (pos, ActiveEntry.span sp r) ∈ table → sp.covers (.link l slot) = true →
            f[slot - 1]? = some
              (if slotInReach s.fe.view sp.srcLink (sp.srcFirst + (slot - sp.dstFirst)) = true then
                s.readSource (.link sp.srcLink (sp.srcFirst + (slot - sp.dstFirst)))
              else ⟨0, .idle⟩)) ∧
          ((∀ e ∈ table, e.2.entry.spanCovers (.link l slot) = false) →
            f[slot - 1]? = some ⟨0, .idle⟩))) ∧
    ∀ r : Rec, ∃ w, t.mail.inputWords[r] = s.mail.inputWords[r] ++ [w] ∧
      (∀ pos ts n x, (pos, ActiveEntry.mix (.recorder r) ts n x) ∈ table →
        w = mixResult s.readSource ts) ∧
      ((∀ e ∈ table, e.2.entry.mixCovers (.recorder r) = false) → w = ⟨0, .idle⟩)

/-- R59 to R61: the result of a weighted sum: the exact sum of sample times factor, over 2^20 and rounded
toward minus infinity, limited to the sample range; SUBST when any term is, else IDLE when all are,
else LIVE. A single term at code 192 gives its sample back. -/
def Piece.WeightedSumIsExact : Prop :=
  ∀ (read : Source → Slot) (ts : List LiveTerm),
    (∀ q : Int,
      q = Int.fdiv
        (ts.map fun x => (read x.source).sample.toInt * (gainFactor x.current : Int)).sum 1048576 →
      (mixResult read ts).sample.toInt =
        if 8388607 < q then 8388607 else if q < -8388608 then -8388608 else q) ∧
    ((mixResult read ts).status = .subst ↔ ∃ x ∈ ts, (read x.source).status = .subst) ∧
    ((mixResult read ts).status = .idle ↔ ∀ x ∈ ts, (read x.source).status = .idle) ∧
    (∀ src target, (mixResult read [⟨src, 192, target⟩]).sample = (read src).sample)

/-- R56 to R63: what a frame boundary writes to every destination. -/
def Obligations.BoundaryComputesExactSums : Prop :=
  Piece.BoundaryProducesTheSlots ∧ Piece.WeightedSumIsExact

/-- R60, R64: with no table to adopt, every term of every active MIX entry steps up to 4 codes toward its
target and nothing else of the entry changes but its saturation counter, which goes up by one, to
65,535 at most, exactly when its destination is in reach and its sum outside the sample range. -/
def Piece.BoundaryGlidesAndCounts : Prop :=
  ∀ (s t : State) (pos : Nat), s.fe.queue = [] → exec .feFrameBoundary s = .next t →
    (∀ sp r, Table.get? s.fe.active pos = some (.span sp r) →
      Table.get? t.fe.active pos = some (.span sp r)) ∧
    ∀ d ts n r, Table.get? s.fe.active pos = some (.mix d ts n r) →
      Table.get? t.fe.active pos = some (.mix d
        (ts.map fun x => ⟨x.source, glideStep x.current x.target, x.target⟩)
        (if d.inReach s.fe.view = true ∧
            (8388607 < mixShifted s.readSource ts ∨ mixShifted s.readSource ts < -8388608)
          then satInc n else n) r)

/-- R64: a glide of `d` codes takes `d / 4` steps, rounded up, and never jumps by more than 4; at its
target a term stays. -/
def Piece.GlideReachesItsTarget : Prop :=
  ∀ current target : Nat,
    Nat.repeat (fun c => glideStep c target)
      ((max current target - min current target + 3) / 4) current = target ∧
    (∀ k < (max current target - min current target + 3) / 4,
      Nat.repeat (fun c => glideStep c target) k current ≠ target) ∧
    glideStep target target = target ∧
    glideStep current target ≤ current + 4 ∧ current ≤ glideStep current target + 4

/-- R60, R64: saturation counters and glides at a frame boundary. -/
def Obligations.BoundaryGlides : Prop :=
  Piece.BoundaryGlidesAndCounts ∧ Piece.GlideReachesItsTarget

/-- R10, R14, R51: a hand-off joins the end of the queue; a link-view notice is written at once, and a
change of slot count decides again the reach status of the entries on that link and no other. -/
def Piece.HandOffsAndViewsAreTaken : Prop :=
  ∀ s : State,
    (∀ h rest, s.mail.handOffs = h :: rest →
      exec .handOff s = .next
        { s with fe := { s.fe with queue := s.fe.queue ++ [h] }
                 mail := { s.mail with handOffs := rest } }) ∧
    ∀ (l : Link) (v : View) (rest : List View), s.mail.viewNotices[l] = v :: rest →
      ∃ t, exec (.linkViewNotice l) s = .next t ∧
        t.fe = { s.fe with view := t.fe.view, active := t.fe.active } ∧
        t.fe.view[l] = v ∧ (∀ l' : Link, l' ≠ l → t.fe.view[l'] = s.fe.view[l']) ∧
        t.mail = { s.mail with viewNotices := updAt s.mail.viewNotices l fun _ => rest } ∧
        (s.fe.view[l].count = v.count → t.fe.active = s.fe.active) ∧
        ∀ pos e, Table.get? s.fe.active pos = some e →
          ∃ e', Table.get? t.fe.active pos = some e' ∧ e'.entry = e.entry ∧ e'.sat = e.sat ∧
            (e.entry.onLink l = false → e' = e) ∧
            (s.fe.view[l].count ≠ v.count → e.entry.onLink l = true →
              e'.reach = e.entry.reach t.fe.view)

/-- R23, R26, R40, R47: the Frame Engine answers the transaction of the Route Edit Unit from the state of
that moment: the records of the active table, the link views, or a gain adjustment, which sets the
target of one term and leaves its current code, or finds no such term. -/
def Piece.TransactionsAreAnswered : Prop :=
  ∀ s : State,
    (s.mail.reuAsk = some .copy →
      exec .activeTableCopy s = .next { s with
        mail := { s.mail with reuAsk := none, feAnswer := some (.copy (recordsOf s.fe.active)) } }) ∧
    (s.mail.reuAsk = some .snapshot →
      exec .linkViewSnapshot s = .next { s with
        mail := { s.mail with reuAsk := none, feAnswer := some (.snapshot s.fe.view) } }) ∧
    ∀ pos term code, s.mail.reuAsk = some (.gain pos term code) → 1 ≤ term →
      (∀ d ts n r, Table.get? s.fe.active pos = some (.mix d ts n r) → term ≤ ts.length →
        ∃ t, exec .gainAdjustApply s = .next t ∧ OnlyFe s t ∧
          t.fe = { s.fe with active := t.fe.active } ∧
          t.mail = { s.mail with reuAsk := none, feAnswer := some (.gain true) } ∧
          (∃ us, Table.get? t.fe.active pos = some (.mix d us n r) ∧ us.length = ts.length ∧
            ∀ i x, ts[i]? = some x →
              us[i]? = some (if i + 1 = term then { x with target := code } else x)) ∧
          (Table.sorted s.fe.active = true → ∀ p, p ≠ pos →
            Table.get? t.fe.active p = Table.get? s.fe.active p)) ∧
      ((∀ d ts n r, Table.get? s.fe.active pos = some (.mix d ts n r) → ts.length < term) →
        exec .gainAdjustApply s = .next { s with
          mail := { s.mail with reuAsk := none, feAnswer := some (.gain false) } })

/-- R10, R14, R26, R47, R51: what the Frame Engine takes between boundaries. -/
def Obligations.EngineTakesNoticesAndTransactions : Prop :=
  Piece.HandOffsAndViewsAreTaken ∧ Piece.TransactionsAreAnswered

/-- R17, R19, R20, R202: reads of the active table: BAD_FIELD above 511, NOT_FOUND for an empty position,
else the record, its reach, and for a MIX entry its counter and codes; the summary with map, entry
count and active cost. -/
def Piece.ActiveTableIsRead : Prop :=
  ∀ (s s' : State) (req : Req), Handed .fe req s s' →
    (req.kind = .entryRead →
      (511 < field16 req.body 1 → exec .entryReadActive s = .next (s'.badField .fe req 2)) ∧
      (field16 req.body 1 ≤ 511 →
        (Table.get? s.fe.active (field16 req.body 1) = none →
          exec .entryReadActive s = .next (s'.answer .fe req .notFound [])) ∧
        (∀ sp r, Table.get? s.fe.active (field16 req.body 1) = some (.span sp r) →
          exec .entryReadActive s =
            .next (s'.answer .fe req .ok ((Entry.span sp).octets ++ u8 r.code))) ∧
        ∀ d ts n r, Table.get? s.fe.active (field16 req.body 1) = some (.mix d ts n r) →
          exec .entryReadActive s = .next (s'.answer .fe req .ok
            ((Entry.mix d (ts.map fun x => ⟨x.source, x.target⟩)).octets ++ u8 r.code ++ u16 n ++
              ts.flatMap fun x => u8 x.current ++ u8 x.target)))) ∧
    (req.kind = .tableSummary →
      exec .tableSummaryActive s = .next (s'.answer .fe req .ok
        (occupancyMap s.fe.active ++ u16 s.fe.active.length ++ u16 s.fe.cost)))

/-- R69, R70: ENGINE STATUS: the Frame Engine keeps its own fields as they stand and asks for the claim;
the Route Edit Unit answers owner and pending flag; the Frame Engine then answers the oldest request. -/
def Piece.EngineStatusIsAnswered : Prop :=
  ∀ s : State,
    (∀ s' req, Handed .fe req s s' → req.kind = .engineStatus →
      ∃ w : StatusWait, w.req = req ∧ w.counter = s.fe.counter ∧ w.count = s.fe.active.length ∧
        w.cost = s.fe.cost ∧ w.parts = (s.fe.active.filter fun e => e.2.reach == .part).length ∧
        w.nones = (s.fe.active.filter fun e => e.2.reach == .none).length ∧
        w.satSum = min (s.fe.active.map fun e => e.2.sat).sum 4294967295 ∧
        exec .engineStatus s = .next { s with
          fe := { s.fe with status := s.fe.status ++ [w] }
          mail := { s'.mail with claimQueries := s.mail.claimQueries + 1 } }) ∧
    (∀ n, s.mail.claimQueries = n + 1 →
      (s.reu.claim = none → exec .claimQuery s = .next { s with mail := { s.mail with
        claimQueries := n, claimAnswers := s.mail.claimAnswers ++ [(none, false)] } }) ∧
      ∀ c, s.reu.claim = some c → ∃ pend : Bool, (pend = true ↔ c.phase = .pending) ∧
        exec .claimQuery s = .next { s with mail := { s.mail with
          claimQueries := n, claimAnswers := s.mail.claimAnswers ++ [(some c.owner, pend)] } }) ∧
    ∀ w ws a as, s.fe.status = w :: ws → s.mail.claimAnswers = a :: as →
      exec .claimAnswer s = .next (State.answer
        { s with fe := { s.fe with status := ws }, mail := { s.mail with claimAnswers := as } }
        .fe w.req .ok
        (u32 w.counter.toNat ++ u16 w.count ++ u16 w.cost ++
          (match a.1 with | some l => [BitVec.ofNat 8 l.val] | none => [8]) ++
          [if a.2 then 1 else 0] ++ u16 w.parts ++ u16 w.nones ++ u32 w.satSum))

/-- R17, R19, R20, R69, R70: reads of the active table and ENGINE STATUS. -/
def Obligations.EngineReadsAnswer : Prop :=
  Piece.ActiveTableIsRead ∧ Piece.EngineStatusIsAnswered

/-- R46, R51, R66, R71: a reset empties the active table and the hand-off queue, a discard notice for
each queued table, oldest first, clears every used flag with a notice to every link, and
acknowledges; RESET DEVICE alone sets the frame counter to 0. The link views stay. -/
def Piece.FrameEngineReset : Prop :=
  ∀ (s s' : State) (o : ResetOrder), o.block = .fe → o.ack = true → HandedReset o s s' →
    ∃ t, exec .feReset s = .next t ∧ t.fe.active = [] ∧ t.fe.cost = 0 ∧ t.fe.queue = [] ∧
      t.fe.view = s.fe.view ∧ t.fe.status = s.fe.status ∧
      (∀ l : Link, t.fe.used[l] = false ∧
        t.mail.useNotices[l] = s.mail.useNotices[l] ++ [false]) ∧
      t.mail.fates = s.mail.fates ++ s.fe.queue.map (fun h => ⟨h.number, none⟩) ∧
      t.mail.acks = s.mail.acks ++ [.fe] ∧ t.mail.resets = s'.mail.resets ∧
      (o.scope = .routing → t.fe.counter = s.fe.counter ∧
        t.mail.counterNotices = s.mail.counterNotices) ∧
      (o.scope = .device → t.fe.counter = 0 ∧
        t.mail.counterNotices = s.mail.counterNotices ++ [0])

/-! ## Route Edit Unit -/

/-- R28: the claim gate, for each owner-only request: NOT_OWNER without a claim, OWNED with the owner's
number against another link's claim, PENDING for the owner of a PENDING claim (but not for the two
reads); a refusal changes nothing else. -/
def Piece.ClaimGateRefuses : Prop :=
  ∀ (s s' : State) (req : Req), Handed .reu req s s' → s.reu.txn = none →
    ∀ ck ∈ [(Instr.entryPut, RequestKind.entryPut), (.entryDelete, .entryDelete),
        (.tableCheck, .tableCheck), (.tableCommit, .tableCommit), (.editAbandon, .editAbandon),
        (.entryReadStaging, .entryRead), (.tableSummaryStaging, .tableSummary)],
      req.kind = ck.2 →
      (s.reu.claim = none → exec ck.1 s = .next (s'.answer .reu req .notOwner [])) ∧
      ∀ c, s.reu.claim = some c →
        (c.owner ≠ req.ref.link →
          exec ck.1 s = .next (s'.answer .reu req .owned [BitVec.ofNat 8 c.owner.val])) ∧
        (c.owner = req.ref.link → c.phase = .pending → ck.2 ≠ .entryRead → ck.2 ≠ .tableSummary →
          exec ck.1 s = .next (s'.answer .reu req .pending []))

/-- R26, R27: EDIT OPEN: BAD_FIELD 1 for a hold time outside 1 to 60, OWNED, PENDING, or the copy of the
active table is asked for; the answer opens the claim with it, no position touched and the hold timer
at its start (log entry 15: there, and not when the request is taken), or is dropped with ABORTED. -/
def Piece.EditOpenTakesTheClaim : Prop :=
  ∀ s : State,
    (∀ s' req, Handed .reu req s s' → s.reu.txn = none → req.kind = .editOpen →
      (octAt req.body 0 = 0 ∨ 60 < octAt req.body 0 →
        exec .editOpen s = .next (s'.badField .reu req 1)) ∧
      (1 ≤ octAt req.body 0 → octAt req.body 0 ≤ 60 →
        (∀ c, s.reu.claim = some c → c.owner ≠ req.ref.link →
          exec .editOpen s = .next (s'.answer .reu req .owned [BitVec.ofNat 8 c.owner.val])) ∧
        (∀ c, s.reu.claim = some c → c.owner = req.ref.link → c.phase = .pending →
          exec .editOpen s = .next (s'.answer .reu req .pending [])) ∧
        ((∀ c, s.reu.claim = some c → c.owner = req.ref.link ∧ c.phase ≠ .pending) →
          exec .editOpen s = .next { s with
            reu := { s.reu with txn := some (.copy req (octAt req.body 0) false) }
            mail := { s'.mail with reuAsk := some .copy } }))) ∧
    ∀ req hold dropped table,
      s.reu.txn = some (.copy req hold dropped) → s.mail.feAnswer = some (.copy table) →
      (dropped = true → exec .copyAnswer s = .next (State.answer
        { s with reu := { s.reu with txn := none }, mail := { s.mail with feAnswer := none } }
        .reu req .aborted [])) ∧
      (dropped = false → (∀ c, s.reu.claim = some c → c.owner = req.ref.link ∧ c.phase ≠ .pending) →
        exec .copyAnswer s = .next (State.answer
          { s with
            reu :=
              { s.reu with
                txn := none
                claim := some ⟨req.ref.link, hold, .held 0, table, []⟩ }
            mail := { s.mail with feAnswer := none } }
          .reu req .ok (BitVec.ofNat 8 req.ref.link.val :: u16 table.length)))

/-- R26 to R28: the claim gate, and EDIT OPEN, which takes the claim. -/
def Obligations.ClaimGateAndEditOpen : Prop :=
  Piece.ClaimGateRefuses ∧ Piece.EditOpenTakesTheClaim

/-- The sender of a request holds the edit claim in the given phase (R25). -/
def holdsClaim (s : State) (req : Req) (c : Claim) (t : Nat) : Prop :=
  s.reu.claim = some c ∧ c.owner = req.ref.link ∧ c.phase = .held t

/-- R29, R33, R201: ENTRY PUT of the owner of a HELD claim: BAD_FIELD 0 above 511 or the number of the
record's first bad field, with staging kept; else the record is written and its position touched, and
no other position changes. The hold timer restarts in every case. -/
def Piece.EntryPutWritesStaging : Prop :=
  ∀ (s s' : State) (req : Req) (c : Claim) (k : Nat),
    Handed .reu req s s' → s.reu.txn = none → req.kind = .entryPut → holdsClaim s req c k →
    let restarted := { s' with reu := { s.reu with claim := some { c with phase := .held 0 } } }
    (511 < field16 req.body 0 → exec .entryPut s = .next (restarted.badField .reu req 0)) ∧
    (field16 req.body 0 ≤ 511 →
      (∀ n, parseEntry (req.body.drop 2) = .error n →
        exec .entryPut s = .next (restarted.badField .reu req n)) ∧
      ∀ e, parseEntry (req.body.drop 2) = .ok e →
        ∃ (t : State) (staging : Table Entry) (touched : Table Unit),
          exec .entryPut s = .next t ∧
          t = State.answer
            { s' with
              reu :=
                { s.reu with
                  claim := some { c with phase := .held 0, staging := staging, touched := touched } } }
            .reu req .ok (u16 (field16 req.body 0) ++ u16 staging.length) ∧
          (Table.sorted c.staging = true → ∀ p, Table.get? staging p =
            if p = field16 req.body 0 then some e else Table.get? c.staging p) ∧
          (Table.sorted c.touched = true → ∀ p, Table.has touched p = true ↔
            p = field16 req.body 0 ∨ Table.has c.touched p = true))

/-- R30, R33: ENTRY DELETE of the owner of a HELD claim: BAD_FIELD 1 or 2, or every position of the range
is emptied and touched and no other changes; the answer counts the entries removed. The hold timer
restarts in every case. -/
def Piece.EntryDeleteEmptiesARange : Prop :=
  ∀ (s s' : State) (req : Req) (c : Claim) (k : Nat),
    Handed .reu req s s' → s.reu.txn = none → req.kind = .entryDelete → holdsClaim s req c k →
    let first := field16 req.body 0
    let last := field16 req.body 2
    let restarted := { s' with reu := { s.reu with claim := some { c with phase := .held 0 } } }
    (511 < first → exec .entryDelete s = .next (restarted.badField .reu req 1)) ∧
    (first ≤ 511 → 511 < last ∨ last < first →
      exec .entryDelete s = .next (restarted.badField .reu req 2)) ∧
    (first ≤ last → last ≤ 511 →
      ∃ (staging : Table Entry) (touched : Table Unit),
        exec .entryDelete s = .next (State.answer
          { s' with
            reu :=
              { s.reu with
                claim := some { c with phase := .held 0, staging := staging, touched := touched } } }
          .reu req .ok (u16 (c.staging.length - staging.length))) ∧
        (Table.sorted c.staging = true → ∀ p, Table.get? staging p =
          if first ≤ p ∧ p ≤ last then none else Table.get? c.staging p) ∧
        (Table.sorted c.touched = true → ∀ p, Table.has touched p = true ↔
          (first ≤ p ∧ p ≤ last) ∨ Table.has c.touched p = true))

/-- R31, R32, R36: reads of the staging table by its owner, HELD (the hold timer restarts) or PENDING (it
stays stopped), and EDIT ABANDON, which frees a HELD claim with no event. -/
def Piece.StagingIsReadAndAbandoned : Prop :=
  ∀ (s s' : State) (req : Req) (c : Claim),
    Handed .reu req s s' → s.reu.txn = none → s.reu.claim = some c → c.owner = req.ref.link →
    let after := { s' with
      reu :=
        { s.reu with
          claim := some { c with
            phase := if c.phase = ClaimPhase.pending then ClaimPhase.pending else .held 0 } } }
    (req.kind = .entryRead →
      (511 < field16 req.body 1 → exec .entryReadStaging s = .next (after.badField .reu req 2)) ∧
      (field16 req.body 1 ≤ 511 →
        (Table.get? c.staging (field16 req.body 1) = none →
          exec .entryReadStaging s = .next (after.answer .reu req .notFound [])) ∧
        ∀ e, Table.get? c.staging (field16 req.body 1) = some e →
          exec .entryReadStaging s = .next (after.answer .reu req .ok
            (e.octets ++ [if Table.has c.touched (field16 req.body 1) then 1 else 0])))) ∧
    (req.kind = .tableSummary →
      exec .tableSummaryStaging s = .next (after.answer .reu req .ok
        (occupancyMap c.staging ++ u16 c.staging.length ++ u16 (tableCost c.staging)))) ∧
    (req.kind = .editAbandon → c.phase ≠ .pending →
      exec .editAbandon s = .next (State.answer
        { s' with reu := { s.reu with claim := none } } .reu req .ok []))

/-- R29 to R33, R36: the requests of a claim's owner that write, read and abandon staging. -/
def Obligations.StagingIsWrittenReadAndAbandoned : Prop :=
  Piece.EntryPutWritesStaging ∧ Piece.EntryDeleteEmptiesARange ∧ Piece.StagingIsReadAndAbandoned

/-- R26, R33, R40 to R42: TABLE CHECK and TABLE COMMIT of the owner of a HELD claim ask for the link
views, TABLE CHECK restarting the hold timer. -/
def Piece.CheckAndCommitAskForViews : Prop :=
  ∀ (s s' : State) (req : Req) (c : Claim) (k : Nat),
    Handed .reu req s s' → s.reu.txn = none → holdsClaim s req c k →
    (req.kind = .tableCheck → exec .tableCheck s = .next { s with
      reu :=
        { s.reu with
          claim := some { c with phase := .held 0 }, txn := some (.snapshot req false) }
      mail := { s'.mail with reuAsk := some .snapshot } }) ∧
    (req.kind = .tableCommit → exec .tableCommit s = .next { s with
      reu := { s.reu with txn := some (.snapshot req true) }
      mail := { s'.mail with reuAsk := some .snapshot } })

/-- R26, R39 to R42: the views complete a check, which answers its report and restarts the hold timer; a
commit with a finding is REFUSED with the report and the claim as it was; a commit that passes makes
the claim PENDING, records the commit and hands the table off. A sender that no longer holds the
claim is answered as the gate answers. -/
def Piece.SnapshotCompletesCheckOrCommit : Prop :=
  ∀ (s : State) (req : Req) (commit : Bool) (views : Vector View 8),
    s.reu.txn = some (.snapshot req commit) → s.mail.feAnswer = some (.snapshot views) →
    let s' := { s with reu := { s.reu with txn := none }, mail := { s.mail with feAnswer := none } }
    (s.reu.claim = none → exec .snapshotAnswer s = .next (s'.answer .reu req .notOwner [])) ∧
    (∀ c, s.reu.claim = some c → c.owner ≠ req.ref.link →
      exec .snapshotAnswer s = .next (s'.answer .reu req .owned [BitVec.ofNat 8 c.owner.val])) ∧
    ∀ c k, holdsClaim s req c k →
      (commit = false → exec .snapshotAnswer s = .next (State.answer
        { s' with reu := { s'.reu with claim := some { c with phase := .held 0 } } } .reu req .ok
        (admissionReport views c.staging))) ∧
      (commit = true → admission c.staging ≠ .pass →
        exec .snapshotAnswer s = .next (s'.answer .reu req .refused (admissionReport views c.staging))) ∧
      (commit = true → admission c.staging = .pass →
        exec .snapshotAnswer s = .next { s' with
          reu :=
            { s'.reu with
              claim := some { c with phase := .pending }
              nextCommit := s.reu.nextCommit + 1
              pending := some ⟨s.reu.nextCommit, tableCost c.staging, c.staging.length, c.owner,
                req.ref, req.tag, false⟩ }
          mail :=
            { s'.mail with
              handOffs := s.mail.handOffs ++
                [⟨c.staging, tableCost c.staging, c.owner, s.reu.nextCommit⟩] } })

/-- R26, R40 to R42: TABLE CHECK and TABLE COMMIT, from the request to its result. -/
def Obligations.CheckAndCommitComplete : Prop :=
  Piece.CheckAndCommitAskForViews ∧ Piece.SnapshotCompletesCheckOrCommit

/-- R39: at most one SPAN entry and one MIX entry of the table cover the destination. -/
def NoConflictAt (t : Table Entry) (d : Dest) : Prop :=
  (t.countP fun e => e.2.spanCovers d) ≤ 1 ∧ (t.countP fun e => e.2.mixCovers d) ≤ 1

/-- R39: `d` is the first destination with a conflict, in the order of the coverage test. -/
def FirstConflict (t : Table Entry) (d : Dest) : Prop :=
  ∃ before after, destinations = before ++ d :: after ∧ ∀ x ∈ before, NoConflictAt t x

/-- R39: `a` and then `b` are the two lowest-numbered positions of the table whose entries satisfy `p`. -/
def TwoLowest (t : Table Entry) (p : Entry → Bool) (a b : Nat) : Prop :=
  a < b ∧ (∃ x, Table.get? t a = some x ∧ p x = true) ∧ (∃ y, Table.get? t b = some y ∧ p y = true) ∧
    ∀ c z, Table.get? t c = some z → p z = true → c = a ∨ b ≤ c

/-- R7, R39, R40: the admission check passes exactly the tables in which no destination has two SPAN
entries or two MIX entries and whose cost is at most 1024. An overlap it finds in a route table is at
the first destination with a conflict, by the two lowest-numbered entries that cover it, SPAN entries
before MIX entries. -/
def Obligations.AdmissionFindsConflicts : Prop :=
  ∀ t : Table Entry,
    (admission t = .pass ↔ (∀ d ∈ destinations, NoConflictAt t d) ∧ tableCost t ≤ 1024) ∧
    (RouteTable t → ∀ d a b,
      (admission t = .overlapSpan d a b → FirstConflict t d ∧ TwoLowest t (Entry.spanCovers d) a b) ∧
      (admission t = .overlapMix d a b → FirstConflict t d ∧
        (t.countP fun e => e.2.spanCovers d) ≤ 1 ∧ TwoLowest t (Entry.mixCovers d) a b)) ∧
    (admission t = .cost → (∀ d ∈ destinations, NoConflictAt t d) ∧ 1024 < tableCost t)

/-- R46, R47: GAIN ADJUST: PENDING while a commit is pending or owed, then BAD_FIELD 1, 2 or 3, else the
adjustment is handed to the Frame Engine. -/
def Piece.GainAdjustIsChecked : Prop :=
  ∀ (s s' : State) (req : Req),
    Handed .reu req s s' → s.reu.txn = none → req.kind = .gainAdjust →
    let pos := field16 req.body 0
    let term := octAt req.body 2
    let code := octAt req.body 3
    (s.reu.pending ≠ none ∨ s.reu.owed ≠ [] →
      exec .gainAdjust s = .next (s'.answer .reu req .pending [])) ∧
    (s.reu.pending = none → s.reu.owed = [] →
      (511 < pos → exec .gainAdjust s = .next (s'.badField .reu req 1)) ∧
      (pos ≤ 511 → term = 0 ∨ 8 < term → exec .gainAdjust s = .next (s'.badField .reu req 2)) ∧
      (pos ≤ 511 → 1 ≤ term → term ≤ 8 → 216 < code →
        exec .gainAdjust s = .next (s'.badField .reu req 3)) ∧
      (pos ≤ 511 → 1 ≤ term → term ≤ 8 → code ≤ 216 →
        exec .gainAdjust s = .next { s with
          reu := { s.reu with txn := some (.gain req pos term code) }
          mail := { s'.mail with reuAsk := some (.gain pos term code) } }))

/-- R47, R48: the answer to a gain adjustment: NOT_FOUND, or OK with flag 0 without staging, 1 when the
untouched staging term is written too, 2 when staging differs. The hold timer is not restarted. -/
def Piece.GainAdjustReconcilesStaging : Prop :=
  ∀ (s : State) (req : Req) (pos term code : Nat) (found : Bool),
    s.reu.txn = some (.gain req pos term code) → s.mail.feAnswer = some (.gain found) → 1 ≤ term →
    let s' := { s with reu := { s.reu with txn := none }, mail := { s.mail with feAnswer := none } }
    (found = false → exec .gainAdjustAnswer s = .next (s'.answer .reu req .notFound [])) ∧
    (found = true → s.reu.claim = none →
      exec .gainAdjustAnswer s = .next (s'.answer .reu req .ok [0])) ∧
    ∀ c, found = true → s.reu.claim = some c →
      ((Table.has c.touched pos = true ∨
          ∀ d ts, Table.get? c.staging pos = some (.mix d ts) → ts.length < term) →
        exec .gainAdjustAnswer s = .next (s'.answer .reu req .ok [2])) ∧
      ∀ d ts, Table.has c.touched pos = false → Table.get? c.staging pos = some (.mix d ts) →
        term ≤ ts.length →
        ∃ us, us.length = ts.length ∧
          (∀ i x, ts[i]? = some x → us[i]? = some (if i + 1 = term then { x with gain := code } else x)) ∧
          exec .gainAdjustAnswer s = .next (State.answer
            { s' with
              reu :=
                { s'.reu with
                  claim := some { c with staging := Table.put c.staging pos (.mix d us) } } }
            .reu req .ok [1])

/-- R46 to R48: GAIN ADJUST at the Route Edit Unit, before and after the Frame Engine. -/
def Obligations.GainAdjustIsCheckedAndReconciled : Prop :=
  Piece.GainAdjustIsChecked ∧ Piece.GainAdjustReconcilesStaging

/-- The COMMIT response of a record (R44, R46). -/
def commitResult (r : CommitRecord) (adopted : Option (BitVec 32)) : Result :=
  match adopted with
  | some f => ⟨r.ref, .ok, u32 f.toNat ++ u16 r.cost ++ u16 r.count, none⟩
  | none => ⟨r.ref, .aborted, [], none⟩

/-- R44 to R46: an adoption or discard notice: for the pending table the claim becomes FREE and the
record is cleared; for an owed record only that record is cleared; for no record nothing changes.
The COMMIT is answered OK with the adoption frame, or ABORTED, unless its answer is lost. -/
def Obligations.FateOfATableIsTaken : Prop :=
  ∀ (s : State) (c : Instr) (f : Fate) (rest : List Fate), s.mail.fates = f :: rest →
    (c = .adoptionNotice ∧ f.adopted ≠ none) ∨ (c = .discardNotice ∧ f.adopted = none) →
    let results (r : CommitRecord) : List (Block × Result) :=
      s.mail.results ++ if r.lost then [] else [(.reu, commitResult r f.adopted)]
    (∀ r others, Oldest (fun x => x.number == f.number) s.reu.owed r others →
      exec c s = .next { s with
        reu := { s.reu with owed := others }
        mail := { s.mail with fates := rest, results := results r } }) ∧
    ((∀ r ∈ s.reu.owed, r.number ≠ f.number) →
      (∀ r, s.reu.pending = some r → r.number = f.number →
        exec c s = .next { s with
          reu := { s.reu with claim := none, pending := none }
          mail := { s.mail with fates := rest, results := results r } }) ∧
      ((∀ r, s.reu.pending = some r → r.number ≠ f.number) →
        exec c s = .next { s with mail := { s.mail with fates := rest } }))

/-- R33, R35, R45: the hold timer at its hold time frees a HELD claim with CLAIM_LAPSED, detail 0; the
loss of the owner's link frees it with detail 1, and marks the answer of a PENDING claim lost; the
loss of another link leaves the claim. -/
def Obligations.ClaimLapses : Prop :=
  ∀ s : State,
    (∀ c k, s.reu.claim = some c → c.phase = .held k → c.holdTime * 4000 ≤ k →
      exec .holdTimerExpiry s = .next { s with
        reu := { s.reu with claim := none }
        mail := { s.mail with
          reports := s.mail.reports ++ [(.reu, ⟨.claimLapsed, c.owner.val, 0, none⟩)] } }) ∧
    ∀ l : Link, 0 < s.mail.lossNotices[l] →
      ∃ t, exec (.linkLossNotice l) s = .next t ∧
        t.reu = { s.reu with claim := t.reu.claim, pending := t.reu.pending, txn := t.reu.txn } ∧
        t.mail = { s.mail with
          lossNotices := updAt s.mail.lossNotices l (· - 1), reports := t.mail.reports } ∧
        (∀ req hold d, s.reu.txn = some (.copy req hold d) →
          t.reu.txn = some (.copy req hold (d || req.ref.link == l))) ∧
        ((∀ c, s.reu.claim = some c → c.owner ≠ l) → t.reu.claim = s.reu.claim ∧
          t.reu.pending = s.reu.pending ∧ t.mail.reports = s.mail.reports) ∧
        ∀ c, s.reu.claim = some c → c.owner = l →
          (c.phase ≠ .pending → t.reu.claim = none ∧ t.reu.pending = s.reu.pending ∧
            t.mail.reports = s.mail.reports ++ [(.reu, ⟨.claimLapsed, l.val, 1, none⟩)]) ∧
          (c.phase = .pending → t.reu.claim = some c ∧ t.mail.reports = s.mail.reports ∧
            t.reu.pending = s.reu.pending.map fun r => { r with lost := true })

/-- R46, R49: either reset frees the claim, turns a pending record into the newest owed record, drops a
copy that is outstanding, and acknowledges, with no event. -/
def Piece.RouteEditReset : Prop :=
  ∀ (s s' : State) (o : ResetOrder), o.block = .reu → o.ack = true → HandedReset o s s' →
    ∃ txn, exec .reuReset s = .next { s with
        reu :=
          { s.reu with
            claim := none, pending := none, owed := s.reu.owed ++ s.reu.pending.toList, txn := txn }
        mail := { s'.mail with acks := s.mail.acks ++ [.reu] } } ∧
      (∀ req hold d, s.reu.txn = some (.copy req hold d) → txn = some (.copy req hold true)) ∧
      ((∀ req hold d, s.reu.txn ≠ some (.copy req hold d)) → txn = s.reu.txn)

/-- R46, R49, R51, R66, R71: the resets of the Frame Engine and the Route Edit Unit. -/
def Obligations.RoutingBlocksReset : Prop :=
  Piece.FrameEngineReset ∧ Piece.RouteEditReset

/-! ## Sample Store -/

/-- R93, R129 to R131: the end of the memory clear, which may come at any point of it (log entries 6
and 26) and does nothing when no clear runs (log entry 1), leaves every word 0 and ends the hold of
every link in one event; a player read is answered with the word at its address; a recorder write
writes its word there and nowhere else. -/
def Obligations.MemoryIsClearedReadAndWritten : Prop :=
  ∀ s : State,
    (s.sst.clear ≠ none → ∃ t, exec .memoryClearComplete s = .next t ∧ t.sst.clear = none ∧
      (∀ a, Memory.read t.sst.mem a = 0) ∧ t.sst.clips = s.sst.clips ∧
      (∀ l : Link, t.lp[l] = { s.lp[l] with held := false }) ∧
      t = { s with lp := t.lp, sst := t.sst }) ∧
    (s.sst.clear = none → exec .memoryClearComplete s = .next s) ∧
    (∀ p r rest, Oldest (fun x => x.player == p) s.mail.playerReads r rest → r.addr < 131072 →
      exec (.playerRead p) s = .next { s with mail := { s.mail with
        playerReads := rest
        readAnswers := s.mail.readAnswers ++ [⟨p, r.frame, Memory.read s.sst.mem r.addr⟩] } }) ∧
    ∀ a w rest, s.mail.rcuToSst = .write a w :: rest → a < 131072 →
      ∃ t, exec .recorderWrite s = .next t ∧
        t = { s with sst := { s.sst with mem := t.sst.mem }, mail := { s.mail with rcuToSst := rest } } ∧
        (Memory.wf s.sst.mem = true → ∀ b, Memory.read t.sst.mem b =
          if b = a then w else Memory.read s.sst.mem b)

/-- R136: a hold request of a defined clip raises its hold count and answers its record; of an empty
position it changes nothing and answers so. A release notice lowers the count; a count at 0 stays. -/
def Piece.ClipsAreHeldAndReleased : Prop :=
  ∀ (s : State) (id : Fin 32) (rest : List PlbMsg),
    (s.mail.plbToSst = .hold id :: rest →
      (∀ c, s.sst.clips[id] = some c → exec .holdRequest s = .next { s with
        sst := { s.sst with holds := updAt s.sst.holds id (· + 1) }
        mail := { s.mail with plbToSst := rest, holdAnswer := some (some c) } }) ∧
      (s.sst.clips[id] = none → exec .holdRequest s = .next { s with
        mail := { s.mail with plbToSst := rest, holdAnswer := some none } })) ∧
    (s.mail.plbToSst = .release id :: rest → exec .releaseNotice s = .next { s with
      sst := { s.sst with holds := updAt s.sst.holds id (· - 1) }
      mail := { s.mail with plbToSst := rest } })

/-- R137, R138: a region request is refused for the lowest defined clip it overlaps, else for the other
recorder's region, else granted with the running mark clear; a release makes the record absent; a
running or stopped notice sets or clears the mark of a record present. -/
def Piece.RegionsAreRecorded : Prop :=
  ∀ (s : State) (r : Rec) (rest : List RcuMsg),
    (∀ start len, s.mail.rcuToSst = .regionRequest r start len :: rest →
      (∀ id : Fin 32, (∃ c, s.sst.clips[id] = some c ∧ rangesOverlap start len c.start c.len = true) →
        (∀ j : Fin 32, j < id → ∀ c, s.sst.clips[j] = some c →
          rangesOverlap start len c.start c.len = false) →
        exec .regionRequest s = .next { s with mail := { s.mail with
          rcuToSst := rest, regionAnswer := some (.refusedClip id.val) } }) ∧
      ((∀ (j : Fin 32) (c : Clip), s.sst.clips[j] = some c →
          rangesOverlap start len c.start c.len = false) →
        (∀ g, s.sst.regions[otherRec r] = some g → rangesOverlap start len g.start g.len = true →
          exec .regionRequest s = .next { s with mail := { s.mail with
            rcuToSst := rest, regionAnswer := some (.refusedRecorder (otherRec r).val) } }) ∧
        ((∀ g, s.sst.regions[otherRec r] = some g → rangesOverlap start len g.start g.len = false) →
          exec .regionRequest s = .next { s with
            sst := { s.sst with regions := updAt s.sst.regions r fun _ => some ⟨start, len, false⟩ }
            mail := { s.mail with rcuToSst := rest, regionAnswer := some .granted } }))) ∧
    (s.mail.rcuToSst = .regionRelease r :: rest → exec .regionRelease s = .next { s with
      sst := { s.sst with regions := updAt s.sst.regions r fun _ => none }
      mail := { s.mail with rcuToSst := rest } }) ∧
    ∀ on, s.mail.rcuToSst = .running r on :: rest → exec .runningNotice s = .next { s with
      sst := { s.sst with
        regions := updAt s.sst.regions r fun g => g.map fun x => { x with running := on } }
      mail := { s.mail with rcuToSst := rest } }

/-- R136 to R138: the records the Sample Store keeps for the Player Bank and the Recorder Unit. -/
def Obligations.HoldsAndRegionsAreRecorded : Prop :=
  Piece.ClipsAreHeldAndReleased ∧ Piece.RegionsAreRecorded

/-- R133: an address lies in the range of a clip that is held. -/
def inHeldClip (t : SST) (a : Nat) (id : Fin 32) : Prop :=
  ∃ c : Clip, t.clips[id] = some c ∧ 0 < t.holds[id] ∧ c.start ≤ a ∧ a < c.start + c.len

/-- R133: an address lies in the region of a recorder that is marked running. -/
def inRunningRegion (t : SST) (a : Nat) (r : Rec) : Prop :=
  ∃ g : Region, t.regions[r] = some g ∧ g.running = true ∧ g.start ≤ a ∧ a < g.start + g.len

/-- R133: an address lies in a held clip or a running region. -/
def isProtected (t : SST) (a : Nat) : Prop :=
  (∃ id, inHeldClip t a id) ∨ ∃ r, inRunningRegion t a r

/-- R132 to R134: MEMORY WRITE: BAD_FIELD 1 or 2; IN_USE naming the first protected address, with
reason HELD and the lowest held clip that contains it or reason REGION and the recorder, writing
nothing; or the words written from the start address in order. MEMORY READ: BAD_FIELD 1 or 2, or a
copy of the words, whatever is in use. -/
def Obligations.MemoryRequestsAreTaken : Prop :=
  ∀ (s s' : State) (req : Req) (start : Nat) (ws : List Sample), Handed .sst req s s' →
    (req.kind = .memoryWrite → start < 16777216 → 1 ≤ ws.length → ws.length ≤ 128 →
      req.body = u24 start ++ octetsOfWords ws →
      (131071 < start → exec .memoryWrite s = .next (s'.badField .sst req 1)) ∧
      (start ≤ 131071 → 131072 < start + ws.length →
        exec .memoryWrite s = .next (s'.badField .sst req 2)) ∧
      (start + ws.length ≤ 131072 →
        (∀ a, start ≤ a → a < start + ws.length → isProtected s.sst a →
          (∀ b, start ≤ b → b < a → ¬isProtected s.sst b) →
          (∀ id : Fin 32, inHeldClip s.sst a id → (∀ j : Fin 32, j < id → ¬inHeldClip s.sst a j) →
            exec .memoryWrite s =
              .next (s'.answer .sst req .inUse (u24 a ++ [0, BitVec.ofNat 8 id.val]))) ∧
          ∀ r : Rec, (∀ id, ¬inHeldClip s.sst a id) → inRunningRegion s.sst a r →
            (∀ q : Rec, q < r → ¬inRunningRegion s.sst a q) →
            exec .memoryWrite s =
              .next (s'.answer .sst req .inUse (u24 a ++ [1, BitVec.ofNat 8 r.val]))) ∧
        ((∀ a, start ≤ a → a < start + ws.length → ¬isProtected s.sst a) →
          ∃ mem, exec .memoryWrite s = .next (State.answer
            { s' with sst := { s.sst with mem := mem } } .sst req .ok
            (u24 start ++ [if ws.length = 128 then 0 else BitVec.ofNat 8 ws.length])) ∧
          (Memory.wf s.sst.mem = true → ∀ b, Memory.read mem b =
            if start ≤ b ∧ b < start + ws.length then (ws[b - start]?).getD 0
            else Memory.read s.sst.mem b)))) ∧
    ∀ n, req.kind = .memoryRead → start < 16777216 → n < 256 →
      req.body = u24 start ++ [BitVec.ofNat 8 n] →
      (131071 < start → exec .memoryRead s = .next (s'.badField .sst req 1)) ∧
      (start ≤ 131071 → n = 0 ∨ 128 < n ∨ 131072 < start + n →
        exec .memoryRead s = .next (s'.badField .sst req 2)) ∧
      (1 ≤ n → n ≤ 128 → start + n ≤ 131072 →
        exec .memoryRead s = .next (s'.answer .sst req .ok
          (u24 start ++ [if n = 128 then 0 else BitVec.ofNat 8 n] ++
            (List.range n).flatMap fun i => u24 (Memory.read s.sst.mem (start + i)).toNat)))

/-- R139 to R141: CLIP DEFINE, CLIP DELETE and CLIP READ: the field checks in index order, IN_USE for a
held id or, for a definition, a recorded region, NOT_FOUND for an empty position, and the effect on
the one position named. -/
def Piece.ClipRequestsAreTaken : Prop :=
  ∀ (s s' : State) (req : Req) (id : Fin 32), Handed .sst req s s' → octAt req.body 0 = id.val →
    (req.kind = .clipDefine →
      let start := field24 req.body 1
      let len := field24 req.body 4
      let mode := octAt req.body 7
      let loop := field24 req.body 8
      (131071 < start → exec .clipDefine s = .next (s'.badField .sst req 2)) ∧
      (start ≤ 131071 → len = 0 ∨ 131072 < start + len →
        exec .clipDefine s = .next (s'.badField .sst req 3)) ∧
      (start ≤ 131071 → 1 ≤ len → start + len ≤ 131072 →
        (1 < mode → exec .clipDefine s = .next (s'.badField .sst req 4)) ∧
        ((mode = 1 ∧ len ≤ loop) ∨ (mode = 0 ∧ loop ≠ 0) →
          exec .clipDefine s = .next (s'.badField .sst req 5)) ∧
        ((mode = 1 ∧ loop < len) ∨ (mode = 0 ∧ loop = 0) →
          (0 < s.sst.holds[id] → exec .clipDefine s =
            .next (s'.answer .sst req .inUse [0, BitVec.ofNat 8 s.sst.holds[id]])) ∧
          (s.sst.holds[id] = 0 →
            (∀ (r : Rec) (g : Region), s.sst.regions[r] = some g →
              rangesOverlap start len g.start g.len = true →
              (∀ (q : Rec) (x : Region), q < r → s.sst.regions[q] = some x →
                rangesOverlap start len x.start x.len = false) →
              exec .clipDefine s = .next (s'.answer .sst req .inUse [1, BitVec.ofNat 8 r.val])) ∧
            ((∀ (r : Rec) (g : Region), s.sst.regions[r] = some g →
                rangesOverlap start len g.start g.len = false) →
              exec .clipDefine s = .next (State.answer
                { s' with
                  sst :=
                    { s.sst with
                      clips := updAt s.sst.clips id fun _ =>
                        some ⟨start, len, if mode = 1 then some loop else none⟩ } }
                .sst req .ok
                [BitVec.ofNat 8 id.val, if s.sst.clips[id] = none then 0 else 1])))))) ∧
    (req.kind = .clipDelete →
      (s.sst.clips[id] = none → exec .clipDelete s = .next (s'.answer .sst req .notFound [])) ∧
      (s.sst.clips[id] ≠ none →
        (0 < s.sst.holds[id] → exec .clipDelete s =
          .next (s'.answer .sst req .inUse [0, BitVec.ofNat 8 s.sst.holds[id]])) ∧
        (s.sst.holds[id] = 0 → exec .clipDelete s = .next (State.answer
          { s' with sst := { s.sst with clips := updAt s.sst.clips id fun _ => none } } .sst req .ok
          [BitVec.ofNat 8 id.val])))) ∧
    (req.kind = .clipRead →
      (s.sst.clips[id] = none → exec .clipRead s = .next (s'.answer .sst req .notFound [])) ∧
      ∀ c, s.sst.clips[id] = some c → exec .clipRead s = .next (s'.answer .sst req .ok
        (u24 c.start ++ u24 c.len ++ [if c.loop = none then 0 else 1] ++ u24 (c.loop.getD 0) ++
          [BitVec.ofNat 8 s.sst.holds[id]])))

/-- R139 to R141: a clip id above 31 is BAD_FIELD with field index 1, and nothing changes. -/
def Piece.ClipIdsAreChecked : Prop :=
  ∀ (s s' : State) (req : Req), Handed .sst req s s' → 31 < octAt req.body 0 →
    ∀ ck ∈ [(Instr.clipDefine, RequestKind.clipDefine), (.clipDelete, .clipDelete),
        (.clipRead, .clipRead)],
      req.kind = ck.2 → exec ck.1 s = .next (s'.badField .sst req 1)

/-- R139 to R141: the three clip requests, for every clip id field. -/
def Obligations.ClipRequestsAndIds : Prop :=
  Piece.ClipRequestsAreTaken ∧ Piece.ClipIdsAreChecked

/-! ## Player Bank -/

/-- R145: a frame boundary with no read outstanding: each IDLE player posts 0 / IDLE for the frame, each
PLAYING player makes one read at its clip's start plus its position, and positions and queues stay
until the read's answer is taken (log entry 22). The frame is numbered by the model's own counter of
boundaries (log entry 11). -/
def Obligations.PlayerBoundaryPostsAndReads : Prop :=
  ∀ s : State, s.mail.playerReads = [] → s.mail.readAnswers = [] →
    ∃ t q, exec .plbFrameBoundary s = .next t ∧ t.plb.cur = some q ∧ t.plb.prev = s.plb.cur ∧
      q.frame = s.plb.period ∧ t.plb.period = s.plb.period + 1 ∧ t.plb.waiting = s.plb.waiting ∧
      (∀ p : Player,
        (PlayerState.queue t.plb.players[p] = PlayerState.queue s.plb.players[p]) ∧
        (PlayerState.pos t.plb.players[p] = PlayerState.pos s.plb.players[p]) ∧
        (PlayerState.stopAtEnd t.plb.players[p] = PlayerState.stopAtEnd s.plb.players[p]) ∧
        (PlayerState.queue s.plb.players[p] = [] → q.words[p] = some ⟨0, .idle⟩ ∧
          ∀ r ∈ t.mail.playerReads, r.player ≠ p) ∧
        ∀ h behind, PlayerState.queue s.plb.players[p] = h :: behind →
          q.words[p] = none ∧ PlayerState.reading t.plb.players[p] = true ∧
          (t.mail.playerReads.filter fun r => r.player == p) =
            [⟨p, s.plb.period, h.clip.start + PlayerState.pos s.plb.players[p]⟩])

/-- R145, R146: the answer to a player's read posts its word with status LIVE for its frame and, in
the same event (log entry 22), advances the player: the position by 1, or, at the end of the clip, the
loop, the next clip, or IDLE with PLAYER_DONE, with a release for a head place removed. -/
def Obligations.ReadAnswerAdvancesThePlayer : Prop :=
  ∀ (s : State) (p : Player) (a : ReadAnswer) (rest : List ReadAnswer) (q : Posted) (h : QueuePlace)
    (behind : List QueuePlace),
    Oldest (fun x => x.player == p) s.mail.readAnswers a rest → s.plb.cur = some q →
    q.frame = a.frame → PlayerState.reading s.plb.players[p] = true →
    PlayerState.queue s.plb.players[p] = h :: behind →
    let x : PlayerState := s.plb.players[p]
    ∃ t q', exec (.playerReadAnswer p) s = .next t ∧ t.plb.cur = some q' ∧
      q'.words[p] = some ⟨a.word, .live⟩ ∧ (∀ i : Player, i ≠ p → q'.words[i] = q.words[i]) ∧
      (∀ i : Player, i ≠ p → t.plb.players[i] = s.plb.players[i]) ∧
      (x.pos + 1 < h.clip.len →
        t.plb.players[p] = { x with pos := x.pos + 1, reading := false } ∧
        t.mail = { s.mail with readAnswers := rest }) ∧
      (h.clip.len ≤ x.pos + 1 → behind ≠ [] →
        t.plb.players[p] = { x with queue := behind, pos := 0, reading := false } ∧
        t.mail = { s.mail with
          readAnswers := rest, plbToSst := s.mail.plbToSst ++ [.release h.id] }) ∧
      (h.clip.len ≤ x.pos + 1 → behind = [] →
        (∀ o, h.clip.loop = some o → x.stopAtEnd = false →
          t.plb.players[p] = { x with pos := o, reading := false } ∧
          t.mail = { s.mail with readAnswers := rest }) ∧
        (h.clip.loop = none ∨ x.stopAtEnd = true →
          t.plb.players[p] = ⟨[], 0, false, false⟩ ∧
          t.mail = { s.mail with
            readAnswers := rest, plbToSst := s.mail.plbToSst ++ [.release h.id]
            reports := s.mail.reports ++ [(.plb, ⟨.playerDone, p.val, h.id.val, none⟩)] }))

/-- No read of a boundary waits for its word or its answer (log entry 22). -/
def NoReadOutstanding (s : State) : Prop :=
  s.mail.playerReads = [] ∧ s.mail.readAnswers = []

/-- R147, R148: PLAY with no hold outstanding: BAD_FIELD 1, 2 or 3; for NEXT, STATE with stop-at-end set
and NO_SPACE behind four places; else one hold request, and the player stays as it is. -/
def Piece.PlayAsksForItsHold : Prop :=
  ∀ (s s' : State) (req : Req) (x c m : Byte), NoReadOutstanding s →
    Handed .plb req s s' → s.plb.waiting = none → req.kind = .play → req.body = [x, c, m] →
    (m ≠ 1 →
      (7 < x.toNat → exec .playNow s = .next (s'.badField .plb req 1)) ∧
      (x.toNat ≤ 7 → 31 < c.toNat → exec .playNow s = .next (s'.badField .plb req 2)) ∧
      (x.toNat ≤ 7 → c.toNat ≤ 31 → 1 < m.toNat → exec .playNow s = .next (s'.badField .plb req 3))) ∧
    (m = 1 →
      (7 < x.toNat → exec .playNext s = .next (s'.badField .plb req 1)) ∧
      (x.toNat ≤ 7 → 31 < c.toNat → exec .playNext s = .next (s'.badField .plb req 2))) ∧
    ∀ (p : Player) (id : Fin 32), x.toNat = p.val → c.toNat = id.val →
      let asked (next : Bool) := { s with
        plb := { s.plb with waiting := some ⟨req, p, id, next, false⟩ }
        mail := { s'.mail with plbToSst := s.mail.plbToSst ++ [.hold id] } }
      (m = 0 → exec .playNow s = .next (asked false)) ∧
      (m = 1 →
        (PlayerState.stopAtEnd s.plb.players[p] = true →
          exec .playNext s = .next (s'.answer .plb req .state [])) ∧
        (PlayerState.stopAtEnd s.plb.players[p] = false →
          (4 ≤ (PlayerState.queue s.plb.players[p]).length →
            exec .playNext s = .next (s'.answer .plb req .noSpace [])) ∧
          ((PlayerState.queue s.plb.players[p]).length < 4 →
            exec .playNext s = .next (asked true))))

/-- R148 to R150, R164: the answer to a hold: NOT_FOUND for a clip not defined; NOW replaces the queue,
with a release for every place removed; NEXT appends; a PLAY that RESET DEVICE ended is ABORTED and
its hold released. -/
def Piece.HoldAnswerPlacesTheClip : Prop :=
  ∀ (s : State) (w : PlayWait) (granted : Option Clip), NoReadOutstanding s →
    s.plb.waiting = some w → s.mail.holdAnswer = some granted →
    let s' := { s with
      plb := { s.plb with waiting := none }, mail := { s.mail with holdAnswer := none } }
    let x : PlayerState := s.plb.players[w.player]
    (w.aborted = true →
      (granted = none → exec .holdAnswer s = .next (s'.answer .plb w.req .aborted [])) ∧
      (granted ≠ none → exec .holdAnswer s =
        .next ((s'.toSstFromPlb [.release w.clip]).answer .plb w.req .aborted []))) ∧
    (w.aborted = false →
      (granted = none → exec .holdAnswer s = .next (s'.answer .plb w.req .notFound [])) ∧
      ∀ c, granted = some c →
        (w.next = false → exec .holdAnswer s = .next (State.answer
          { s' with
            plb :=
              { s'.plb with
                players := updAt s.plb.players w.player fun _ => ⟨[⟨w.clip, c⟩], 0, false, false⟩ }
            mail :=
              { s'.mail with
                plbToSst := s.mail.plbToSst ++ x.queue.map fun q => .release q.id } }
          .plb w.req .ok [BitVec.ofNat 8 w.player.val, 1, 1])) ∧
        (w.next = true → exec .holdAnswer s = .next (State.answer
          { s' with
            plb :=
              { s'.plb with
                players := updAt s.plb.players w.player fun y =>
                  { y with queue := y.queue ++ [⟨w.clip, c⟩] } } }
          .plb w.req .ok
          [BitVec.ofNat 8 w.player.val, BitVec.ofNat 8 (x.queue.length + 1),
            BitVec.ofNat 8 (x.queue.length + 1)])))

/-- R147 to R150, R164: PLAY, from the request to its placement. -/
def Obligations.PlayIsAskedAndPlaced : Prop :=
  Piece.PlayAsksForItsHold ∧ Piece.HoldAnswerPlacesTheClip

/-- R152, R153, R155: STOP NOW empties a PLAYING player's queue with a release for each place and
PLAYER_DONE, cause 1; STOP END drops the waiting places and sets stop-at-end; both leave an IDLE
player as it is and answer OK. A mode above 1 is BAD_FIELD 2, answered by STOP_NOW (log entry 12).
PLAYER STATUS answers a copy of the player. -/
def Piece.StopAndStatusAreTaken : Prop :=
  ∀ (s s' : State) (req : Req) (p : Player), NoReadOutstanding s →
    Handed .plb req s s' → s.plb.waiting = none → octAt req.body 0 = p.val →
    let x : PlayerState := s.plb.players[p]
    (req.kind = .stop → octAt req.body 1 = 0 →
      (x.queue = [] → exec .stopNow s = .next (s'.answer .plb req .ok [BitVec.ofNat 8 p.val])) ∧
      ∀ h behind, x.queue = h :: behind → exec .stopNow s = .next (State.answer
        { s' with
          plb := { s.plb with players := updAt s.plb.players p fun _ => ⟨[], 0, false, false⟩ }
          mail :=
            { s'.mail with
              plbToSst := s.mail.plbToSst ++ x.queue.map (fun q => .release q.id)
              reports := s.mail.reports ++ [(.plb, ⟨.playerDone, p.val, 256 + h.id.val, none⟩)] } }
        .plb req .ok [BitVec.ofNat 8 p.val])) ∧
    (req.kind = .stop → octAt req.body 1 = 1 →
      (x.queue = [] → exec .stopEnd s = .next (s'.answer .plb req .ok [BitVec.ofNat 8 p.val])) ∧
      ∀ h behind, x.queue = h :: behind → exec .stopEnd s = .next (State.answer
        { s' with
          plb :=
            { s.plb with
              players := updAt s.plb.players p fun y => { y with queue := [h], stopAtEnd := true } }
          mail :=
            { s'.mail with
              plbToSst := s.mail.plbToSst ++ behind.map (fun q => .release q.id) } }
        .plb req .ok [BitVec.ofNat 8 p.val])) ∧
    (req.kind = .stop → 1 < octAt req.body 1 → exec .stopNow s = .next (s'.badField .plb req 2)) ∧
    (req.kind = .playerStatus → x.queue.length ≤ 4 →
      exec .playerStatus s = .next (s'.answer .plb req .ok
        ([if x.queue = [] then 0 else 1, BitVec.ofNat 8 x.queue.length] ++
          x.queue.map (fun q => BitVec.ofNat 8 q.id.val) ++
          List.replicate (4 - x.queue.length) 255 ++ u24 x.pos ++ [if x.stopAtEnd then 1 else 0])))

/-- R152, R155: a player number above 7 is BAD_FIELD with field index 1, and nothing changes. -/
def Piece.PlayerNumbersAreChecked : Prop :=
  ∀ (s s' : State) (req : Req), NoReadOutstanding s → Handed .plb req s s' → s.plb.waiting = none →
    7 < octAt req.body 0 →
    (req.kind = .stop → octAt req.body 1 ≠ 1 → exec .stopNow s = .next (s'.badField .plb req 1)) ∧
    (req.kind = .stop → octAt req.body 1 = 1 → exec .stopEnd s = .next (s'.badField .plb req 1)) ∧
    (req.kind = .playerStatus → exec .playerStatus s = .next (s'.badField .plb req 1))

/-- R152, R153, R155: STOP and PLAYER STATUS, for every player number field. -/
def Obligations.StopAndPlayerStatus : Prop :=
  Piece.StopAndStatusAreTaken ∧ Piece.PlayerNumbersAreChecked

/-! ## Recorder Unit -/

/-- R63, R131, R157: the oldest input word of a recorder: a RUNNING one hands its sample to the Sample
Store at the write position and advances; at the end of its region a RING recorder goes on at the
start with wrapped set, and a ONCE recorder is FULL there, with a stopped notice and RECORDER_FULL.
Any other recorder ignores the word. -/
def Obligations.RecorderTakesItsWord : Prop :=
  ∀ (s : State) (r : Rec) (w : Slot) (rest : List Slot), s.mail.inputWords[r] = w :: rest →
    let x : Recorder := s.rcu.recorders[r]
    let words := updAt s.mail.inputWords r fun _ => rest
    (x.state ≠ .running → exec (.recorderInputWord r) s =
      .next { s with mail := { s.mail with inputWords := words } }) ∧
    ∀ start len, x.state = .running → x.region = some (start, len) →
      (x.pos + 1 < start + len → exec (.recorderInputWord r) s = .next { s with
        rcu := { s.rcu with recorders := updAt s.rcu.recorders r fun y => { y with pos := x.pos + 1 } }
        mail :=
          { s.mail with
            inputWords := words, rcuToSst := s.mail.rcuToSst ++ [.write x.pos w.sample] } }) ∧
      (start + len ≤ x.pos + 1 → x.once = false → exec (.recorderInputWord r) s = .next { s with
        rcu :=
          { s.rcu with
            recorders := updAt s.rcu.recorders r fun y => { y with pos := start, wrapped := true } }
        mail :=
          { s.mail with
            inputWords := words, rcuToSst := s.mail.rcuToSst ++ [.write x.pos w.sample] } }) ∧
      (start + len ≤ x.pos + 1 → x.once = true → exec (.recorderInputWord r) s = .next { s with
        rcu :=
          { s.rcu with
            recorders := updAt s.rcu.recorders r fun y =>
              { y with state := .full, pos := start, wrapped := true } }
        mail :=
          { s.mail with
            inputWords := words
            rcuToSst := s.mail.rcuToSst ++ [.write x.pos w.sample, .running r false]
            reports := s.mail.reports ++ [(.rcu, ⟨.recorderFull, r.val, 0, none⟩)] } })

/-- R158, R159, R165: RECORD SETUP: BAD_FIELD 1 to 4, STATE while RUNNING, else one region request. Its
answer: IN_USE with CLIP or RECORDER, or the recorder SET at its new region's start; ABORTED after
RESET DEVICE. -/
def Obligations.RecordSetupAsksForItsRegion : Prop :=
  ∀ s : State,
    (∀ s' req, Handed .rcu req s s' → s.rcu.waiting = none → req.kind = .recordSetup →
      let start := field24 req.body 1
      let len := field24 req.body 4
      let mode := octAt req.body 7
      (1 < octAt req.body 0 → exec .recordSetup s = .next (s'.badField .rcu req 1)) ∧
      ∀ r : Rec, octAt req.body 0 = r.val →
        (131071 < start → exec .recordSetup s = .next (s'.badField .rcu req 2)) ∧
        (start ≤ 131071 → len < 64 ∨ 131072 < start + len →
          exec .recordSetup s = .next (s'.badField .rcu req 3)) ∧
        (start ≤ 131071 → 64 ≤ len → start + len ≤ 131072 →
          (1 < mode → exec .recordSetup s = .next (s'.badField .rcu req 4)) ∧
          (mode ≤ 1 →
            (Recorder.state s.rcu.recorders[r] = .running →
              exec .recordSetup s = .next (s'.answer .rcu req .state [])) ∧
            (Recorder.state s.rcu.recorders[r] ≠ .running →
              exec .recordSetup s = .next { s with
                rcu := { s.rcu with waiting := some ⟨req, r, start, len, mode == 1, false⟩ }
                mail :=
                  { s'.mail with
                    rcuToSst := s.mail.rcuToSst ++ [.regionRequest r start len] } })))) ∧
    ∀ w a, s.rcu.waiting = some w → s.mail.regionAnswer = some a →
      let s' := { s with
        rcu := { s.rcu with waiting := none }, mail := { s.mail with regionAnswer := none } }
      (w.aborted = true → exec .regionAnswer s = .next (s'.answer .rcu w.req .aborted [])) ∧
      (w.aborted = false →
        (∀ id, a = .refusedClip id →
          exec .regionAnswer s = .next (s'.answer .rcu w.req .inUse [0, BitVec.ofNat 8 id])) ∧
        (∀ q, a = .refusedRecorder q →
          exec .regionAnswer s = .next (s'.answer .rcu w.req .inUse [1, BitVec.ofNat 8 q])) ∧
        (a = .granted → exec .regionAnswer s = .next (State.answer
          { s' with
            rcu :=
              { s'.rcu with
                recorders := updAt s.rcu.recorders w.recorder fun _ =>
                  ⟨.set, some (w.start, w.len), w.once, w.start, false⟩ } }
          .rcu w.req .ok [BitVec.ofNat 8 w.recorder.val])))

/-- R160: RECORD START, by the recorder's state; a number above 1 is BAD_FIELD 1. -/
def Piece.RecordStartRuns : Prop :=
  ∀ (s s' : State) (req : Req), Handed .rcu req s s' → s.rcu.waiting = none →
    req.kind = .recordStart →
    (1 < octAt req.body 0 → exec .recordStart s = .next (s'.badField .rcu req 1)) ∧
    ∀ r : Rec, octAt req.body 0 = r.val →
      (Recorder.state s.rcu.recorders[r] = .idle →
        exec .recordStart s = .next (s'.answer .rcu req .state [])) ∧
      (Recorder.state s.rcu.recorders[r] = .running →
        exec .recordStart s = .next (s'.answer .rcu req .ok [BitVec.ofNat 8 r.val])) ∧
      ∀ start len, Recorder.state s.rcu.recorders[r] = .set ∨
          Recorder.state s.rcu.recorders[r] = .full →
        Recorder.region s.rcu.recorders[r] = some (start, len) →
        exec .recordStart s = .next (State.answer
          { s' with
            rcu :=
              { s.rcu with
                recorders := updAt s.rcu.recorders r fun y =>
                  { y with state := .running, pos := start, wrapped := false } }
            mail := { s'.mail with rcuToSst := s.mail.rcuToSst ++ [.running r true] } }
          .rcu req .ok [BitVec.ofNat 8 r.val])

/-- R161: RECORD STOP, by the recorder's state; a number above 1 is BAD_FIELD 1. -/
def Piece.RecordStopStops : Prop :=
  ∀ (s s' : State) (req : Req), Handed .rcu req s s' → s.rcu.waiting = none →
    req.kind = .recordStop →
    (1 < octAt req.body 0 → exec .recordStop s = .next (s'.badField .rcu req 1)) ∧
    ∀ r : Rec, octAt req.body 0 = r.val →
      let stopped := { s.rcu with
        recorders := updAt s.rcu.recorders r fun y => { y with state := .set } }
      (Recorder.state s.rcu.recorders[r] = .running → exec .recordStop s = .next (State.answer
        { s' with
          rcu := stopped
          mail := { s'.mail with rcuToSst := s.mail.rcuToSst ++ [.running r false] } }
        .rcu req .ok [BitVec.ofNat 8 r.val])) ∧
      (Recorder.state s.rcu.recorders[r] = .full → exec .recordStop s = .next (State.answer
        { s' with rcu := stopped } .rcu req .ok [BitVec.ofNat 8 r.val])) ∧
      (Recorder.state s.rcu.recorders[r] = .idle ∨ Recorder.state s.rcu.recorders[r] = .set →
        exec .recordStop s = .next (s'.answer .rcu req .ok [BitVec.ofNat 8 r.val]))

/-- R163: RECORDER STATUS answers a copy of the recorder; a number above 1 is BAD_FIELD 1. -/
def Piece.RecorderStatusAnswers : Prop :=
  ∀ (s s' : State) (req : Req), Handed .rcu req s s' → s.rcu.waiting = none →
    req.kind = .recorderStatus →
    (1 < octAt req.body 0 → exec .recorderStatus s = .next (s'.badField .rcu req 1)) ∧
    ∀ r : Rec, octAt req.body 0 = r.val →
      let x : Recorder := s.rcu.recorders[r]
      exec .recorderStatus s = .next (s'.answer .rcu req .ok
        (([match x.state with | .idle => 0 | .set => 1 | .running => 2 | .full => 3] : List Byte) ++
          (match x.region with | some g => u24 g.1 ++ u24 g.2 | none => [0, 0, 0, 0, 0, 0]) ++
          [if x.once then 1 else 0] ++ u24 x.pos ++ [if x.wrapped then 1 else 0]))

/-- R160, R161, R163: RECORD START, RECORD STOP and RECORDER STATUS. -/
def Obligations.RecorderRequests : Prop :=
  Piece.RecordStartRuns ∧ Piece.RecordStopStops ∧ Piece.RecorderStatusAnswers

/-- R136, R164, R165: the Player Bank's reset empties every queue, P0 to P7, head first, one release for
each place, with no PLAYER_DONE; the Recorder Unit's reset makes RUNNING and FULL recorders SET at
their region start for ROUTING, and every recorder IDLE for DEVICE, with a release for every region
held or asked for and no stopped notice (log entry 23), recorder 0 before recorder 1 (log entry 30). A
request that waits is aborted by DEVICE alone. -/
def Obligations.PlayersAndRecordersReset : Prop :=
  ∀ (s s' : State) (o : ResetOrder), o.ack = true → HandedReset o s s' →
    (o.block = .plb → NoReadOutstanding s → ∃ t, exec .plbReset s = .next t ∧
      (∀ p : Player, t.plb.players[p] = ⟨[], 0, false, false⟩) ∧
      t.plb.waiting = (s.plb.waiting.map fun w =>
        { w with aborted := w.aborted || o.scope == .device }) ∧
      t.mail = { s'.mail with
        acks := s.mail.acks ++ [.plb]
        plbToSst := s.mail.plbToSst ++ [0, 1, 2, 3, 4, 5, 6, 7].flatMap fun p : Player =>
          (PlayerState.queue s.plb.players[p]).map fun q => PlbMsg.release q.id }) ∧
    (o.block = .rcu → ∃ t, exec .rcuReset s = .next t ∧
      t.mail.acks = s.mail.acks ++ [.rcu] ∧ t.mail.reports = s.mail.reports ∧
      (o.scope = .device →
        (∀ r : Rec, t.rcu.recorders[r] = ⟨.idle, none, false, 0, false⟩) ∧
        t.rcu.waiting = (s.rcu.waiting.map fun w => { w with aborted := true }) ∧
        t.mail.rcuToSst = s.mail.rcuToSst ++ [0, 1].flatMap fun r : Rec =>
          if (Recorder.region s.rcu.recorders[r]).isSome || s.rcu.waiting.any (·.recorder == r)
          then [RcuMsg.regionRelease r] else []) ∧
      (o.scope = .routing → t.rcu.waiting = s.rcu.waiting ∧
        t.mail.rcuToSst = s.mail.rcuToSst ++ [0, 1].flatMap (fun r : Rec =>
          if Recorder.state s.rcu.recorders[r] = .running then [RcuMsg.running r false] else []) ∧
        ∀ r : Rec,
          (Recorder.state s.rcu.recorders[r] ∈ [RecState.idle, .set] →
            t.rcu.recorders[r] = s.rcu.recorders[r]) ∧
          ∀ start len, Recorder.state s.rcu.recorders[r] ∈ [RecState.running, .full] →
            Recorder.region s.rcu.recorders[r] = some (start, len) →
            t.rcu.recorders[r] =
              { s.rcu.recorders[r] with state := .set, pos := start, wrapped := false }))

/-! ## Management Unit -/

/-- R167: a link is eligible for a message that came with the given MGR flag. -/
def linkIsEligible (s : State) (l : Link) (mgr : Bool) : Prop :=
  (LP.state s.lp[l]).running = true ∧ (∃ r, LP.partner s.lp[l] = some r ∧ r.current = true) ∧
    mgr = true ∧ (s.msel = true ∨ l = 0)

/-- R166: a field that the Management Unit judges itself is out of range. -/
def mguRefuses (k : RequestKind) (body : List Byte) : Prop :=
  (k ∈ [RequestKind.entryRead, .tableSummary] ∧ 1 < octAt body 0) ∨
    (k ∈ [RequestKind.linkSet, .linkStatus, .linkRenegotiate, .partnerRead] ∧ 7 < octAt body 0)

/-- R166 to R169, R172: a message from a link: from one that is not eligible, or that is busy with its
BUSY-waiting flag set, it is reported as discarded and nothing else; from a busy one with the flag
clear it is answered BUSY; else it stands in progress, and is answered BAD_LENGTH, UNKNOWN or
BAD_FIELD 1, or handed to its owner. Eligibility is judged with the flag handed over with the message
and with the link's state and partner record as they stand when it is taken (log entry 17). -/
def Piece.MessageIsDealtWith : Prop :=
  ∀ (l : Link) (s : State) (octets : List Byte) (mgr : Bool) (rest : List (Link × LpMsg)),
    Oldest (fun x => x.1 == l || x.2.isMessage) s.mail.lpToMgu (l, .message octets mgr) rest →
    4 ≤ octets.length →
    let taken := { s with mail := { s.mail with lpToMgu := rest } }
    let k : MguLink := s.mgu.links[l]
    let discarded := { taken with mail := { taken.mail with
      discardOrders := updAt s.mail.discardOrders l (· + 1) } }
    (¬linkIsEligible s l mgr → exec (.messageTaken l) s = .next discarded) ∧
    (linkIsEligible s l mgr → k.inProgress ≠ none ∨ k.closing ≠ none →
      (k.busyWaiting = true → exec (.messageTaken l) s = .next discarded) ∧
      (k.busyWaiting = false → (∀ x ∈ LP.txq s.lp[l], x.place ≠ .busy) →
        exec (.messageTaken l) s = .next { taken with
          lp := updAt s.lp l fun p =>
            { p with
              txq := p.txq ++ [⟨.busy, none, withCheck
                [(octets[0]?).getD 0 ||| 0x80#8, (octets[1]?).getD 0, 1,
                  BitVec.ofNat 8 s.evu.events.length, 0, 0]⟩] }
          mgu :=
            { s.mgu with
              eventsWaiting := s.evu.events.length
              links := updAt s.mgu.links l fun k => { k with busyWaiting := true } } })) ∧
    (linkIsEligible s l mgr → k.inProgress = none → k.closing = none →
      let ip : InProgress := ⟨⟨l, s.mgu.nextRef⟩, (octets[0]?).getD 0, (octets[1]?).getD 0⟩
      let body := octets.drop 4
      let placed := { taken with
        mgu :=
          { s.mgu with
            nextRef := s.mgu.nextRef + 1
            links := updAt s.mgu.links l fun k => { k with inProgress := some ip } } }
      (field16 octets 2 + 4 ≠ octets.length →
        ∃ t, exec (.messageTaken l) s = .next t ∧ Answered l ip .badLength [] none placed t) ∧
      (field16 octets 2 + 4 = octets.length →
        ((∀ kind : RequestKind, kind.code ≠ octAt octets 0) →
          ∃ t, exec (.messageTaken l) s = .next t ∧ Answered l ip .unknown [] none placed t) ∧
        ∀ kind : RequestKind, kind.code = octAt octets 0 →
          (kind.lengthOk body.length = false →
            ∃ t, exec (.messageTaken l) s = .next t ∧ Answered l ip .badLength [] none placed t) ∧
          (kind.lengthOk body.length = true →
            (mguRefuses kind body →
              ∃ t, exec (.messageTaken l) s = .next t ∧ Answered l ip .badField [1] none placed t) ∧
            (¬mguRefuses kind body → exec (.messageTaken l) s = .next { placed with
              mail := { taken.mail with
                reqs := s.mail.reqs ++ [(ownerOf kind body, ⟨ip.ref, kind, ip.tag, body⟩)] } }))))

/-- R166: messages of different links are taken in the order they arrive, and a message of a link after
what the link sent before it: while another link's message, or a report or notice of the link's own,
comes first, a message of the link is not taken. -/
def Piece.MessagesAreTakenInOrder : Prop :=
  ∀ (l : Link) (s : State) (x : Link × LpMsg) (rest : List (Link × LpMsg)),
    Oldest (fun x => x.1 == l || x.2.isMessage) s.mail.lpToMgu x rest →
    x.1 ≠ l ∨ x.2.isMessage = false → exec (.messageTaken l) s = .next s

/-- R166 to R169, R172: messages, which one is taken and what becomes of it. -/
def Obligations.MessagesAreTaken : Prop :=
  Piece.MessageIsDealtWith ∧ Piece.MessagesAreTakenInOrder

/-- R169 to R171, R174: the oldest result a block has handed over is built into a response and offered
when the record of its link still holds its reference, and is discarded otherwise. -/
def Piece.ResultsAreAnswered : Prop :=
  ∀ (s : State) (b : Block) (r : Result) (rest : List (Block × Result)),
    Oldest (fun x => x.1 == b) s.mail.results (b, r) rest →
    let taken := { s with mail := { s.mail with results := rest } }
    (∀ ip, s.mgu.links[r.ref.link].inProgress = some ip → ip.ref = r.ref →
      ∃ t, exec (.ownerResult b) s = .next t ∧
        Answered r.ref.link ip r.code r.body r.deferred taken t) ∧
    ((∀ ip, s.mgu.links[r.ref.link].inProgress = some ip → ip.ref ≠ r.ref) →
      exec (.ownerResult b) s = .next taken)

/-- R171, R172, R174: the report that a message was sent, or discarded: for a BUSY response the flag
clears; for a response the effect that waits for it, matched by the reference the report carries (log
entry 16), is carried out and the closing mark clears, and then the held response is offered. -/
def Piece.PlaceReportsAreTaken : Prop :=
  ∀ (l : Link) (s : State) (c : Instr) (m : LpMsg) (place : Place) (ref : Option Ref)
    (rest : List (Link × LpMsg)),
    Oldest (fun x => x.1 == l) s.mail.lpToMgu (l, m) rest →
    (c = .sentReport l ∧ m = .sent place ref) ∨ (c = .discardReport l ∧ m = .discarded place ref) →
    let taken := { s with mail := { s.mail with lpToMgu := rest } }
    (place = .busy → exec c s = .next { taken with
      mgu :=
        { s.mgu with links := updAt s.mgu.links l fun k => { k with busyWaiting := false } } }) ∧
    (place = .response → ∀ closed : State,
      (∃ e, s.mgu.links[l].closing = some e ∧ ref = some e.ref ∧
        closed = { taken with
          mgu := { s.mgu with links := updAt s.mgu.links l fun k => { k with closing := none } }
          mail := CarriedOut l (some e.effect) taken.mail }) ∨
        ((∀ e, s.mgu.links[l].closing = some e → ref ≠ some e.ref) ∧ closed = taken) →
      (s.mgu.links[l].heldResp = none → exec c s = .next closed) ∧
      ∀ h, s.mgu.links[l].heldResp = some h →
        ∃ t, exec c s = .next t ∧ Offered l h.ref h.octets h.deferred closed t)

/-- R173, R174: the stop notice empties the link's record, its held response, BUSY-waiting flag and
closing mark, and carries out a deferred effect recorded there. When the link is the requester of a
RESET DEVICE that still waits for acknowledgments, its Link Port is handed the reset now and not
again (log entry 14). -/
def Piece.StopNoticeEndsTheRecords : Prop :=
  ∀ (l : Link) (s : State) (rest : List (Link × LpMsg)),
    Oldest (fun x => x.1 == l) s.mail.lpToMgu (l, .stopped) rest →
    let mgu := { s.mgu with links := updAt s.mgu.links l fun _ => ⟨none, none, false, none⟩ }
    let mail := CarriedOut l (s.mgu.links[l].heldResp.bind HeldResponse.deferred)
      (CarriedOut l (s.mgu.links[l].closing.map Closing.effect)
        { s.mail with lpToMgu := rest })
    ((∀ r, s.mgu.curReset = some r →
        r.ref.link ≠ l ∨ r.scope = .routing ∨ r.effectDone = true) →
      exec (.stopNotice l) s = .next { s with mgu := mgu, mail := mail }) ∧
    ∀ r, s.mgu.curReset = some r → r.ref.link = l → r.scope = .device → r.effectDone = false →
      exec (.stopNotice l) s = .next { s with
        mgu := { mgu with curReset := some { r with effectDone := true } }
        mail := CarriedOut l (some .reset) mail }

/-- R171 to R174: what a Link Port reports to the Management Unit. -/
def Obligations.ReportsAndStopNotices : Prop :=
  Piece.PlaceReportsAreTaken ∧ Piece.StopNoticeEndsTheRecords

/-- R170, R184: the Event Unit answers the number of records in its list, which the Management Unit
keeps (log entry 13), and nothing else changes. -/
def Piece.EventsWaitingIsAnswered : Prop :=
  ∀ s : State, exec .eventsWaitingQuery s =
    .next { s with mgu := { s.mgu with eventsWaiting := s.evu.events.length } }

/-- R169 to R171, R184: a result becomes a response, and the events-waiting query. -/
def Obligations.ResultsAndEventsWaiting : Prop :=
  Piece.ResultsAreAnswered ∧ Piece.EventsWaitingIsAnswered

/-- R169, R175, R176: the Management Unit takes its own requests in the order handed. IDENTIFY answers the
vendor, part and revision, the serial, the straps and the label; NAME SET answers BAD_FIELD with the
position of the first zero character, or replaces the label. A row whose request is not the oldest
takes nothing (log entry 1). -/
def Obligations.IdentifyAndNameSet : Prop :=
  ∀ (s taken : State) (req : Req), Handed .mgu req s taken →
    (req.kind ≠ .identify → exec .identify s = .next s) ∧
    (req.kind ≠ .nameSet → exec .nameSet s = .next s) ∧
    ∀ ip, s.mgu.links[req.ref.link].inProgress = some ip → ip.ref = req.ref →
      (req.kind = .identify → ∃ t, exec .identify s = .next t ∧
        Answered req.ref.link ip .ok
          ([10, 39, 12, 136, 1] ++ u48 Config.unitSerial.toNat ++
            [if s.msel then 1 else 0, BitVec.ofNat 8 s.unit.toNat,
              BitVec.ofNat 8 s.mgu.label.length] ++ s.mgu.label) none taken t) ∧
      (req.kind = .nameSet →
        ((0 : Byte) ∉ req.body → ∃ t, exec .nameSet s = .next t ∧
          Answered req.ref.link ip .ok [BitVec.ofNat 8 req.body.length] none
            { taken with mgu := { s.mgu with label := req.body } } t) ∧
        ∀ i, req.body[i]? = some 0 → (0 : Byte) ∉ req.body.take i →
          ∃ t, exec .nameSet s = .next t ∧
            Answered req.ref.link ip .badField [BitVec.ofNat 8 (i + 1)] none taken t)

/-- The blocks a RESET of either scope is handed to (R178, R179). -/
def resetEverywhere : List Block := [.fe, .reu, .plb, .rcu, .evu]

/-- R177 to R179: the Management Unit has begun a RESET. ROUTING is handed to five blocks. DEVICE is handed
to those and to the Link Port of every other link; the records of every other link are ended, and so
is a RESET of another link that waits, taken or not (log entry 24). -/
def ResetBegun (req : Req) (s t : State) : Prop :=
  (octAt req.body 0 = 0 → t = { s with
    mgu := { s.mgu with curReset := some ⟨req.ref, .routing, resetEverywhere, false⟩ }
    mail := { s.mail with
      resets := s.mail.resets ++ resetEverywhere.map fun b => ⟨b, .routing, req.ref.link, true⟩ } }) ∧
  (octAt req.body 0 = 1 → ∃ (blocks : List Block) (links : Vector MguLink 8),
    (∀ b, b ∈ blocks ↔ b ∈ resetEverywhere ∨ ∃ l, l ≠ req.ref.link ∧ b = .lp l) ∧ blocks.Nodup ∧
    (∀ l : Link, links[l] =
      if l = req.ref.link then s.mgu.links[l] else ⟨none, none, false, none⟩) ∧
    t = { s with
      mgu := { s.mgu with
        curReset := some ⟨req.ref, .device, blocks, false⟩
        links := links
        waitingResets := s.mgu.waitingResets.filter fun x =>
          !(x.kind == .reset && x.ref.link != req.ref.link) }
      mail := { s.mail with
        reqs := s.mail.reqs.filter fun x =>
          !(x.1 == Block.mgu && x.2.kind == .reset && x.2.ref.link != req.ref.link)
        resets := s.mail.resets ++ blocks.map fun b => ⟨b, .device, req.ref.link, true⟩ } })

/-- R177: the row that takes a RESET of a scope; a scope that is neither is taken by RESET_ROUTING (log
entry 12). -/
def resetRow (req : Req) : Instr := if octAt req.body 0 = 1 then .resetDevice else .resetRouting

/-- R169, R177 to R179: RESET, in the order handed: a scope that is neither is answered BAD_FIELD 1; a
valid one is begun, or waits while another is being carried out. -/
def Piece.ResetsAreHandedOut : Prop :=
  ∀ (s taken : State) (req : Req), Handed .mgu req s taken → req.kind = .reset →
    (1 < octAt req.body 0 → ∀ ip, s.mgu.links[req.ref.link].inProgress = some ip →
      ip.ref = req.ref → ∃ t, exec (resetRow req) s = .next t ∧
        Answered req.ref.link ip .badField [1] none taken t) ∧
    (octAt req.body 0 ≤ 1 →
      (s.mgu.curReset = none → ∃ t, exec (resetRow req) s = .next t ∧ ResetBegun req taken t) ∧
      (s.mgu.curReset ≠ none → exec (resetRow req) s = .next { taken with
        mgu := { s.mgu with waitingResets := s.mgu.waitingResets ++ [req] } }))

/-- R174, R177: the last acknowledgment is in and the RESET has ended: it is answered OK with its scope,
DEVICE with its deferred effect; for a requester whose record has ended the effect alone is carried
out, unless that has been done (log entry 14). -/
def ResetEnded (r : CurrentReset) (s t : State) : Prop :=
  let ended := { s with mgu := { s.mgu with curReset := none } }
  let effect : Option Deferred := if r.scope = .device then some .reset else none
  (∀ ip, s.mgu.links[r.ref.link].inProgress = some ip → ip.ref = r.ref →
    Answered r.ref.link ip .ok [if r.scope = .device then 1 else 0] effect ended t) ∧
  ((∀ ip, s.mgu.links[r.ref.link].inProgress = some ip → ip.ref ≠ r.ref) →
    t = { ended with
      mail := CarriedOut r.ref.link (if r.effectDone then none else effect) ended.mail })

/-- R174, R177: an acknowledgment is taken; with the last one the RESET has ended, and the oldest one that
waits is begun (log entry 24). -/
def Piece.AcknowledgmentsEndTheReset : Prop :=
  ∀ (s : State) (b : Block) (r : CurrentReset), b ∈ s.mail.acks → s.mgu.curReset = some r →
    let taken := { s with mail := { s.mail with acks := s.mail.acks.erase b } }
    (r.waiting.erase b ≠ [] → exec (.resetAck b) s = .next { taken with
      mgu := { s.mgu with curReset := some { r with waiting := r.waiting.erase b } } }) ∧
    (r.waiting.erase b = [] → ∃ u, ResetEnded r taken u ∧
      (s.mgu.waitingResets = [] → exec (.resetAck b) s = .next u) ∧
      ∀ req more, s.mgu.waitingResets = req :: more → octAt req.body 0 ≤ 1 →
        ∃ t, exec (.resetAck b) s = .next t ∧
          ResetBegun req { u with mgu := { u.mgu with waitingResets := more } } t)

/-- R174, R177 to R179: RESET, from the request to the last acknowledgment. -/
def Obligations.ResetRequestsRunTheirCourse : Prop :=
  Piece.ResetsAreHandedOut ∧ Piece.AcknowledgmentsEndTheReset

/-! ## Event Unit -/

/-- R183: the oldest report of a block: below 64 records it is stored with the sequence counter's value
and its own stamp, or else the copy of the frame counter, and the sequence counter goes up by one;
at 64 it is not stored and the overflow counter goes up by one, to 65,535 at most. -/
def Piece.ReportsAreStored : Prop :=
  ∀ (s : State) (b : Block) (r : Report) (rest : List (Block × Report)),
    Oldest (fun x => x.1 == b) s.mail.reports (b, r) rest →
    (s.evu.events.length < 64 → exec (.eventReport b) s = .next { s with
      evu :=
        { s.evu with
          events := s.evu.events ++
            [⟨s.evu.seq, r.stamp.getD s.evu.frameCopy, r.kind, r.subject, r.detail⟩]
          seq := s.evu.seq + 1 }
      mail := { s.mail with reports := rest } }) ∧
    (64 ≤ s.evu.events.length → exec (.eventReport b) s = .next { s with
      evu := { s.evu with overflow := min (s.evu.overflow + 1) 65535 }
      mail := { s.mail with reports := rest } })

/-- R185: EVENTS READ: BAD_FIELD 1 for a count outside 1 to 8; else the oldest records, up to the count,
leave the list and are answered with the overflow counter, which becomes 0. -/
def Piece.EventsAreRead : Prop :=
  ∀ (s s' : State) (req : Req),
    Handed .evu req s s' → s.evu.query = none → req.kind = .eventsRead →
    let n := octAt req.body 0
    (n = 0 ∨ 8 < n → exec .eventsRead s = .next (s'.badField .evu req 1)) ∧
    (1 ≤ n → n ≤ 8 → exec .eventsRead s = .next (State.answer
      { s' with evu := { s.evu with events := s.evu.events.drop n, overflow := 0 } } .evu req .ok
      (u16 s.evu.overflow ++ [BitVec.ofNat 8 (min n s.evu.events.length)] ++
        (s.evu.events.take n).flatMap EventRecord.octets)))

/-- R183, R185: the event list. -/
def Obligations.EventsAreStoredAndRead : Prop :=
  Piece.ReportsAreStored ∧ Piece.EventsAreRead

/-- R186: COUNTERS READ: BAD_FIELD 1 or 2, or a counter query to the named link, whose answer is the
response; while it is outstanding no request is taken. -/
def Obligations.CountersAreRead : Prop :=
  ∀ s : State,
    (∀ s' req, Handed .evu req s s' → s.evu.query = none → req.kind = .countersRead →
      (7 < octAt req.body 0 → exec .countersRead s = .next (s'.badField .evu req 1)) ∧
      (octAt req.body 0 ≤ 7 → 1 < octAt req.body 1 →
        exec .countersRead s = .next (s'.badField .evu req 2)) ∧
      ∀ l : Link, octAt req.body 0 = l.val → octAt req.body 1 ≤ 1 →
        exec .countersRead s = .next { s with
          evu := { s.evu with query := some req }
          mail := { s'.mail with counterQuery := some (l, octAt req.body 1 == 1) } }) ∧
    (s.evu.query ≠ none → ∀ c ∈ [Instr.eventsRead, .countersRead, .indicatorSet],
      exec c s = .next s) ∧
    ∀ req l n, s.evu.query = some req → s.mail.counterAnswer = some (l, n) →
      exec .counterAnswer s = .next (State.answer
        { s with
          evu := { s.evu with query := none }, mail := { s.mail with counterAnswer := none } }
        .evu req .ok
        ([BitVec.ofNat 8 l.val] ++ u16 n.serviceErrors ++ u16 n.codeErrors ++ u16 n.discarded ++
          u16 n.alignLosses ++ u16 n.trainFailures ++ u16 n.downshifts))

/-- R191: INDICATOR SET: BAD_FIELD 1, 2 or 3, or the line's selector and enables are written; its pulse
runs on exactly when the selector is unchanged. -/
def Piece.IndicatorsAreSet : Prop :=
  ∀ (s s' : State) (req : Req),
    Handed .evu req s s' → s.evu.query = none → req.kind = .indicatorSet →
    (3 < octAt req.body 0 → exec .indicatorSet s = .next (s'.badField .evu req 1)) ∧
    (octAt req.body 0 ≤ 3 → 7 < octAt req.body 1 →
      exec .indicatorSet s = .next (s'.badField .evu req 2)) ∧
    (octAt req.body 0 ≤ 3 → octAt req.body 1 ≤ 7 → 15 < octAt req.body 2 →
      exec .indicatorSet s = .next (s'.badField .evu req 3)) ∧
    ∀ (n : Fin 4) (l : Link) (pulse fast slow steady : Bool),
      octAt req.body 0 = n.val → octAt req.body 1 = l.val →
      octAt req.body 2 = 8 * pulse.toNat + 4 * fast.toNat + 2 * slow.toNat + steady.toNat →
      exec .indicatorSet s = .next (State.answer
        { s' with
          evu :=
            { s.evu with
              lines := updAt s.evu.lines n fun x =>
                ⟨l, pulse, fast, slow, steady, if x.sel = l then x.pulseTimer else none⟩ } }
        .evu req .ok
        [BitVec.ofNat 8 n.val, BitVec.ofNat 8 l.val, BitVec.ofNat 8 (octAt req.body 2)])

/-- R66, R188 to R190: a counter notice and a state notice write the copies; a completion starts the
pulse of every line that selects its link from zero; a pulse ends at 50 ms, and an expiry before that
changes nothing (log entry 1); a generator changes phase at 125 ms or 500 ms, and a phase that ends
late counts the time beyond it toward the next (log entry 25). -/
def Piece.CopiesAndLinesFollow : Prop :=
  ∀ s : State,
    (∀ c rest, s.mail.counterNotices = c :: rest → exec .counterNotice s = .next { s with
      evu := { s.evu with frameCopy := c }, mail := { s.mail with counterNotices := rest } }) ∧
    (∀ (l : Link) st rest, s.mail.stateNotices[l] = st :: rest →
      exec (.stateNotice l) s = .next { s with
        evu := { s.evu with linkCopy := updAt s.evu.linkCopy l fun _ => st }
        mail :=
          { s.mail with stateNotices := updAt s.mail.stateNotices l fun _ => rest } }) ∧
    (∀ l : Link, 0 < s.mail.completions[l] → ∃ lines,
      exec (.completionReport l) s = .next { s with
        evu := { s.evu with lines := lines }
        mail := { s.mail with completions := updAt s.mail.completions l (· - 1) } } ∧
      ∀ n : Fin 4, lines[n] = { s.evu.lines[n] with
        pulseTimer := if (IndLine.sel s.evu.lines[n]) = l then some 0
          else IndLine.pulseTimer s.evu.lines[n] }) ∧
    (∀ n : Fin 4,
      (∀ k, IndLine.pulseTimer s.evu.lines[n] = some k → 200 ≤ k →
        exec (.pulseTimerExpiry n) s = .next { s with evu := { s.evu with
          lines := updAt s.evu.lines n fun x => { x with pulseTimer := none } } }) ∧
      ((∀ k, IndLine.pulseTimer s.evu.lines[n] = some k → k < 200) →
        exec (.pulseTimerExpiry n) s = .next s)) ∧
    (500 ≤ s.evu.fast.elapsed → exec (.blinkPhase .fast) s = .next { s with
      evu := { s.evu with fast := ⟨!s.evu.fast.on, s.evu.fast.elapsed - 500⟩ } }) ∧
    (2000 ≤ s.evu.slow.elapsed → exec (.blinkPhase .slow) s = .next { s with
      evu := { s.evu with slow := ⟨!s.evu.slow.on, s.evu.slow.elapsed - 2000⟩ } })

/-- R190: a line shows the first enabled pattern that applies to its link: a running pulse; TRAIN or
WAKE with the FAST generator; LISTEN or NEGOTIATE with the SLOW one; UP or REST steady; else it is
off. -/
def Piece.LinesShowTheirPattern : Prop :=
  ∀ (e : EVU) (n : Fin 4),
    let x : IndLine := e.lines[n]
    let st : LinkState := e.linkCopy[x.sel]
    (x.pulse = true → x.pulseTimer ≠ none → indicatorOn e n = true) ∧
    (x.pulse = false ∨ x.pulseTimer = none →
      (st = .train ∨ st = .wake → indicatorOn e n = (x.fast && e.fast.on)) ∧
      (st = .listen ∨ st = .negotiate → indicatorOn e n = (x.slow && e.slow.on)) ∧
      (st = .up ∨ st = .rest → indicatorOn e n = x.steady) ∧
      (st = .disabled ∨ st = .down → indicatorOn e n = false))

/-- R66, R188 to R191: indicator lines, their copies, timers and patterns. -/
def Obligations.IndicatorLinesFollow : Prop :=
  Piece.IndicatorsAreSet ∧ Piece.CopiesAndLinesFollow ∧ Piece.LinesShowTheirPattern

/-- R192: RESET DEVICE empties the list, stores START with detail 1 as record 0, stops the pulses and
sets the lines to their defaults; RESET ROUTING stores ROUTING_RESET as any report. Both acknowledge
and keep the copies, the generators and an outstanding query. -/
def Obligations.EventUnitReset : Prop :=
  ∀ (s s' : State) (o : ResetOrder), o.block = .evu → o.ack = true → HandedReset o s s' →
    let acked := { s'.mail with acks := s.mail.acks ++ [.evu] }
    (o.scope = .device → ∃ lines,
      exec .evuReset s = .next { s with
        evu :=
          { s.evu with
            events := [⟨0, s.evu.frameCopy, .start, 0, 1⟩], seq := 1, overflow := 0, lines := lines }
        mail := acked } ∧
      ∀ n : Fin 4, lines[n] = ⟨Fin.ofNat 8 n.val, true, true, true, true, none⟩) ∧
    (o.scope = .routing →
      (s.evu.events.length < 64 → exec .evuReset s = .next { s with
        evu :=
          { s.evu with
            events := s.evu.events ++
              [⟨s.evu.seq, s.evu.frameCopy, .routingReset, o.requester.val, 0⟩]
            seq := s.evu.seq + 1 }
        mail := acked }) ∧
      (64 ≤ s.evu.events.length → exec .evuReset s = .next { s with
        evu := { s.evu with overflow := min (s.evu.overflow + 1) 65535 }
        mail := acked }))
end

