-- ==== Sys2Proof/Laws/State.lean ====
section
/-! SUPPORT. One lemma per field of `State` per update: what each of the shared updates does to each
block's state, so that no proof unfolds a record update. -/

namespace Sys2Proof.Laws

open Sys2Proof.Machine

@[simp] theorem onLp_msel (s : State) (l : Link) (f : LP → LP) : (s.onLp l f).msel = s.msel := rfl
@[simp] theorem onLp_unit (s : State) (l : Link) (f : LP → LP) : (s.onLp l f).unit = s.unit := rfl
@[simp] theorem onLp_lp (s : State) (l : Link) (f : LP → LP) :
    (s.onLp l f).lp = updAt s.lp l f := rfl
@[simp] theorem onLp_mgu (s : State) (l : Link) (f : LP → LP) : (s.onLp l f).mgu = s.mgu := rfl
@[simp] theorem onLp_reu (s : State) (l : Link) (f : LP → LP) : (s.onLp l f).reu = s.reu := rfl
@[simp] theorem onLp_fe (s : State) (l : Link) (f : LP → LP) : (s.onLp l f).fe = s.fe := rfl
@[simp] theorem onLp_sst (s : State) (l : Link) (f : LP → LP) : (s.onLp l f).sst = s.sst := rfl
@[simp] theorem onLp_plb (s : State) (l : Link) (f : LP → LP) : (s.onLp l f).plb = s.plb := rfl
@[simp] theorem onLp_rcu (s : State) (l : Link) (f : LP → LP) : (s.onLp l f).rcu = s.rcu := rfl
@[simp] theorem onLp_evu (s : State) (l : Link) (f : LP → LP) : (s.onLp l f).evu = s.evu := rfl
@[simp] theorem onLp_mail (s : State) (l : Link) (f : LP → LP) : (s.onLp l f).mail = s.mail := rfl
@[simp] theorem onLp_pending (s : State) (l : Link) (f : LP → LP) :
    (s.onLp l f).pending = s.pending := rfl

@[simp] theorem onMail_msel (s : State) (f : Mail → Mail) : (s.onMail f).msel = s.msel := rfl
@[simp] theorem onMail_unit (s : State) (f : Mail → Mail) : (s.onMail f).unit = s.unit := rfl
@[simp] theorem onMail_lp (s : State) (f : Mail → Mail) : (s.onMail f).lp = s.lp := rfl
@[simp] theorem onMail_mgu (s : State) (f : Mail → Mail) : (s.onMail f).mgu = s.mgu := rfl
@[simp] theorem onMail_reu (s : State) (f : Mail → Mail) : (s.onMail f).reu = s.reu := rfl
@[simp] theorem onMail_fe (s : State) (f : Mail → Mail) : (s.onMail f).fe = s.fe := rfl
@[simp] theorem onMail_sst (s : State) (f : Mail → Mail) : (s.onMail f).sst = s.sst := rfl
@[simp] theorem onMail_plb (s : State) (f : Mail → Mail) : (s.onMail f).plb = s.plb := rfl
@[simp] theorem onMail_rcu (s : State) (f : Mail → Mail) : (s.onMail f).rcu = s.rcu := rfl
@[simp] theorem onMail_evu (s : State) (f : Mail → Mail) : (s.onMail f).evu = s.evu := rfl
@[simp] theorem onMail_mail (s : State) (f : Mail → Mail) : (s.onMail f).mail = f s.mail := rfl
@[simp] theorem onMail_pending (s : State) (f : Mail → Mail) :
    (s.onMail f).pending = s.pending := rfl

@[simp] theorem onMgu_msel (s : State) (l : Link) (f : MguLink → MguLink) :
    (s.onMgu l f).msel = s.msel := rfl
@[simp] theorem onMgu_unit (s : State) (l : Link) (f : MguLink → MguLink) :
    (s.onMgu l f).unit = s.unit := rfl
@[simp] theorem onMgu_lp (s : State) (l : Link) (f : MguLink → MguLink) :
    (s.onMgu l f).lp = s.lp := rfl
@[simp] theorem onMgu_mgu (s : State) (l : Link) (f : MguLink → MguLink) :
    (s.onMgu l f).mgu = { s.mgu with links := updAt s.mgu.links l f } := rfl
@[simp] theorem onMgu_reu (s : State) (l : Link) (f : MguLink → MguLink) :
    (s.onMgu l f).reu = s.reu := rfl
@[simp] theorem onMgu_fe (s : State) (l : Link) (f : MguLink → MguLink) :
    (s.onMgu l f).fe = s.fe := rfl
@[simp] theorem onMgu_sst (s : State) (l : Link) (f : MguLink → MguLink) :
    (s.onMgu l f).sst = s.sst := rfl
@[simp] theorem onMgu_plb (s : State) (l : Link) (f : MguLink → MguLink) :
    (s.onMgu l f).plb = s.plb := rfl
@[simp] theorem onMgu_rcu (s : State) (l : Link) (f : MguLink → MguLink) :
    (s.onMgu l f).rcu = s.rcu := rfl
@[simp] theorem onMgu_evu (s : State) (l : Link) (f : MguLink → MguLink) :
    (s.onMgu l f).evu = s.evu := rfl
@[simp] theorem onMgu_mail (s : State) (l : Link) (f : MguLink → MguLink) :
    (s.onMgu l f).mail = s.mail := rfl
@[simp] theorem onMgu_pending (s : State) (l : Link) (f : MguLink → MguLink) :
    (s.onMgu l f).pending = s.pending := rfl

@[simp] theorem report_msel (s : State) (b : Block) (k : EventKind) (n d : Nat) (st : Option (BitVec 32)) :
    (s.report b k n d st).msel = s.msel := rfl
@[simp] theorem report_unit (s : State) (b : Block) (k : EventKind) (n d : Nat) (st : Option (BitVec 32)) :
    (s.report b k n d st).unit = s.unit := rfl
@[simp] theorem report_lp (s : State) (b : Block) (k : EventKind) (n d : Nat) (st : Option (BitVec 32)) :
    (s.report b k n d st).lp = s.lp := rfl
@[simp] theorem report_mgu (s : State) (b : Block) (k : EventKind) (n d : Nat) (st : Option (BitVec 32)) :
    (s.report b k n d st).mgu = s.mgu := rfl
@[simp] theorem report_reu (s : State) (b : Block) (k : EventKind) (n d : Nat) (st : Option (BitVec 32)) :
    (s.report b k n d st).reu = s.reu := rfl
@[simp] theorem report_fe (s : State) (b : Block) (k : EventKind) (n d : Nat) (st : Option (BitVec 32)) :
    (s.report b k n d st).fe = s.fe := rfl
@[simp] theorem report_sst (s : State) (b : Block) (k : EventKind) (n d : Nat) (st : Option (BitVec 32)) :
    (s.report b k n d st).sst = s.sst := rfl
@[simp] theorem report_plb (s : State) (b : Block) (k : EventKind) (n d : Nat) (st : Option (BitVec 32)) :
    (s.report b k n d st).plb = s.plb := rfl
@[simp] theorem report_rcu (s : State) (b : Block) (k : EventKind) (n d : Nat) (st : Option (BitVec 32)) :
    (s.report b k n d st).rcu = s.rcu := rfl
@[simp] theorem report_evu (s : State) (b : Block) (k : EventKind) (n d : Nat) (st : Option (BitVec 32)) :
    (s.report b k n d st).evu = s.evu := rfl
@[simp] theorem report_mail (s : State) (b : Block) (k : EventKind) (n d : Nat) (st : Option (BitVec 32)) :
    (s.report b k n d st).mail =
      { s.mail with reports := s.mail.reports ++ [(b, ⟨k, n, d, st⟩)] } := rfl
@[simp] theorem report_pending (s : State) (b : Block) (k : EventKind) (n d : Nat) (st : Option (BitVec 32)) :
    (s.report b k n d st).pending = s.pending := rfl

@[simp] theorem stateNotice_msel (s : State) (l : Link) (x : LinkState) :
    (s.stateNotice l x).msel = s.msel := rfl
@[simp] theorem stateNotice_unit (s : State) (l : Link) (x : LinkState) :
    (s.stateNotice l x).unit = s.unit := rfl
@[simp] theorem stateNotice_lp (s : State) (l : Link) (x : LinkState) :
    (s.stateNotice l x).lp = s.lp := rfl
@[simp] theorem stateNotice_mgu (s : State) (l : Link) (x : LinkState) :
    (s.stateNotice l x).mgu = s.mgu := rfl
@[simp] theorem stateNotice_reu (s : State) (l : Link) (x : LinkState) :
    (s.stateNotice l x).reu = s.reu := rfl
@[simp] theorem stateNotice_fe (s : State) (l : Link) (x : LinkState) :
    (s.stateNotice l x).fe = s.fe := rfl
@[simp] theorem stateNotice_sst (s : State) (l : Link) (x : LinkState) :
    (s.stateNotice l x).sst = s.sst := rfl
@[simp] theorem stateNotice_plb (s : State) (l : Link) (x : LinkState) :
    (s.stateNotice l x).plb = s.plb := rfl
@[simp] theorem stateNotice_rcu (s : State) (l : Link) (x : LinkState) :
    (s.stateNotice l x).rcu = s.rcu := rfl
@[simp] theorem stateNotice_evu (s : State) (l : Link) (x : LinkState) :
    (s.stateNotice l x).evu = s.evu := rfl
@[simp] theorem stateNotice_mail (s : State) (l : Link) (x : LinkState) :
    (s.stateNotice l x).mail =
      { s.mail with stateNotices := updAt s.mail.stateNotices l (· ++ [x]) } := rfl
@[simp] theorem stateNotice_pending (s : State) (l : Link) (x : LinkState) :
    (s.stateNotice l x).pending = s.pending := rfl

@[simp] theorem completion_msel (s : State) (l : Link) : (s.completion l).msel = s.msel := rfl
@[simp] theorem completion_unit (s : State) (l : Link) : (s.completion l).unit = s.unit := rfl
@[simp] theorem completion_lp (s : State) (l : Link) : (s.completion l).lp = s.lp := rfl
@[simp] theorem completion_mgu (s : State) (l : Link) : (s.completion l).mgu = s.mgu := rfl
@[simp] theorem completion_reu (s : State) (l : Link) : (s.completion l).reu = s.reu := rfl
@[simp] theorem completion_fe (s : State) (l : Link) : (s.completion l).fe = s.fe := rfl
@[simp] theorem completion_sst (s : State) (l : Link) : (s.completion l).sst = s.sst := rfl
@[simp] theorem completion_plb (s : State) (l : Link) : (s.completion l).plb = s.plb := rfl
@[simp] theorem completion_rcu (s : State) (l : Link) : (s.completion l).rcu = s.rcu := rfl
@[simp] theorem completion_evu (s : State) (l : Link) : (s.completion l).evu = s.evu := rfl
@[simp] theorem completion_mail (s : State) (l : Link) :
    (s.completion l).mail = { s.mail with completions := updAt s.mail.completions l (· + 1) } := rfl
@[simp] theorem completion_pending (s : State) (l : Link) :
    (s.completion l).pending = s.pending := rfl

@[simp] theorem viewNotice_msel (s : State) (l : Link) (v : View) :
    (s.viewNotice l v).msel = s.msel := rfl
@[simp] theorem viewNotice_unit (s : State) (l : Link) (v : View) :
    (s.viewNotice l v).unit = s.unit := rfl
@[simp] theorem viewNotice_lp (s : State) (l : Link) (v : View) :
    (s.viewNotice l v).lp = s.lp := rfl
@[simp] theorem viewNotice_mgu (s : State) (l : Link) (v : View) :
    (s.viewNotice l v).mgu = s.mgu := rfl
@[simp] theorem viewNotice_reu (s : State) (l : Link) (v : View) :
    (s.viewNotice l v).reu = s.reu := rfl
@[simp] theorem viewNotice_fe (s : State) (l : Link) (v : View) :
    (s.viewNotice l v).fe = s.fe := rfl
@[simp] theorem viewNotice_sst (s : State) (l : Link) (v : View) :
    (s.viewNotice l v).sst = s.sst := rfl
@[simp] theorem viewNotice_plb (s : State) (l : Link) (v : View) :
    (s.viewNotice l v).plb = s.plb := rfl
@[simp] theorem viewNotice_rcu (s : State) (l : Link) (v : View) :
    (s.viewNotice l v).rcu = s.rcu := rfl
@[simp] theorem viewNotice_evu (s : State) (l : Link) (v : View) :
    (s.viewNotice l v).evu = s.evu := rfl
@[simp] theorem viewNotice_mail (s : State) (l : Link) (v : View) :
    (s.viewNotice l v).mail =
      { s.mail with viewNotices := updAt s.mail.viewNotices l (· ++ [v]) } := rfl
@[simp] theorem viewNotice_pending (s : State) (l : Link) (v : View) :
    (s.viewNotice l v).pending = s.pending := rfl

@[simp] theorem toMgu_msel (s : State) (l : Link) (ms : List LpMsg) :
    (s.toMgu l ms).msel = s.msel := rfl
@[simp] theorem toMgu_unit (s : State) (l : Link) (ms : List LpMsg) :
    (s.toMgu l ms).unit = s.unit := rfl
@[simp] theorem toMgu_lp (s : State) (l : Link) (ms : List LpMsg) : (s.toMgu l ms).lp = s.lp := rfl
@[simp] theorem toMgu_mgu (s : State) (l : Link) (ms : List LpMsg) :
    (s.toMgu l ms).mgu = s.mgu := rfl
@[simp] theorem toMgu_reu (s : State) (l : Link) (ms : List LpMsg) :
    (s.toMgu l ms).reu = s.reu := rfl
@[simp] theorem toMgu_fe (s : State) (l : Link) (ms : List LpMsg) : (s.toMgu l ms).fe = s.fe := rfl
@[simp] theorem toMgu_sst (s : State) (l : Link) (ms : List LpMsg) :
    (s.toMgu l ms).sst = s.sst := rfl
@[simp] theorem toMgu_plb (s : State) (l : Link) (ms : List LpMsg) :
    (s.toMgu l ms).plb = s.plb := rfl
@[simp] theorem toMgu_rcu (s : State) (l : Link) (ms : List LpMsg) :
    (s.toMgu l ms).rcu = s.rcu := rfl
@[simp] theorem toMgu_evu (s : State) (l : Link) (ms : List LpMsg) :
    (s.toMgu l ms).evu = s.evu := rfl
@[simp] theorem toMgu_mail (s : State) (l : Link) (ms : List LpMsg) :
    (s.toMgu l ms).mail =
      { s.mail with lpToMgu := s.mail.lpToMgu ++ ms.map fun x => (l, x) } := rfl
@[simp] theorem toMgu_pending (s : State) (l : Link) (ms : List LpMsg) :
    (s.toMgu l ms).pending = s.pending := rfl

@[simp] theorem lossNotice_msel (s : State) (l : Link) : (s.lossNotice l).msel = s.msel := rfl
@[simp] theorem lossNotice_unit (s : State) (l : Link) : (s.lossNotice l).unit = s.unit := rfl
@[simp] theorem lossNotice_lp (s : State) (l : Link) : (s.lossNotice l).lp = s.lp := rfl
@[simp] theorem lossNotice_mgu (s : State) (l : Link) : (s.lossNotice l).mgu = s.mgu := rfl
@[simp] theorem lossNotice_reu (s : State) (l : Link) : (s.lossNotice l).reu = s.reu := rfl
@[simp] theorem lossNotice_fe (s : State) (l : Link) : (s.lossNotice l).fe = s.fe := rfl
@[simp] theorem lossNotice_sst (s : State) (l : Link) : (s.lossNotice l).sst = s.sst := rfl
@[simp] theorem lossNotice_plb (s : State) (l : Link) : (s.lossNotice l).plb = s.plb := rfl
@[simp] theorem lossNotice_rcu (s : State) (l : Link) : (s.lossNotice l).rcu = s.rcu := rfl
@[simp] theorem lossNotice_evu (s : State) (l : Link) : (s.lossNotice l).evu = s.evu := rfl
@[simp] theorem lossNotice_mail (s : State) (l : Link) :
    (s.lossNotice l).mail = { s.mail with lossNotices := updAt s.mail.lossNotices l (· + 1) } := rfl
@[simp] theorem lossNotice_pending (s : State) (l : Link) :
    (s.lossNotice l).pending = s.pending := rfl

@[simp] theorem useNotice_msel (s : State) (l : Link) (u : Bool) :
    (s.useNotice l u).msel = s.msel := rfl
@[simp] theorem useNotice_unit (s : State) (l : Link) (u : Bool) :
    (s.useNotice l u).unit = s.unit := rfl
@[simp] theorem useNotice_lp (s : State) (l : Link) (u : Bool) : (s.useNotice l u).lp = s.lp := rfl
@[simp] theorem useNotice_mgu (s : State) (l : Link) (u : Bool) :
    (s.useNotice l u).mgu = s.mgu := rfl
@[simp] theorem useNotice_reu (s : State) (l : Link) (u : Bool) :
    (s.useNotice l u).reu = s.reu := rfl
@[simp] theorem useNotice_fe (s : State) (l : Link) (u : Bool) : (s.useNotice l u).fe = s.fe := rfl
@[simp] theorem useNotice_sst (s : State) (l : Link) (u : Bool) :
    (s.useNotice l u).sst = s.sst := rfl
@[simp] theorem useNotice_plb (s : State) (l : Link) (u : Bool) :
    (s.useNotice l u).plb = s.plb := rfl
@[simp] theorem useNotice_rcu (s : State) (l : Link) (u : Bool) :
    (s.useNotice l u).rcu = s.rcu := rfl
@[simp] theorem useNotice_evu (s : State) (l : Link) (u : Bool) :
    (s.useNotice l u).evu = s.evu := rfl
@[simp] theorem useNotice_mail (s : State) (l : Link) (u : Bool) :
    (s.useNotice l u).mail =
      { s.mail with useNotices := updAt s.mail.useNotices l (· ++ [u]) } := rfl
@[simp] theorem useNotice_pending (s : State) (l : Link) (u : Bool) :
    (s.useNotice l u).pending = s.pending := rfl

@[simp] theorem counterNotice_msel (s : State) (c : BitVec 32) :
    (s.counterNotice c).msel = s.msel := rfl
@[simp] theorem counterNotice_unit (s : State) (c : BitVec 32) :
    (s.counterNotice c).unit = s.unit := rfl
@[simp] theorem counterNotice_lp (s : State) (c : BitVec 32) : (s.counterNotice c).lp = s.lp := rfl
@[simp] theorem counterNotice_mgu (s : State) (c : BitVec 32) :
    (s.counterNotice c).mgu = s.mgu := rfl
@[simp] theorem counterNotice_reu (s : State) (c : BitVec 32) :
    (s.counterNotice c).reu = s.reu := rfl
@[simp] theorem counterNotice_fe (s : State) (c : BitVec 32) : (s.counterNotice c).fe = s.fe := rfl
@[simp] theorem counterNotice_sst (s : State) (c : BitVec 32) :
    (s.counterNotice c).sst = s.sst := rfl
@[simp] theorem counterNotice_plb (s : State) (c : BitVec 32) :
    (s.counterNotice c).plb = s.plb := rfl
@[simp] theorem counterNotice_rcu (s : State) (c : BitVec 32) :
    (s.counterNotice c).rcu = s.rcu := rfl
@[simp] theorem counterNotice_evu (s : State) (c : BitVec 32) :
    (s.counterNotice c).evu = s.evu := rfl
@[simp] theorem counterNotice_mail (s : State) (c : BitVec 32) :
    (s.counterNotice c).mail = { s.mail with counterNotices := s.mail.counterNotices ++ [c] } := rfl
@[simp] theorem counterNotice_pending (s : State) (c : BitVec 32) :
    (s.counterNotice c).pending = s.pending := rfl

@[simp] theorem fate_msel (s : State) (f : Fate) : (s.fate f).msel = s.msel := rfl
@[simp] theorem fate_unit (s : State) (f : Fate) : (s.fate f).unit = s.unit := rfl
@[simp] theorem fate_lp (s : State) (f : Fate) : (s.fate f).lp = s.lp := rfl
@[simp] theorem fate_mgu (s : State) (f : Fate) : (s.fate f).mgu = s.mgu := rfl
@[simp] theorem fate_reu (s : State) (f : Fate) : (s.fate f).reu = s.reu := rfl
@[simp] theorem fate_fe (s : State) (f : Fate) : (s.fate f).fe = s.fe := rfl
@[simp] theorem fate_sst (s : State) (f : Fate) : (s.fate f).sst = s.sst := rfl
@[simp] theorem fate_plb (s : State) (f : Fate) : (s.fate f).plb = s.plb := rfl
@[simp] theorem fate_rcu (s : State) (f : Fate) : (s.fate f).rcu = s.rcu := rfl
@[simp] theorem fate_evu (s : State) (f : Fate) : (s.fate f).evu = s.evu := rfl
@[simp] theorem fate_mail (s : State) (f : Fate) :
    (s.fate f).mail = { s.mail with fates := s.mail.fates ++ [f] } := rfl
@[simp] theorem fate_pending (s : State) (f : Fate) : (s.fate f).pending = s.pending := rfl

@[simp] theorem toSstFromPlb_msel (s : State) (ms : List PlbMsg) :
    (s.toSstFromPlb ms).msel = s.msel := rfl
@[simp] theorem toSstFromPlb_unit (s : State) (ms : List PlbMsg) :
    (s.toSstFromPlb ms).unit = s.unit := rfl
@[simp] theorem toSstFromPlb_lp (s : State) (ms : List PlbMsg) :
    (s.toSstFromPlb ms).lp = s.lp := rfl
@[simp] theorem toSstFromPlb_mgu (s : State) (ms : List PlbMsg) :
    (s.toSstFromPlb ms).mgu = s.mgu := rfl
@[simp] theorem toSstFromPlb_reu (s : State) (ms : List PlbMsg) :
    (s.toSstFromPlb ms).reu = s.reu := rfl
@[simp] theorem toSstFromPlb_fe (s : State) (ms : List PlbMsg) :
    (s.toSstFromPlb ms).fe = s.fe := rfl
@[simp] theorem toSstFromPlb_sst (s : State) (ms : List PlbMsg) :
    (s.toSstFromPlb ms).sst = s.sst := rfl
@[simp] theorem toSstFromPlb_plb (s : State) (ms : List PlbMsg) :
    (s.toSstFromPlb ms).plb = s.plb := rfl
@[simp] theorem toSstFromPlb_rcu (s : State) (ms : List PlbMsg) :
    (s.toSstFromPlb ms).rcu = s.rcu := rfl
@[simp] theorem toSstFromPlb_evu (s : State) (ms : List PlbMsg) :
    (s.toSstFromPlb ms).evu = s.evu := rfl
@[simp] theorem toSstFromPlb_mail (s : State) (ms : List PlbMsg) :
    (s.toSstFromPlb ms).mail = { s.mail with plbToSst := s.mail.plbToSst ++ ms } := rfl
@[simp] theorem toSstFromPlb_pending (s : State) (ms : List PlbMsg) :
    (s.toSstFromPlb ms).pending = s.pending := rfl

@[simp] theorem toSstFromRcu_msel (s : State) (ms : List RcuMsg) :
    (s.toSstFromRcu ms).msel = s.msel := rfl
@[simp] theorem toSstFromRcu_unit (s : State) (ms : List RcuMsg) :
    (s.toSstFromRcu ms).unit = s.unit := rfl
@[simp] theorem toSstFromRcu_lp (s : State) (ms : List RcuMsg) :
    (s.toSstFromRcu ms).lp = s.lp := rfl
@[simp] theorem toSstFromRcu_mgu (s : State) (ms : List RcuMsg) :
    (s.toSstFromRcu ms).mgu = s.mgu := rfl
@[simp] theorem toSstFromRcu_reu (s : State) (ms : List RcuMsg) :
    (s.toSstFromRcu ms).reu = s.reu := rfl
@[simp] theorem toSstFromRcu_fe (s : State) (ms : List RcuMsg) :
    (s.toSstFromRcu ms).fe = s.fe := rfl
@[simp] theorem toSstFromRcu_sst (s : State) (ms : List RcuMsg) :
    (s.toSstFromRcu ms).sst = s.sst := rfl
@[simp] theorem toSstFromRcu_plb (s : State) (ms : List RcuMsg) :
    (s.toSstFromRcu ms).plb = s.plb := rfl
@[simp] theorem toSstFromRcu_rcu (s : State) (ms : List RcuMsg) :
    (s.toSstFromRcu ms).rcu = s.rcu := rfl
@[simp] theorem toSstFromRcu_evu (s : State) (ms : List RcuMsg) :
    (s.toSstFromRcu ms).evu = s.evu := rfl
@[simp] theorem toSstFromRcu_mail (s : State) (ms : List RcuMsg) :
    (s.toSstFromRcu ms).mail = { s.mail with rcuToSst := s.mail.rcuToSst ++ ms } := rfl
@[simp] theorem toSstFromRcu_pending (s : State) (ms : List RcuMsg) :
    (s.toSstFromRcu ms).pending = s.pending := rfl

@[simp] theorem ackReset_msel (s : State) (b : Block) : (s.ackReset b).msel = s.msel := rfl
@[simp] theorem ackReset_unit (s : State) (b : Block) : (s.ackReset b).unit = s.unit := rfl
@[simp] theorem ackReset_lp (s : State) (b : Block) : (s.ackReset b).lp = s.lp := rfl
@[simp] theorem ackReset_mgu (s : State) (b : Block) : (s.ackReset b).mgu = s.mgu := rfl
@[simp] theorem ackReset_reu (s : State) (b : Block) : (s.ackReset b).reu = s.reu := rfl
@[simp] theorem ackReset_fe (s : State) (b : Block) : (s.ackReset b).fe = s.fe := rfl
@[simp] theorem ackReset_sst (s : State) (b : Block) : (s.ackReset b).sst = s.sst := rfl
@[simp] theorem ackReset_plb (s : State) (b : Block) : (s.ackReset b).plb = s.plb := rfl
@[simp] theorem ackReset_rcu (s : State) (b : Block) : (s.ackReset b).rcu = s.rcu := rfl
@[simp] theorem ackReset_evu (s : State) (b : Block) : (s.ackReset b).evu = s.evu := rfl
@[simp] theorem ackReset_mail (s : State) (b : Block) :
    (s.ackReset b).mail = { s.mail with acks := s.mail.acks ++ [b] } := rfl
@[simp] theorem ackReset_pending (s : State) (b : Block) : (s.ackReset b).pending = s.pending := rfl

@[simp] theorem handReset_msel (s : State) (o : ResetOrder) : (s.handReset o).msel = s.msel := rfl
@[simp] theorem handReset_unit (s : State) (o : ResetOrder) : (s.handReset o).unit = s.unit := rfl
@[simp] theorem handReset_lp (s : State) (o : ResetOrder) : (s.handReset o).lp = s.lp := rfl
@[simp] theorem handReset_mgu (s : State) (o : ResetOrder) : (s.handReset o).mgu = s.mgu := rfl
@[simp] theorem handReset_reu (s : State) (o : ResetOrder) : (s.handReset o).reu = s.reu := rfl
@[simp] theorem handReset_fe (s : State) (o : ResetOrder) : (s.handReset o).fe = s.fe := rfl
@[simp] theorem handReset_sst (s : State) (o : ResetOrder) : (s.handReset o).sst = s.sst := rfl
@[simp] theorem handReset_plb (s : State) (o : ResetOrder) : (s.handReset o).plb = s.plb := rfl
@[simp] theorem handReset_rcu (s : State) (o : ResetOrder) : (s.handReset o).rcu = s.rcu := rfl
@[simp] theorem handReset_evu (s : State) (o : ResetOrder) : (s.handReset o).evu = s.evu := rfl
@[simp] theorem handReset_mail (s : State) (o : ResetOrder) :
    (s.handReset o).mail = { s.mail with resets := s.mail.resets ++ [o] } := rfl
@[simp] theorem handReset_pending (s : State) (o : ResetOrder) :
    (s.handReset o).pending = s.pending := rfl

@[simp] theorem answer_msel (s : State) (b : Block) (r : Req) (c : ResultCode) (body : List Byte) (d : Option Deferred) :
    (s.answer b r c body d).msel = s.msel := rfl
@[simp] theorem answer_unit (s : State) (b : Block) (r : Req) (c : ResultCode) (body : List Byte) (d : Option Deferred) :
    (s.answer b r c body d).unit = s.unit := rfl
@[simp] theorem answer_lp (s : State) (b : Block) (r : Req) (c : ResultCode) (body : List Byte) (d : Option Deferred) :
    (s.answer b r c body d).lp = s.lp := rfl
@[simp] theorem answer_mgu (s : State) (b : Block) (r : Req) (c : ResultCode) (body : List Byte) (d : Option Deferred) :
    (s.answer b r c body d).mgu = s.mgu := rfl
@[simp] theorem answer_reu (s : State) (b : Block) (r : Req) (c : ResultCode) (body : List Byte) (d : Option Deferred) :
    (s.answer b r c body d).reu = s.reu := rfl
@[simp] theorem answer_fe (s : State) (b : Block) (r : Req) (c : ResultCode) (body : List Byte) (d : Option Deferred) :
    (s.answer b r c body d).fe = s.fe := rfl
@[simp] theorem answer_sst (s : State) (b : Block) (r : Req) (c : ResultCode) (body : List Byte) (d : Option Deferred) :
    (s.answer b r c body d).sst = s.sst := rfl
@[simp] theorem answer_plb (s : State) (b : Block) (r : Req) (c : ResultCode) (body : List Byte) (d : Option Deferred) :
    (s.answer b r c body d).plb = s.plb := rfl
@[simp] theorem answer_rcu (s : State) (b : Block) (r : Req) (c : ResultCode) (body : List Byte) (d : Option Deferred) :
    (s.answer b r c body d).rcu = s.rcu := rfl
@[simp] theorem answer_evu (s : State) (b : Block) (r : Req) (c : ResultCode) (body : List Byte) (d : Option Deferred) :
    (s.answer b r c body d).evu = s.evu := rfl
@[simp] theorem answer_mail (s : State) (b : Block) (r : Req) (c : ResultCode) (body : List Byte) (d : Option Deferred) :
    (s.answer b r c body d).mail =
      { s.mail with results := s.mail.results ++ [(b, ⟨r.ref, c, body, d⟩)] } := rfl
@[simp] theorem answer_pending (s : State) (b : Block) (r : Req) (c : ResultCode) (body : List Byte) (d : Option Deferred) :
    (s.answer b r c body d).pending = s.pending := rfl

@[simp] theorem badField_msel (s : State) (b : Block) (r : Req) (n : Nat) :
    (s.badField b r n).msel = s.msel := rfl
@[simp] theorem badField_unit (s : State) (b : Block) (r : Req) (n : Nat) :
    (s.badField b r n).unit = s.unit := rfl
@[simp] theorem badField_lp (s : State) (b : Block) (r : Req) (n : Nat) :
    (s.badField b r n).lp = s.lp := rfl
@[simp] theorem badField_mgu (s : State) (b : Block) (r : Req) (n : Nat) :
    (s.badField b r n).mgu = s.mgu := rfl
@[simp] theorem badField_reu (s : State) (b : Block) (r : Req) (n : Nat) :
    (s.badField b r n).reu = s.reu := rfl
@[simp] theorem badField_fe (s : State) (b : Block) (r : Req) (n : Nat) :
    (s.badField b r n).fe = s.fe := rfl
@[simp] theorem badField_sst (s : State) (b : Block) (r : Req) (n : Nat) :
    (s.badField b r n).sst = s.sst := rfl
@[simp] theorem badField_plb (s : State) (b : Block) (r : Req) (n : Nat) :
    (s.badField b r n).plb = s.plb := rfl
@[simp] theorem badField_rcu (s : State) (b : Block) (r : Req) (n : Nat) :
    (s.badField b r n).rcu = s.rcu := rfl
@[simp] theorem badField_evu (s : State) (b : Block) (r : Req) (n : Nat) :
    (s.badField b r n).evu = s.evu := rfl
@[simp] theorem badField_mail (s : State) (b : Block) (r : Req) (n : Nat) :
    (s.badField b r n).mail =
      { s.mail with results := s.mail.results ++ [(b, ⟨r.ref, .badField, u8 n, none⟩)] } := rfl
@[simp] theorem badField_pending (s : State) (b : Block) (r : Req) (n : Nat) :
    (s.badField b r n).pending = s.pending := rfl

@[simp] theorem queryEvents_msel (s : State) : (s.queryEvents).msel = s.msel := rfl
@[simp] theorem queryEvents_unit (s : State) : (s.queryEvents).unit = s.unit := rfl
@[simp] theorem queryEvents_lp (s : State) : (s.queryEvents).lp = s.lp := rfl
@[simp] theorem queryEvents_mgu (s : State) :
    (s.queryEvents).mgu = { s.mgu with eventsWaiting := s.evu.events.length } := rfl
@[simp] theorem queryEvents_reu (s : State) : (s.queryEvents).reu = s.reu := rfl
@[simp] theorem queryEvents_fe (s : State) : (s.queryEvents).fe = s.fe := rfl
@[simp] theorem queryEvents_sst (s : State) : (s.queryEvents).sst = s.sst := rfl
@[simp] theorem queryEvents_plb (s : State) : (s.queryEvents).plb = s.plb := rfl
@[simp] theorem queryEvents_rcu (s : State) : (s.queryEvents).rcu = s.rcu := rfl
@[simp] theorem queryEvents_evu (s : State) : (s.queryEvents).evu = s.evu := rfl
@[simp] theorem queryEvents_mail (s : State) : (s.queryEvents).mail = s.mail := rfl
@[simp] theorem queryEvents_pending (s : State) : (s.queryEvents).pending = s.pending := rfl

@[simp] theorem accept_msel (s : State) (l : Link) (x : Place) (r : Option Ref) (os : List Byte) :
    (s.accept l x r os).msel = s.msel := rfl
@[simp] theorem accept_unit (s : State) (l : Link) (x : Place) (r : Option Ref) (os : List Byte) :
    (s.accept l x r os).unit = s.unit := rfl
@[simp] theorem accept_lp (s : State) (l : Link) (x : Place) (r : Option Ref) (os : List Byte) :
    (s.accept l x r os).lp =
      updAt s.lp l fun p => { p with txq := p.txq ++ [⟨x, r, withCheck os⟩] } := rfl
@[simp] theorem accept_mgu (s : State) (l : Link) (x : Place) (r : Option Ref) (os : List Byte) :
    (s.accept l x r os).mgu = s.mgu := rfl
@[simp] theorem accept_reu (s : State) (l : Link) (x : Place) (r : Option Ref) (os : List Byte) :
    (s.accept l x r os).reu = s.reu := rfl
@[simp] theorem accept_fe (s : State) (l : Link) (x : Place) (r : Option Ref) (os : List Byte) :
    (s.accept l x r os).fe = s.fe := rfl
@[simp] theorem accept_sst (s : State) (l : Link) (x : Place) (r : Option Ref) (os : List Byte) :
    (s.accept l x r os).sst = s.sst := rfl
@[simp] theorem accept_plb (s : State) (l : Link) (x : Place) (r : Option Ref) (os : List Byte) :
    (s.accept l x r os).plb = s.plb := rfl
@[simp] theorem accept_rcu (s : State) (l : Link) (x : Place) (r : Option Ref) (os : List Byte) :
    (s.accept l x r os).rcu = s.rcu := rfl
@[simp] theorem accept_evu (s : State) (l : Link) (x : Place) (r : Option Ref) (os : List Byte) :
    (s.accept l x r os).evu = s.evu := rfl
@[simp] theorem accept_mail (s : State) (l : Link) (x : Place) (r : Option Ref) (os : List Byte) :
    (s.accept l x r os).mail = s.mail := rfl
@[simp] theorem accept_pending (s : State) (l : Link) (x : Place) (r : Option Ref) (os : List Byte) :
    (s.accept l x r os).pending = s.pending := rfl

@[simp] theorem setClaim_msel (s : State) (c : Option Claim) : (s.setClaim c).msel = s.msel := rfl
@[simp] theorem setClaim_unit (s : State) (c : Option Claim) : (s.setClaim c).unit = s.unit := rfl
@[simp] theorem setClaim_lp (s : State) (c : Option Claim) : (s.setClaim c).lp = s.lp := rfl
@[simp] theorem setClaim_mgu (s : State) (c : Option Claim) : (s.setClaim c).mgu = s.mgu := rfl
@[simp] theorem setClaim_reu (s : State) (c : Option Claim) :
    (s.setClaim c).reu = { s.reu with claim := c } := rfl
@[simp] theorem setClaim_fe (s : State) (c : Option Claim) : (s.setClaim c).fe = s.fe := rfl
@[simp] theorem setClaim_sst (s : State) (c : Option Claim) : (s.setClaim c).sst = s.sst := rfl
@[simp] theorem setClaim_plb (s : State) (c : Option Claim) : (s.setClaim c).plb = s.plb := rfl
@[simp] theorem setClaim_rcu (s : State) (c : Option Claim) : (s.setClaim c).rcu = s.rcu := rfl
@[simp] theorem setClaim_evu (s : State) (c : Option Claim) : (s.setClaim c).evu = s.evu := rfl
@[simp] theorem setClaim_mail (s : State) (c : Option Claim) : (s.setClaim c).mail = s.mail := rfl
@[simp] theorem setClaim_pending (s : State) (c : Option Claim) :
    (s.setClaim c).pending = s.pending := rfl

@[simp] theorem askFe_msel (s : State) (t : Txn) (a : Ask) : (s.askFe t a).msel = s.msel := rfl
@[simp] theorem askFe_unit (s : State) (t : Txn) (a : Ask) : (s.askFe t a).unit = s.unit := rfl
@[simp] theorem askFe_lp (s : State) (t : Txn) (a : Ask) : (s.askFe t a).lp = s.lp := rfl
@[simp] theorem askFe_mgu (s : State) (t : Txn) (a : Ask) : (s.askFe t a).mgu = s.mgu := rfl
@[simp] theorem askFe_reu (s : State) (t : Txn) (a : Ask) :
    (s.askFe t a).reu = { s.reu with txn := some t } := rfl
@[simp] theorem askFe_fe (s : State) (t : Txn) (a : Ask) : (s.askFe t a).fe = s.fe := rfl
@[simp] theorem askFe_sst (s : State) (t : Txn) (a : Ask) : (s.askFe t a).sst = s.sst := rfl
@[simp] theorem askFe_plb (s : State) (t : Txn) (a : Ask) : (s.askFe t a).plb = s.plb := rfl
@[simp] theorem askFe_rcu (s : State) (t : Txn) (a : Ask) : (s.askFe t a).rcu = s.rcu := rfl
@[simp] theorem askFe_evu (s : State) (t : Txn) (a : Ask) : (s.askFe t a).evu = s.evu := rfl
@[simp] theorem askFe_mail (s : State) (t : Txn) (a : Ask) :
    (s.askFe t a).mail = { s.mail with reuAsk := some a } := rfl
@[simp] theorem askFe_pending (s : State) (t : Txn) (a : Ask) :
    (s.askFe t a).pending = s.pending := rfl

@[simp] theorem endTxn_msel (s : State) : (s.endTxn).msel = s.msel := rfl
@[simp] theorem endTxn_unit (s : State) : (s.endTxn).unit = s.unit := rfl
@[simp] theorem endTxn_lp (s : State) : (s.endTxn).lp = s.lp := rfl
@[simp] theorem endTxn_mgu (s : State) : (s.endTxn).mgu = s.mgu := rfl
@[simp] theorem endTxn_reu (s : State) : (s.endTxn).reu = { s.reu with txn := none } := rfl
@[simp] theorem endTxn_fe (s : State) : (s.endTxn).fe = s.fe := rfl
@[simp] theorem endTxn_sst (s : State) : (s.endTxn).sst = s.sst := rfl
@[simp] theorem endTxn_plb (s : State) : (s.endTxn).plb = s.plb := rfl
@[simp] theorem endTxn_rcu (s : State) : (s.endTxn).rcu = s.rcu := rfl
@[simp] theorem endTxn_evu (s : State) : (s.endTxn).evu = s.evu := rfl
@[simp] theorem endTxn_mail (s : State) : (s.endTxn).mail = { s.mail with feAnswer := none } := rfl
@[simp] theorem endTxn_pending (s : State) : (s.endTxn).pending = s.pending := rfl

@[simp] theorem answerReu_msel (s : State) (a : FeAnswer) : (s.answerReu a).msel = s.msel := rfl
@[simp] theorem answerReu_unit (s : State) (a : FeAnswer) : (s.answerReu a).unit = s.unit := rfl
@[simp] theorem answerReu_lp (s : State) (a : FeAnswer) : (s.answerReu a).lp = s.lp := rfl
@[simp] theorem answerReu_mgu (s : State) (a : FeAnswer) : (s.answerReu a).mgu = s.mgu := rfl
@[simp] theorem answerReu_reu (s : State) (a : FeAnswer) : (s.answerReu a).reu = s.reu := rfl
@[simp] theorem answerReu_fe (s : State) (a : FeAnswer) : (s.answerReu a).fe = s.fe := rfl
@[simp] theorem answerReu_sst (s : State) (a : FeAnswer) : (s.answerReu a).sst = s.sst := rfl
@[simp] theorem answerReu_plb (s : State) (a : FeAnswer) : (s.answerReu a).plb = s.plb := rfl
@[simp] theorem answerReu_rcu (s : State) (a : FeAnswer) : (s.answerReu a).rcu = s.rcu := rfl
@[simp] theorem answerReu_evu (s : State) (a : FeAnswer) : (s.answerReu a).evu = s.evu := rfl
@[simp] theorem answerReu_mail (s : State) (a : FeAnswer) :
    (s.answerReu a).mail = { s.mail with reuAsk := none, feAnswer := some a } := rfl
@[simp] theorem answerReu_pending (s : State) (a : FeAnswer) :
    (s.answerReu a).pending = s.pending := rfl

@[simp] theorem dropRcu_msel (s : State) : (s.dropRcu).msel = s.msel := rfl
@[simp] theorem dropRcu_unit (s : State) : (s.dropRcu).unit = s.unit := rfl
@[simp] theorem dropRcu_lp (s : State) : (s.dropRcu).lp = s.lp := rfl
@[simp] theorem dropRcu_mgu (s : State) : (s.dropRcu).mgu = s.mgu := rfl
@[simp] theorem dropRcu_reu (s : State) : (s.dropRcu).reu = s.reu := rfl
@[simp] theorem dropRcu_fe (s : State) : (s.dropRcu).fe = s.fe := rfl
@[simp] theorem dropRcu_sst (s : State) : (s.dropRcu).sst = s.sst := rfl
@[simp] theorem dropRcu_plb (s : State) : (s.dropRcu).plb = s.plb := rfl
@[simp] theorem dropRcu_rcu (s : State) : (s.dropRcu).rcu = s.rcu := rfl
@[simp] theorem dropRcu_evu (s : State) : (s.dropRcu).evu = s.evu := rfl
@[simp] theorem dropRcu_mail (s : State) :
    (s.dropRcu).mail = { s.mail with rcuToSst := s.mail.rcuToSst.tail } := rfl
@[simp] theorem dropRcu_pending (s : State) : (s.dropRcu).pending = s.pending := rfl

@[simp] theorem setRegion_msel (s : State) (r : Rec) (f : Option Region → Option Region) :
    (s.setRegion r f).msel = s.msel := rfl
@[simp] theorem setRegion_unit (s : State) (r : Rec) (f : Option Region → Option Region) :
    (s.setRegion r f).unit = s.unit := rfl
@[simp] theorem setRegion_lp (s : State) (r : Rec) (f : Option Region → Option Region) :
    (s.setRegion r f).lp = s.lp := rfl
@[simp] theorem setRegion_mgu (s : State) (r : Rec) (f : Option Region → Option Region) :
    (s.setRegion r f).mgu = s.mgu := rfl
@[simp] theorem setRegion_reu (s : State) (r : Rec) (f : Option Region → Option Region) :
    (s.setRegion r f).reu = s.reu := rfl
@[simp] theorem setRegion_fe (s : State) (r : Rec) (f : Option Region → Option Region) :
    (s.setRegion r f).fe = s.fe := rfl
@[simp] theorem setRegion_sst (s : State) (r : Rec) (f : Option Region → Option Region) :
    (s.setRegion r f).sst = { s.sst with regions := updAt s.sst.regions r f } := rfl
@[simp] theorem setRegion_plb (s : State) (r : Rec) (f : Option Region → Option Region) :
    (s.setRegion r f).plb = s.plb := rfl
@[simp] theorem setRegion_rcu (s : State) (r : Rec) (f : Option Region → Option Region) :
    (s.setRegion r f).rcu = s.rcu := rfl
@[simp] theorem setRegion_evu (s : State) (r : Rec) (f : Option Region → Option Region) :
    (s.setRegion r f).evu = s.evu := rfl
@[simp] theorem setRegion_mail (s : State) (r : Rec) (f : Option Region → Option Region) :
    (s.setRegion r f).mail = s.mail := rfl
@[simp] theorem setRegion_pending (s : State) (r : Rec) (f : Option Region → Option Region) :
    (s.setRegion r f).pending = s.pending := rfl

@[simp] theorem setClip_msel (s : State) (i : Fin 32) (c : Option Clip) :
    (s.setClip i c).msel = s.msel := rfl
@[simp] theorem setClip_unit (s : State) (i : Fin 32) (c : Option Clip) :
    (s.setClip i c).unit = s.unit := rfl
@[simp] theorem setClip_lp (s : State) (i : Fin 32) (c : Option Clip) :
    (s.setClip i c).lp = s.lp := rfl
@[simp] theorem setClip_mgu (s : State) (i : Fin 32) (c : Option Clip) :
    (s.setClip i c).mgu = s.mgu := rfl
@[simp] theorem setClip_reu (s : State) (i : Fin 32) (c : Option Clip) :
    (s.setClip i c).reu = s.reu := rfl
@[simp] theorem setClip_fe (s : State) (i : Fin 32) (c : Option Clip) :
    (s.setClip i c).fe = s.fe := rfl
@[simp] theorem setClip_sst (s : State) (i : Fin 32) (c : Option Clip) :
    (s.setClip i c).sst = { s.sst with clips := updAt s.sst.clips i fun _ => c } := rfl
@[simp] theorem setClip_plb (s : State) (i : Fin 32) (c : Option Clip) :
    (s.setClip i c).plb = s.plb := rfl
@[simp] theorem setClip_rcu (s : State) (i : Fin 32) (c : Option Clip) :
    (s.setClip i c).rcu = s.rcu := rfl
@[simp] theorem setClip_evu (s : State) (i : Fin 32) (c : Option Clip) :
    (s.setClip i c).evu = s.evu := rfl
@[simp] theorem setClip_mail (s : State) (i : Fin 32) (c : Option Clip) :
    (s.setClip i c).mail = s.mail := rfl
@[simp] theorem setClip_pending (s : State) (i : Fin 32) (c : Option Clip) :
    (s.setClip i c).pending = s.pending := rfl

@[simp] theorem onPlayer_msel (s : State) (p : Player) (f : PlayerState → PlayerState) :
    (s.onPlayer p f).msel = s.msel := rfl
@[simp] theorem onPlayer_unit (s : State) (p : Player) (f : PlayerState → PlayerState) :
    (s.onPlayer p f).unit = s.unit := rfl
@[simp] theorem onPlayer_lp (s : State) (p : Player) (f : PlayerState → PlayerState) :
    (s.onPlayer p f).lp = s.lp := rfl
@[simp] theorem onPlayer_mgu (s : State) (p : Player) (f : PlayerState → PlayerState) :
    (s.onPlayer p f).mgu = s.mgu := rfl
@[simp] theorem onPlayer_reu (s : State) (p : Player) (f : PlayerState → PlayerState) :
    (s.onPlayer p f).reu = s.reu := rfl
@[simp] theorem onPlayer_fe (s : State) (p : Player) (f : PlayerState → PlayerState) :
    (s.onPlayer p f).fe = s.fe := rfl
@[simp] theorem onPlayer_sst (s : State) (p : Player) (f : PlayerState → PlayerState) :
    (s.onPlayer p f).sst = s.sst := rfl
@[simp] theorem onPlayer_plb (s : State) (p : Player) (f : PlayerState → PlayerState) :
    (s.onPlayer p f).plb = { s.plb with players := updAt s.plb.players p f } := rfl
@[simp] theorem onPlayer_rcu (s : State) (p : Player) (f : PlayerState → PlayerState) :
    (s.onPlayer p f).rcu = s.rcu := rfl
@[simp] theorem onPlayer_evu (s : State) (p : Player) (f : PlayerState → PlayerState) :
    (s.onPlayer p f).evu = s.evu := rfl
@[simp] theorem onPlayer_mail (s : State) (p : Player) (f : PlayerState → PlayerState) :
    (s.onPlayer p f).mail = s.mail := rfl
@[simp] theorem onPlayer_pending (s : State) (p : Player) (f : PlayerState → PlayerState) :
    (s.onPlayer p f).pending = s.pending := rfl

@[simp] theorem onRecorder_msel (s : State) (r : Rec) (f : Recorder → Recorder) :
    (s.onRecorder r f).msel = s.msel := rfl
@[simp] theorem onRecorder_unit (s : State) (r : Rec) (f : Recorder → Recorder) :
    (s.onRecorder r f).unit = s.unit := rfl
@[simp] theorem onRecorder_lp (s : State) (r : Rec) (f : Recorder → Recorder) :
    (s.onRecorder r f).lp = s.lp := rfl
@[simp] theorem onRecorder_mgu (s : State) (r : Rec) (f : Recorder → Recorder) :
    (s.onRecorder r f).mgu = s.mgu := rfl
@[simp] theorem onRecorder_reu (s : State) (r : Rec) (f : Recorder → Recorder) :
    (s.onRecorder r f).reu = s.reu := rfl
@[simp] theorem onRecorder_fe (s : State) (r : Rec) (f : Recorder → Recorder) :
    (s.onRecorder r f).fe = s.fe := rfl
@[simp] theorem onRecorder_sst (s : State) (r : Rec) (f : Recorder → Recorder) :
    (s.onRecorder r f).sst = s.sst := rfl
@[simp] theorem onRecorder_plb (s : State) (r : Rec) (f : Recorder → Recorder) :
    (s.onRecorder r f).plb = s.plb := rfl
@[simp] theorem onRecorder_rcu (s : State) (r : Rec) (f : Recorder → Recorder) :
    (s.onRecorder r f).rcu = { s.rcu with recorders := updAt s.rcu.recorders r f } := rfl
@[simp] theorem onRecorder_evu (s : State) (r : Rec) (f : Recorder → Recorder) :
    (s.onRecorder r f).evu = s.evu := rfl
@[simp] theorem onRecorder_mail (s : State) (r : Rec) (f : Recorder → Recorder) :
    (s.onRecorder r f).mail = s.mail := rfl
@[simp] theorem onRecorder_pending (s : State) (r : Rec) (f : Recorder → Recorder) :
    (s.onRecorder r f).pending = s.pending := rfl

@[simp] theorem onEvu_msel (s : State) (f : EVU → EVU) : (s.onEvu f).msel = s.msel := rfl
@[simp] theorem onEvu_unit (s : State) (f : EVU → EVU) : (s.onEvu f).unit = s.unit := rfl
@[simp] theorem onEvu_lp (s : State) (f : EVU → EVU) : (s.onEvu f).lp = s.lp := rfl
@[simp] theorem onEvu_mgu (s : State) (f : EVU → EVU) : (s.onEvu f).mgu = s.mgu := rfl
@[simp] theorem onEvu_reu (s : State) (f : EVU → EVU) : (s.onEvu f).reu = s.reu := rfl
@[simp] theorem onEvu_fe (s : State) (f : EVU → EVU) : (s.onEvu f).fe = s.fe := rfl
@[simp] theorem onEvu_sst (s : State) (f : EVU → EVU) : (s.onEvu f).sst = s.sst := rfl
@[simp] theorem onEvu_plb (s : State) (f : EVU → EVU) : (s.onEvu f).plb = s.plb := rfl
@[simp] theorem onEvu_rcu (s : State) (f : EVU → EVU) : (s.onEvu f).rcu = s.rcu := rfl
@[simp] theorem onEvu_evu (s : State) (f : EVU → EVU) : (s.onEvu f).evu = f s.evu := rfl
@[simp] theorem onEvu_mail (s : State) (f : EVU → EVU) : (s.onEvu f).mail = s.mail := rfl
@[simp] theorem onEvu_pending (s : State) (f : EVU → EVU) : (s.onEvu f).pending = s.pending := rfl

@[simp] theorem setLpMail_msel (s : State) (ms : List (Link × LpMsg)) :
    (s.setLpMail ms).msel = s.msel := rfl
@[simp] theorem setLpMail_unit (s : State) (ms : List (Link × LpMsg)) :
    (s.setLpMail ms).unit = s.unit := rfl
@[simp] theorem setLpMail_lp (s : State) (ms : List (Link × LpMsg)) :
    (s.setLpMail ms).lp = s.lp := rfl
@[simp] theorem setLpMail_mgu (s : State) (ms : List (Link × LpMsg)) :
    (s.setLpMail ms).mgu = s.mgu := rfl
@[simp] theorem setLpMail_reu (s : State) (ms : List (Link × LpMsg)) :
    (s.setLpMail ms).reu = s.reu := rfl
@[simp] theorem setLpMail_fe (s : State) (ms : List (Link × LpMsg)) :
    (s.setLpMail ms).fe = s.fe := rfl
@[simp] theorem setLpMail_sst (s : State) (ms : List (Link × LpMsg)) :
    (s.setLpMail ms).sst = s.sst := rfl
@[simp] theorem setLpMail_plb (s : State) (ms : List (Link × LpMsg)) :
    (s.setLpMail ms).plb = s.plb := rfl
@[simp] theorem setLpMail_rcu (s : State) (ms : List (Link × LpMsg)) :
    (s.setLpMail ms).rcu = s.rcu := rfl
@[simp] theorem setLpMail_evu (s : State) (ms : List (Link × LpMsg)) :
    (s.setLpMail ms).evu = s.evu := rfl
@[simp] theorem setLpMail_mail (s : State) (ms : List (Link × LpMsg)) :
    (s.setLpMail ms).mail = { s.mail with lpToMgu := ms } := rfl
@[simp] theorem setLpMail_pending (s : State) (ms : List (Link × LpMsg)) :
    (s.setLpMail ms).pending = s.pending := rfl

@[simp] theorem orderDiscard_msel (s : State) (l : Link) : (s.orderDiscard l).msel = s.msel := rfl
@[simp] theorem orderDiscard_unit (s : State) (l : Link) : (s.orderDiscard l).unit = s.unit := rfl
@[simp] theorem orderDiscard_lp (s : State) (l : Link) : (s.orderDiscard l).lp = s.lp := rfl
@[simp] theorem orderDiscard_mgu (s : State) (l : Link) : (s.orderDiscard l).mgu = s.mgu := rfl
@[simp] theorem orderDiscard_reu (s : State) (l : Link) : (s.orderDiscard l).reu = s.reu := rfl
@[simp] theorem orderDiscard_fe (s : State) (l : Link) : (s.orderDiscard l).fe = s.fe := rfl
@[simp] theorem orderDiscard_sst (s : State) (l : Link) : (s.orderDiscard l).sst = s.sst := rfl
@[simp] theorem orderDiscard_plb (s : State) (l : Link) : (s.orderDiscard l).plb = s.plb := rfl
@[simp] theorem orderDiscard_rcu (s : State) (l : Link) : (s.orderDiscard l).rcu = s.rcu := rfl
@[simp] theorem orderDiscard_evu (s : State) (l : Link) : (s.orderDiscard l).evu = s.evu := rfl
@[simp] theorem orderDiscard_mail (s : State) (l : Link) :
    (s.orderDiscard l).mail =
      { s.mail with discardOrders := updAt s.mail.discardOrders l (· + 1) } := rfl
@[simp] theorem orderDiscard_pending (s : State) (l : Link) :
    (s.orderDiscard l).pending = s.pending := rfl

end Sys2Proof.Laws
end

