-- ==== Sys2Proof/Laws/Tables.lean ====
section
/-! SUPPORT. What the sparse tables, sample memory, vector updates and `takeFirst` do, said once. -/

namespace Sys2Proof.Laws

open Sys2Proof.Machine

/-! ## Vector updates -/

theorem updAt_val {α : Type} {n : Nat} (v : Vector α n) (i j : Fin n) (f : α → α) :
    (updAt v i f)[(j : Nat)] = if i = j then f v[(i : Nat)] else v[(j : Nat)] := by
  simp only [updAt, Fin.getElem_fin, Vector.getElem_set, Fin.ext_iff]

theorem updAt_get {α : Type} {n : Nat} (v : Vector α n) (i j : Fin n) (f : α → α) :
    (updAt v i f)[j] = if i = j then f v[i] else v[j] := updAt_val v i j f

@[simp] theorem updAt_same {α : Type} {n : Nat} (v : Vector α n) (i : Fin n) (f : α → α) :
    (updAt v i f)[(i : Nat)] = f v[(i : Nat)] := by rw [updAt_val, if_pos rfl]

theorem updAt_ne {α : Type} {n : Nat} (v : Vector α n) {i j : Fin n} (f : α → α) (h : i ≠ j) :
    (updAt v i f)[j] = v[j] := by rw [updAt_get, if_neg h]

theorem updAt_updAt {α : Type} {n : Nat} (v : Vector α n) (i : Fin n) (f g : α → α) :
    updAt (updAt v i f) i g = updAt v i fun x => g (f x) := by
  unfold updAt; simp

theorem vector_ext_fin {α : Type} {n : Nat} {v w : Vector α n} (h : ∀ i : Fin n, v[i] = w[i]) :
    v = w := by
  ext i hi; exact h ⟨i, hi⟩

@[simp] theorem updAt_id {α : Type} {n : Nat} (v : Vector α n) (i : Fin n) :
    updAt v i (fun x => x) = v := by
  apply vector_ext_fin; intro j; rw [updAt_get]; split
  · rename_i h; rw [h]
  · rfl

/-! ## Taking the oldest -/

theorem takeFirst_eq_some {α : Type} {p : α → Bool} {xs : List α} {x : α} {rest : List α} :
    takeFirst p xs = some (x, rest) ↔ Oldest p xs x rest := by
  induction xs generalizing x rest with
  | nil => simp [takeFirst, Oldest]
  | cons y ys ih =>
    unfold takeFirst
    by_cases hy : p y
    · simp only [hy, if_true, Option.some.injEq, Prod.mk.injEq]
      constructor
      · rintro ⟨rfl, rfl⟩; exact ⟨[], ys, by simp [hy]⟩
      · rintro ⟨before, after, hxs, hrest, hx, hb⟩
        cases before with
        | nil => simp only [List.nil_append, List.cons.injEq] at hxs hrest; exact ⟨hxs.1, by rw [hrest, hxs.2]⟩
        | cons z zs =>
          simp only [List.cons_append, List.cons.injEq] at hxs
          have := hb z (by simp); rw [← hxs.1, hy] at this; exact absurd this (by decide)
    · simp only [hy]
      constructor
      · intro h
        cases ht : takeFirst p ys with
        | none => simp [ht] at h
        | some r =>
          obtain ⟨a, as⟩ := r
          simp only [ht] at h
          simp only [Bool.false_eq_true, if_false, Option.some.injEq, Prod.mk.injEq] at h
          obtain ⟨before, after, e1, e2, e3, e4⟩ := ih.mp ht
          refine ⟨y :: before, after, ?_, ?_, ?_, ?_⟩
          · rw [e1, ← h.1]; rfl
          · rw [← h.2, e2]; rfl
          · rw [← h.1]; exact e3
          · intro z hz
            rcases List.mem_cons.mp hz with rfl | hz
            · simpa using hy
            · exact e4 z hz
      · rintro ⟨before, after, hxs, hrest, hx, hb⟩
        cases before with
        | nil =>
          simp only [List.nil_append, List.cons.injEq] at hxs
          rw [← hxs.1] at hx; exact absurd hx hy
        | cons z zs =>
          simp only [List.cons_append, List.cons.injEq] at hxs hrest
          have : takeFirst p ys = some (x, zs ++ after) :=
            ih.mpr ⟨zs, after, hxs.2, rfl, hx, fun w hw => hb w (by simp [hw])⟩
          simp [this, hrest, hxs.1]

theorem takeFirst_eq_none {α : Type} {p : α → Bool} {xs : List α} :
    takeFirst p xs = none ↔ ∀ x ∈ xs, p x = false := by
  induction xs with
  | nil => simp [takeFirst]
  | cons y ys ih =>
    unfold takeFirst
    by_cases hy : p y
    · simp [hy]
    · simp only [hy, List.mem_cons, forall_eq_or_imp, true_and, ← ih]
      cases takeFirst p ys <;> simp

theorem oldest_mem {α : Type} {p : α → Bool} {xs : List α} {x : α} {rest : List α}
    (h : Oldest p xs x rest) : x ∈ xs := by
  obtain ⟨b, a, rfl, _, _, _⟩ := h; simp

theorem oldest_rest {α : Type} {p : α → Bool} {xs : List α} {x : α} {rest : List α}
    (h : Oldest p xs x rest) : ∀ y ∈ rest, y ∈ xs := by
  obtain ⟨b, a, rfl, rfl, _, _⟩ := h
  intro y hy; rcases List.mem_append.mp hy with hy | hy <;> simp [hy]

theorem takeFirst_mem {α : Type} {p : α → Bool} {xs : List α} {x : α} {rest : List α}
    (h : takeFirst p xs = some (x, rest)) : x ∈ xs ∧ p x = true ∧ ∀ y ∈ rest, y ∈ xs := by
  have h' := takeFirst_eq_some.mp h
  obtain ⟨_, _, _, _, hx, _⟩ := id h'
  exact ⟨oldest_mem h', hx, oldest_rest h'⟩

/-! ## Sparse tables -/

section Tables

variable {α β : Type}

theorem sorted_cons {k : Nat} {v : α} {t : Table α} :
    Table.sorted ((k, v) :: t) = true ↔ (∀ e ∈ t, k < e.1) ∧ Table.sorted t = true := by
  simp [Table.sorted, Table.above]

theorem get?_none_of_above {k : Nat} {t : Table α} (h : ∀ e ∈ t, k < e.1) : Table.get? t k = none := by
  induction t with
  | nil => rfl
  | cons e t ih =>
    obtain ⟨k', v⟩ := e
    have h1 : k < k' := h (k', v) (by simp)
    unfold Table.get?
    rw [if_neg (by omega)]
    exact ih fun e he => h e (by simp [he])

theorem get?_mem {t : Table α} {k : Nat} {v : α} (h : Table.get? t k = some v) : (k, v) ∈ t := by
  induction t with
  | nil => simp [Table.get?] at h
  | cons e t ih =>
    obtain ⟨k', v'⟩ := e
    unfold Table.get? at h
    by_cases hk : k = k'
    · rw [if_pos hk] at h; simp_all
    · rw [if_neg hk] at h; simp [ih h]

theorem get?_of_mem {t : Table α} {k : Nat} {v : α} (hs : Table.sorted t = true) (h : (k, v) ∈ t) :
    Table.get? t k = some v := by
  induction t with
  | nil => simp at h
  | cons e t ih =>
    obtain ⟨k', v'⟩ := e
    rw [sorted_cons] at hs
    unfold Table.get?
    rcases List.mem_cons.mp h with h | h
    · simp only [Prod.mk.injEq] at h; simp [h.1, h.2]
    · have := hs.1 _ h
      rw [if_neg (by simp at this; omega)]
      exact ih hs.2 h

theorem mem_put {t : Table α} {k : Nat} {v : α} {e : Nat × α} (h : e ∈ Table.put t k v) :
    e = (k, v) ∨ e ∈ t := by
  induction t with
  | nil => simpa [Table.put] using h
  | cons e' t ih =>
    obtain ⟨k', v'⟩ := e'
    unfold Table.put at h
    split at h
    · simp only [List.mem_cons] at h ⊢; tauto
    · split at h
      · simp only [List.mem_cons] at h ⊢; tauto
      · simp only [List.mem_cons] at h ⊢
        rcases h with h | h
        · tauto
        · rcases ih h with h | h <;> tauto

theorem sorted_put {t : Table α} {k : Nat} {v : α} (h : Table.sorted t = true) :
    Table.sorted (Table.put t k v) = true := by
  induction t with
  | nil => simp [Table.put, Table.sorted, Table.above]
  | cons e t ih =>
    obtain ⟨k', v'⟩ := e
    have h' := sorted_cons.mp h
    unfold Table.put
    split
    · rename_i hk
      refine sorted_cons.mpr ⟨?_, h⟩
      intro e he
      rcases List.mem_cons.mp he with rfl | he
      · exact hk
      · have := h'.1 e he; omega
    · split
      · rename_i hk; subst hk; exact sorted_cons.mpr h'
      · rename_i h1 h2
        refine sorted_cons.mpr ⟨?_, ih h'.2⟩
        intro e he
        rcases mem_put he with rfl | he
        · simp; omega
        · exact h'.1 e he

theorem get?_put {t : Table α} {k j : Nat} {v : α} (h : Table.sorted t = true) :
    Table.get? (Table.put t k v) j = if j = k then some v else Table.get? t j := by
  induction t with
  | nil => simp [Table.put, Table.get?]
  | cons e t ih =>
    obtain ⟨k', v'⟩ := e
    have h' := sorted_cons.mp h
    unfold Table.put
    split
    · rename_i hk
      rw [Table.get?]
    · split
      · rename_i hk; subst hk
        rw [Table.get?]
        by_cases hj : j = k
        · simp [hj]
        · simp [hj, Table.get?]
      · rename_i h1 h2
        rw [Table.get?, Table.get?, ih h'.2]
        by_cases hj : j = k'
        · have : j ≠ k := by omega
          simp [hj]; intro h; omega
        · simp [hj]

theorem sorted_sublist {t u : Table α} (h : Table.sorted t = true) (hu : u.Sublist t) :
    Table.sorted u = true := by
  induction hu with
  | slnil => rfl
  | cons a _ ih => obtain ⟨k, v⟩ := a; exact ih (sorted_cons.mp h).2
  | @cons_cons u' t' a hu' ih =>
    obtain ⟨k, v⟩ := a
    have h' := sorted_cons.mp h
    exact sorted_cons.mpr ⟨fun e he => h'.1 e (hu'.subset he), ih h'.2⟩

theorem del_sublist (t : Table α) (k : Nat) : (Table.del t k).Sublist t := by
  induction t with
  | nil => simp [Table.del]
  | cons e t ih =>
    obtain ⟨k', v⟩ := e
    unfold Table.del
    split
    · exact List.sublist_cons_self _ _
    · exact ih.cons_cons _

theorem get?_del {t : Table α} {k j : Nat} (h : Table.sorted t = true) :
    Table.get? (Table.del t k) j = if j = k then none else Table.get? t j := by
  induction t with
  | nil => simp [Table.del, Table.get?]
  | cons e t ih =>
    obtain ⟨k', v⟩ := e
    have h' := sorted_cons.mp h
    unfold Table.del
    split
    · rename_i hk; subst hk
      by_cases hj : j = k
      · subst hj; simp [get?_none_of_above h'.1]
      · simp [hj, Table.get?]
    · rename_i hk
      rw [Table.get?, Table.get?, ih h'.2]
      by_cases hj : j = k'
      · subst hj; simp; intro h; exact absurd h.symm hk
      · simp [hj]

theorem get?_filter {t : Table α} {q : Nat → Bool} {j : Nat} (h : Table.sorted t = true) :
    Table.get? (t.filter fun e => q e.1) j = if q j then Table.get? t j else none := by
  induction t with
  | nil => simp [Table.get?]
  | cons e t ih =>
    obtain ⟨k, v⟩ := e
    have h' := sorted_cons.mp h
    rw [List.filter_cons]
    by_cases hq : q k
    · simp only [hq, if_true]
      rw [Table.get?, Table.get?, ih h'.2]
      by_cases hj : j = k
      · subst hj; simp [hq]
      · simp [hj]
    · simp only [hq]
      rw [Table.get?]
      by_cases hj : j = k
      · subst hj
        simp only [Bool.false_eq_true, if_false]
        rw [ih h'.2]; simp [hq]
      · simp only [Bool.false_eq_true, if_false, hj]
        exact ih h'.2

theorem wf_iff {n : Nat} {t : Table α} :
    Table.wf n t = true ↔ Table.sorted t = true ∧ ∀ e ∈ t, e.1 < n := by
  simp [Table.wf]

theorem wf_put {n : Nat} {t : Table α} {k : Nat} {v : α} (h : Table.wf n t = true) (hk : k < n) :
    Table.wf n (Table.put t k v) = true := by
  rw [wf_iff] at h ⊢
  refine ⟨sorted_put h.1, fun e he => ?_⟩
  rcases mem_put he with rfl | he
  · exact hk
  · exact h.2 e he

theorem wf_sublist {n : Nat} {t u : Table α} (h : Table.wf n t = true) (hu : u.Sublist t) :
    Table.wf n u = true := by
  rw [wf_iff] at h ⊢
  exact ⟨sorted_sublist h.1 hu, fun e he => h.2 e (hu.subset he)⟩

theorem mapVal_keys (f : Nat → α → β) (t : Table α) :
    (Table.mapVal f t).map Prod.fst = t.map Prod.fst := by
  simp [Table.mapVal, Function.comp_def]

theorem sorted_iff_keys {t : Table α} :
    Table.sorted t = true ↔ (t.map Prod.fst).Pairwise (· < ·) := by
  induction t with
  | nil => simp [Table.sorted]
  | cons e t ih => obtain ⟨k, v⟩ := e; rw [sorted_cons]; simp [ih]

theorem wf_mapVal {n : Nat} {f : Nat → α → β} {t : Table α} :
    Table.wf n (Table.mapVal f t) = true ↔ Table.wf n t = true := by
  simp only [wf_iff, sorted_iff_keys, mapVal_keys]
  simp only [Table.mapVal, List.mem_map, and_congr_right_iff]
  intro _
  constructor
  · intro h e he; exact h _ ⟨e, he, rfl⟩
  · rintro h _ ⟨e, he, rfl⟩; exact h e he

theorem get?_mapVal (f : Nat → α → β) (t : Table α) (k : Nat) :
    Table.get? (Table.mapVal f t) k = (Table.get? t k).map (f k) := by
  induction t with
  | nil => rfl
  | cons e t ih =>
    obtain ⟨k', v⟩ := e
    simp only [Table.mapVal, List.map_cons, Table.get?] at ih ⊢
    by_cases hk : k = k'
    · simp [hk]
    · simpa [hk] using ih

end Tables

/-! ## Sample memory (R129 to R132) -/

theorem memory_wf_iff {m : Table Sample} :
    Memory.wf m = true ↔ Table.wf Config.memoryWords m = true ∧ ∀ e ∈ m, e.2 ≠ Memory.unlisted := by
  simp [Memory.wf]

theorem memory_sorted {m : Table Sample} (h : Memory.wf m = true) : Table.sorted m = true :=
  (wf_iff.mp (memory_wf_iff.mp h).1).1

/-- Reading after one word is written. -/
theorem read_write {m : Table Sample} {a b : Nat} {w : Sample} (h : Memory.wf m = true) :
    Memory.read (Memory.write m a w) b = if b = a then w else Memory.read m b := by
  have hs := memory_sorted h
  unfold Memory.write Memory.read
  split
  · rename_i hw
    rw [get?_del hs]; split <;> simp [hw]
  · rw [get?_put hs]; split <;> simp

/-- One write keeps the canonical form. -/
theorem wf_write {m : Table Sample} {a : Nat} {w : Sample} (h : Memory.wf m = true)
    (ha : a < Config.memoryWords) : Memory.wf (Memory.write m a w) = true := by
  have h' := memory_wf_iff.mp h
  unfold Memory.write
  split
  · exact memory_wf_iff.mpr ⟨wf_sublist h'.1 (del_sublist _ _),
      fun e he => h'.2 e ((del_sublist _ _).subset he)⟩
  · rename_i hw
    refine memory_wf_iff.mpr ⟨wf_put h'.1 ha, fun e he => ?_⟩
    rcases mem_put he with rfl | he
    · exact hw
    · exact h'.2 e he

/-- A run of writes keeps the canonical form. -/
theorem wf_writeRun {m : Table Sample} {a : Nat} {ws : List Sample} (h : Memory.wf m = true)
    (ha : a + ws.length ≤ Config.memoryWords) : Memory.wf (Memory.writeRun m a ws) = true := by
  induction ws generalizing m a with
  | nil => exact h
  | cons w ws ih =>
    simp only [List.length_cons] at ha
    exact ih (wf_write h (by omega)) (by omega)

/-- Reading after a run of words is written. -/
theorem read_writeRun {m : Table Sample} {a b : Nat} {ws : List Sample} (h : Memory.wf m = true)
    (ha : a + ws.length ≤ Config.memoryWords) :
    Memory.read (Memory.writeRun m a ws) b =
      if a ≤ b ∧ b < a + ws.length then (ws[b - a]?).getD 0 else Memory.read m b := by
  induction ws generalizing m a with
  | nil => simp [Memory.writeRun]
  | cons w ws ih =>
    simp only [List.length_cons] at ha ⊢
    rw [Memory.writeRun, ih (wf_write h (by omega)) (by omega), read_write h]
    by_cases h1 : b = a
    · subst h1
      rw [if_neg (by omega), if_pos rfl, if_pos (by omega)]; simp
    · by_cases h2 : a ≤ b ∧ b < a + (ws.length + 1)
      · rw [if_pos (by omega), if_pos h2]
        obtain ⟨k, rfl⟩ : ∃ k, b = a + 1 + k := ⟨b - (a + 1), by omega⟩
        have e1 : a + 1 + k - (a + 1) = k := by omega
        have e2 : a + 1 + k - a = k + 1 := by omega
        rw [e1, e2, List.getElem?_cons_succ]
      · rw [if_neg (by omega), if_neg h1, if_neg h2]

/-- The memory clear keeps the canonical form. -/
theorem wf_clearRange {m : Table Sample} {lo hi : Nat} (h : Memory.wf m = true) :
    Memory.wf (Memory.clearRange m lo hi) = true := by
  have h' := memory_wf_iff.mp h
  have hsub : (Memory.clearRange m lo hi).Sublist m := List.filter_sublist
  exact memory_wf_iff.mpr ⟨wf_sublist h'.1 hsub, fun e he => h'.2 e (hsub.subset he)⟩

/-- Reading after a range is cleared. -/
theorem read_clearRange {m : Table Sample} {lo hi b : Nat} (h : Memory.wf m = true) :
    Memory.read (Memory.clearRange m lo hi) b =
      if lo ≤ b ∧ b < hi then Memory.unlisted else Memory.read m b := by
  unfold Memory.read Memory.clearRange
  rw [get?_filter (q := fun a => !(decide (lo ≤ a) && decide (a < hi))) (memory_sorted h)]
  by_cases hb : lo ≤ b ∧ b < hi
  · simp [hb]
  · rw [if_neg hb]
    have : (!(decide (lo ≤ b) && decide (b < hi))) = true := by
      simp only [Bool.not_eq_true', Bool.and_eq_false_iff, decide_eq_false_iff_not]; omega
    rw [if_pos this]

end Sys2Proof.Laws
end

