-- ==== Sys2Proof/Laws/Requests.lean ====
section
/-! SUPPORT. What the operations that take a request or a reset do, once the request or reset is the
oldest one handed to its block; and the Player Bank's reads, once none is outstanding. -/

namespace Sys2Proof.Laws

open Sys2Proof.Machine

theorem withRequest_handed {b : Block} {req : Req} {s s' : State} (h : Handed b req s s')
    (which : Req → Bool) (f : Req → State → State) :
    s.withRequest b which f = if which req then f req s' else s := by
  obtain ⟨rest, ho, rfl⟩ := h
  simp only [State.withRequest, takeFirst_eq_some.mpr ho]

theorem withReset_handed {o : ResetOrder} {s s' : State} (h : HandedReset o s s')
    (f : ResetOrder → State → State) :
    s.withReset o.block f =
      if o.ack then (f o s').ackReset o.block else f o s' := by
  obtain ⟨rest, ho, rfl⟩ := h
  simp only [State.withReset, takeFirst_eq_some.mpr ho]

theorem handed_eq {b : Block} {req : Req} {s s' : State} (h : Handed b req s s') :
    s' = { s with mail := s'.mail } ∧ s'.mail = { s.mail with reqs := s'.mail.reqs } := by
  obtain ⟨rest, ho, rfl⟩ := h; exact ⟨rfl, rfl⟩

theorem reuRequest_handed {req : Req} {s s' : State} (h : Handed .reu req s s')
    (hq : s.reu.txn = none) {k : RequestKind} (hk : req.kind = k) (f : Req → State → State) :
    s.reuRequest k f = f req s' := by
  simp only [State.reuRequest, hq, Option.isNone_none, if_true, withRequest_handed h, isKind, hk,
    beq_self_eq_true]

theorem evuRequest_handed {req : Req} {s s' : State} (h : Handed .evu req s s')
    (hq : s.evu.query = none) {k : RequestKind} (hk : req.kind = k) (f : Req → State → State) :
    s.evuRequest k f = f req s' := by
  simp only [State.evuRequest, hq, Option.isNone_none, if_true, withRequest_handed h, isKind, hk,
    beq_self_eq_true]

theorem rcuRequest_handed {req : Req} {s s' : State} (h : Handed .rcu req s s')
    (hq : s.rcu.waiting = none) {k : RequestKind} (hk : req.kind = k) (f : Req → State → State) :
    s.rcuRequest k f = f req s' := by
  simp only [State.rcuRequest, hq, Option.isNone_none, if_true, withRequest_handed h, isKind, hk,
    beq_self_eq_true]

theorem plbRequest_handed {req : Req} {s s' : State} (h : Handed .plb req s s')
    (hq : s.plb.waiting = none) {which : Req → Bool} (hk : which req = true)
    (f : Req → State → State) :
    s.plbRequest which f = f req s' := by
  simp only [State.plbRequest, hq, Option.isNone_none, if_true, withRequest_handed h, hk]

/-- R151, R154: no read is outstanding, and an event of the Player Bank is taken as it comes. -/
theorem settleReads_none {s : State} (hr : s.mail.playerReads = []) (ha : s.mail.readAnswers = [])
    (ps : List Player) : s.settleReads ps = .next s := by
  induction ps with
  | nil => rfl
  | cons p ps ih =>
    simp only [State.settleReads, State.takePlayerRead, State.takeReadAnswer, hr, ha, takeFirst, ih]

theorem afterReads_none {s : State} (hr : s.mail.playerReads = []) (ha : s.mail.readAnswers = [])
    (f : State → State) : s.afterReads f = .next (f s) := by
  simp only [State.afterReads, settleReads_none hr ha]

/-- The state that the reads, once completed, leave. -/
theorem afterReads_of {s u : State} (h : s.settleReads allEight = .next u) (f : State → State) :
    s.afterReads f = .next (f u) := by
  simp only [State.afterReads, h]

/-- R151, R154: an event of the Player Bank that is taken is taken after the reads of the boundary. -/
theorem afterReads_next {s t : State} {f : State → State} (h : s.afterReads f = .next t) :
    ∃ u, s.settleReads allEight = .next u ∧ f u = t := by
  unfold State.afterReads at h
  split at h
  · rename_i u hu; exact ⟨u, hu, by injection h⟩
  · cases h
  · cases h

theorem kindRequest_handed {b : Block} {req : Req} {s s' : State} (h : Handed b req s s')
    {k : RequestKind} (hk : req.kind = k) (f : Req → State → State) :
    s.withRequest b (isKind k) f = f req s' := by
  simp only [withRequest_handed h, isKind, hk, beq_self_eq_true, if_true]

end Sys2Proof.Laws
end

