-- ==== Sys2Proof/Laws/Engine.lean ====
section
/-! SUPPORT. What the operations of the Frame Engine do: use notices, adoption, one frame's computation. -/

namespace Sys2Proof.Laws

open Sys2Proof.Machine

theorem mem_allEight (l : Fin 8) : l ∈ allEight := by revert l; decide

theorem allEight_nodup : allEight.Nodup := by decide

/-- R67: use notices sent to some links, each once. -/
theorem foldl_useNotice (used : Vector Bool 8) (ls : List Link) (h : ls.Nodup) (s : State) :
    ∃ v : Vector (List Bool) 8,
      ls.foldl (fun s l => s.useNotice l used[l]) s =
        { s with mail := { s.mail with useNotices := v } } ∧
      ∀ l : Link, v[l] = if l ∈ ls then s.mail.useNotices[l] ++ [used[l]] else s.mail.useNotices[l] := by
  induction ls generalizing s with
  | nil => exact ⟨s.mail.useNotices, rfl, fun l => by simp⟩
  | cons k ks ih =>
    obtain ⟨v, e, hv⟩ := ih (List.nodup_cons.mp h).2 (s.useNotice k used[k])
    refine ⟨v, ?_, fun l => ?_⟩
    · rw [List.foldl_cons, e]; rfl
    · rw [hv l, useNotice_mail]
      by_cases hl : l = k
      · subst hl
        rw [if_neg (List.nodup_cons.mp h).1, if_pos List.mem_cons_self]
        exact updAt_same _ _ _
      · have hk : (updAt s.mail.useNotices k (· ++ [used[k]]))[l] = s.mail.useNotices[l] :=
          updAt_ne _ _ fun h => hl h.symm
        simp only [hk, List.mem_cons, hl, false_or]

/-- R67: a use notice to every link. -/
theorem useNotices_eq (s : State) (used : Vector Bool 8) :
    ∃ v : Vector (List Bool) 8,
      s.useNotices used = { s with mail := { s.mail with useNotices := v } } ∧
      ∀ l : Link, v[l] = s.mail.useNotices[l] ++ [used[l]] := by
  obtain ⟨v, e, hv⟩ := foldl_useNotice used allEight allEight_nodup s
  exact ⟨v, e, fun l => by rw [hv l, if_pos (mem_allEight l)]⟩

/-- R52: what adopting a table does. -/
theorem adopt_eq (s : State) (h : HandOff) :
    ∃ (v : Vector (List Bool) 8) (used : Vector Bool 8),
      let active :=
        Table.mapVal (fun pos e => adoptEntry s.fe.view (Table.get? s.fe.active pos) e) h.table
      s.adopt h = { s with
        fe := { s.fe with active := active, cost := h.cost, used := used }
        mail := { s.mail with
          useNotices := v
          fates := s.mail.fates ++ [⟨h.number, some s.fe.counter⟩]
          reports := s.mail.reports ++ [(.fe, ⟨.commitAdopted, h.owner.val,
            s.fe.counter.toNat % 65536, some s.fe.counter⟩)] } } ∧
      ∀ l : Link, used[l] = linkUsed active l ∧ v[l] = s.mail.useNotices[l] ++ [used[l]] := by
  let active :=
    Table.mapVal (fun pos e => adoptEntry s.fe.view (Table.get? s.fe.active pos) e) h.table
  obtain ⟨v, e, hv⟩ := useNotices_eq
    { s with
      fe :=
        { s.fe with
          active := active, cost := h.cost, used := Vector.ofFn fun l => linkUsed active l } }
    (Vector.ofFn fun l => linkUsed active l)
  refine ⟨v, Vector.ofFn fun l => linkUsed active l, ?_, fun l => ⟨?_, ?_⟩⟩
  · unfold State.adopt
    dsimp only
    rw [e]; rfl
  · simp only [Fin.getElem_fin, Vector.getElem_ofFn]; rfl
  · rw [hv l]

/-- R51, R71: what emptying the Frame Engine does. -/
theorem emptyEngine_eq (s : State) :
    ∃ v : Vector (List Bool) 8,
      s.emptyEngine = { s with
        fe := { s.fe with active := [], cost := 0, queue := [], used := Vector.replicate 8 false }
        mail := { s.mail with
          useNotices := v
          fates := s.mail.fates ++ s.fe.queue.map fun h => (⟨h.number, none⟩ : Fate) } } ∧
      ∀ l : Link, v[l] = s.mail.useNotices[l] ++ [false] := by
  obtain ⟨v, e, hv⟩ := useNotices_eq
    (({ s with
      fe :=
        { s.fe with
          active := [], cost := 0, queue := [], used := Vector.replicate 8 false } } : State).onMail
      fun m => { m with fates := m.fates ++ s.fe.queue.map fun h => (⟨h.number, none⟩ : Fate) })
    (Vector.replicate 8 false)
  refine ⟨v, ?_, fun l => ?_⟩
  · unfold State.emptyEngine
    dsimp only
    rw [e]; rfl
  · rw [hv l]; simp

end Sys2Proof.Laws
end

