-- ==== Sys2Proof/Laws/LinkFrames.lean ====
section
/-! SUPPORT. What a Link Port's operations leave alone: each changes its own Link Port and the messages
between blocks, and nothing else. -/

namespace Sys2Proof.Machine.OnlyLink

open Sys2Proof.Laws

theorem refl (l : Link) (s : State) : OnlyLink l s s := ⟨rfl, fun _ _ => rfl⟩

theorem trans {l : Link} {s t u : State} (h : OnlyLink l s t) (k : OnlyLink l t u) :
    OnlyLink l s u := by
  obtain ⟨h1, h2⟩ := h
  obtain ⟨k1, k2⟩ := k
  refine ⟨?_, fun l' hl => (k2 l' hl).trans (h2 l' hl)⟩
  rw [k1, h1]

theorem onLp (l : Link) (s : State) (f : LP → LP) : OnlyLink l s (s.onLp l f) :=
  ⟨rfl, fun _ h => updAt_ne _ _ h.symm⟩

theorem onMail (l : Link) (s : State) (f : Mail → Mail) : OnlyLink l s (s.onMail f) :=
  ⟨rfl, fun _ _ => rfl⟩

/-- Two updates in a row. -/
theorem thenLp {l : Link} {s t : State} (h : OnlyLink l s t) (f : LP → LP) :
    OnlyLink l s (t.onLp l f) := h.trans (onLp l t f)

theorem thenMail {l : Link} {s t : State} (h : OnlyLink l s t) (f : Mail → Mail) :
    OnlyLink l s (t.onMail f) := h.trans (onMail l t f)

theorem leaveRunning (l : Link) (s : State) : OnlyLink l s (s.leaveRunning l) := by
  unfold State.leaveRunning
  exact ((onLp l s _).thenMail _).thenMail _

theorem moveCore (l : Link) (s : State) (new : LinkState) : OnlyLink l s (s.moveCore l new) := by
  unfold State.moveCore
  dsimp only
  split
  · exact refl l s
  · have h : OnlyLink l s
        (if s.lp[l].state.running && !new.running then s.leaveRunning l else s) := by
      split
      · exact leaveRunning l s
      · exact refl l s
    split
    · exact (h.thenLp _).thenMail _
    · exact ((h.thenLp _).thenMail _).thenMail _

theorem moveLink (l : Link) (s : State) (new : LinkState) : OnlyLink l s (s.moveLink l new) := by
  unfold State.moveLink
  dsimp only
  split
  · split
    · exact (moveCore l s new).thenLp _
    · exact ((moveCore l s new).thenLp _).trans (moveCore l _ _)
  · exact moveCore l s new

theorem thenMove {l : Link} {s t : State} (h : OnlyLink l s t) (new : LinkState) :
    OnlyLink l s (t.moveLink l new) := h.trans (moveLink l t new)

theorem carryHeldMove (l : Link) (s : State) : OnlyLink l s (s.carryHeldMove l) := by
  unfold State.carryHeldMove
  dsimp only
  split
  · split
    · exact (onLp l s _).thenMove _
    · split
      · exact (onLp l s _).thenMove _
      · exact onLp l s _
  · exact refl l s

theorem restoreAdvert (l : Link) (s : State) : OnlyLink l s (s.restoreAdvert l) := by
  unfold State.restoreAdvert
  dsimp only
  split
  · exact onLp l s _
  · exact (onLp l s _).thenMail _

theorem restoreExpired (l : Link) (s : State) : OnlyLink l s (s.restoreExpired l) := by
  unfold State.restoreExpired
  dsimp only
  split
  · split
    · exact (onLp l s _).trans (restoreAdvert l _)
    · exact refl l s
  · exact refl l s

theorem downshift (l : Link) (s : State) : OnlyLink l s (s.downshift l) := by
  unfold State.downshift
  dsimp only
  split
  · exact (onLp l s _).thenMail _
  · exact ((onLp l s _).thenLp _).thenMail _

theorem trainingFailure (l : Link) (s : State) : OnlyLink l s (s.trainingFailure l) := by
  unfold State.trainingFailure
  dsimp only
  split
  · exact ((onLp l s _).trans (downshift l _)).thenMove _
  · exact (onLp l s _).thenMove _

theorem resetLp (l : Link) (s : State) : OnlyLink l s (s.resetLp l) :=
  ((onLp l s _).thenMove _).thenLp _

theorem dueAlignmentAcquired (l : Link) (s : State) : OnlyLink l s (s.dueAlignmentAcquired l) := by
  unfold State.dueAlignmentAcquired
  dsimp only
  split
  · exact (onLp l s _).thenMove _
  · exact refl l s

theorem dueAlignmentLoss (l : Link) (s : State) : OnlyLink l s (s.dueAlignmentLoss l) := by
  unfold State.dueAlignmentLoss
  dsimp only
  split
  · split
    · exact ((onLp l s _).thenMail _).thenMove _
    · exact moveLink l s _
  · exact refl l s

theorem dueWindowPass (l : Link) (s : State) : OnlyLink l s (s.dueWindowPass l) := by
  unfold State.dueWindowPass
  dsimp only
  split
  · split
    · exact onLp l s _
    · exact refl l s
  · exact refl l s

theorem dueWindowFail (l : Link) (s : State) : OnlyLink l s (s.dueWindowFail l) := by
  unfold State.dueWindowFail
  dsimp only
  split
  · split
    · exact trainingFailure l s
    · exact refl l s
  · exact refl l s

theorem dueTrainLimit (l : Link) (s : State) : OnlyLink l s (s.dueTrainLimit l) := by
  unfold State.dueTrainLimit
  dsimp only
  split
  · exact trainingFailure l s
  · exact refl l s

theorem dueRestEntered (l : Link) (s : State) : OnlyLink l s (s.dueRestEntered l) := by
  unfold State.dueRestEntered
  dsimp only
  split
  · exact (moveLink l s _).thenMail _
  · exact refl l s

theorem dueClearRunComplete (l : Link) (s : State) : OnlyLink l s (s.dueClearRunComplete l) := by
  unfold State.dueClearRunComplete
  dsimp only
  split
  · exact moveLink l s _
  · exact refl l s

theorem settleFrame (l : Link) (s : State) : OnlyLink l s (s.settleFrame l) :=
  ((((((dueAlignmentAcquired l s).trans (dueAlignmentLoss l _)).trans (dueWindowPass l _)).trans
    (dueWindowFail l _)).trans (dueTrainLimit l _)).trans (dueRestEntered l _)).trans
    (dueClearRunComplete l _)

theorem dueResponseSent (l : Link) (s : State) : OnlyLink l s (s.dueResponseSent l) := by
  unfold State.dueResponseSent
  split
  · split
    · exact ((onLp l s _).thenMail _).thenMail _
    · exact refl l s
  · exact refl l s

theorem settleLink (l : Link) (s : State) : OnlyLink l s (s.settleLink l) :=
  (dueResponseSent l s).trans (settleFrame l _)

theorem agreement (l : Link) (s : State) : OnlyLink l s (s.agreement l) := by
  unfold State.agreement
  dsimp only
  split
  · split
    · exact (onLp l s _).thenMove _
    · split
      · exact refl l s
      · exact (onLp l s _).thenMail _
  · exact refl l s

theorem asmResult (l : Link) (s : State) (out : AsmOut) : OnlyLink l s (s.asmResult l out) := by
  unfold State.asmResult
  split
  · exact refl l s
  · exact onLp l s _
  · exact onLp l s _
  · exact (onMail l s _).thenMail _

theorem frameNegotiate (l : Link) (s : State) (w : Word) : OnlyLink l s (s.frameNegotiate l w) := by
  unfold State.frameNegotiate
  dsimp only
  split
  · exact ((onLp l s _).thenLp _).trans (agreement l _)
  · exact onLp l s _

theorem frameTrain (l : Link) (s : State) (w : Word) (pl : Vector Word 64) :
    OnlyLink l s (s.frameTrain l w pl) := by
  unfold State.frameTrain
  dsimp only
  split
  · exact ((onLp l s _).thenMove _).thenMail _
  · exact onLp l s _

theorem frameRunning (l : Link) (s : State) (w : Word) (pl : Vector Word 64) :
    OnlyLink l s (s.frameRunning l w pl) := by
  unfold State.frameRunning
  extract_lets p good s1 s2 s3
  have h1 : OnlyLink l s s1 := onLp l s _
  have h2 : OnlyLink l s s2 := by
    simp only [s2]
    split
    · exact h1.thenMove _
    · exact h1
  have h3 : OnlyLink l s s3 := h2.thenLp _
  split
  · split
    · exact (h3.thenLp _).trans (asmResult l _ _)
    · exact h3
  · exact h3.thenLp _

theorem useChanged (l : Link) (s : State) (used : Bool) : OnlyLink l s (s.useChanged l used) := by
  unfold State.useChanged
  extract_lets s1
  have h1 : OnlyLink l s s1 := onLp l s _
  split
  · split
    · exact h1.thenLp _
    · exact h1.thenLp _
  · split
    · exact h1.thenMove _
    · exact h1
  all_goals exact h1

theorem requestMove (l : Link) (s : State) (req : Req) (new : LinkState) :
    OnlyLink l s (s.requestMove l req new).1 := by
  unfold State.requestMove
  split
  · exact onLp l s _
  · exact moveLink l s _

/-- A request taken by its owner. -/
theorem withRequest (l : Link) (s : State) (b : Block) (which : Req → Bool) (f : Req → State → State)
    (h : ∀ req t, OnlyLink l t (f req t)) : OnlyLink l s (s.withRequest b which f) := by
  unfold State.withRequest
  split
  · split
    · exact (onMail l s _).trans (h _ _)
    · exact refl l s
  · exact refl l s

/-- A reset taken by a block. -/
theorem withReset (l : Link) (s : State) (b : Block) (f : ResetOrder → State → State)
    (h : ∀ o t, OnlyLink l t (f o t)) : OnlyLink l s (s.withReset b f) := by
  unfold State.withReset
  split
  · dsimp only
    split
    · exact ((onMail l s _).trans (h _ _)).thenMail _
    · exact (onMail l s _).trans (h _ _)
  · exact refl l s

end Sys2Proof.Machine.OnlyLink
end

