-- ==== Sys2Proof/Laws/Moves.lean ====
section
/-! SUPPORT. What a link's change of state does, case by case: staying, between stopped states, out of
the running states, and into or among them; and what entering a state leaves of a Link Port. -/

namespace Sys2Proof.Laws

open Sys2Proof.Machine

/-- R87, R91, R84: a Link Port that leaves the running states, before it enters its new state. -/
def dropped (p : LP) : LP :=
  { p with
    txq := [], txSent := 0, asm := .empty
    counters :=
      match p.asm with
      | .assembling _ => { p.counters with discarded := satInc p.counters.discarded }
      | .empty | .skipping => p.counters }

/-- R91, R10, R188: what a link that leaves the running states tells its neighbours. -/
def leftMail (l : Link) (p : LP) (new : LinkState) (m : Mail) : Mail :=
  { m with
    lpToMgu := m.lpToMgu ++ (p.txq.map fun x => (l, LpMsg.discarded x.place x.ref)) ++ [(l, .stopped)]
    lossNotices := updAt m.lossNotices l (· + 1)
    stateNotices := updAt m.stateNotices l (· ++ [new])
    viewNotices := updAt m.viewNotices l (· ++ [⟨.out, 0⟩]) }

theorem updAt_congr {α : Type} {n : Nat} {v : Vector α n} {i : Fin n} {f g : α → α}
    (h : f v[i] = g v[i]) : updAt v i f = updAt v i g := by
  unfold updAt; rw [h]

@[simp] theorem enter_state (p : LP) (new : LinkState) (label : List Byte) (unit : BitVec 4) :
    (p.enter new label unit).state = new := by
  cases new <;> first | rfl | (unfold LP.enter; dsimp only; split <;> rfl)

theorem enter_agreed (p : LP) (new : LinkState) (label : List Byte) (unit : BitVec 4) :
    (p.enter new label unit).agreed = p.agreed := by
  cases new <;> first | rfl | (unfold LP.enter; dsimp only; split <;> rfl)

theorem enter_cfg (p : LP) (new : LinkState) (label : List Byte) (unit : BitVec 4) :
    (p.enter new label unit).cfg = p.cfg := by
  cases new <;> first | rfl | (unfold LP.enter; dsimp only; split <;> rfl)

theorem enter_advert (p : LP) (new : LinkState) (label : List Byte) (unit : BitVec 4) :
    (p.enter new label unit).advert = p.advert := by
  cases new <;> first | rfl | (unfold LP.enter; dsimp only; split <;> rfl)

theorem enter_removed (p : LP) (new : LinkState) (label : List Byte) (unit : BitVec 4) :
    (p.enter new label unit).removed = p.removed := by
  cases new <;> first | rfl | (unfold LP.enter; dsimp only; split <;> rfl)

theorem enter_heldMove (p : LP) (new : LinkState) (label : List Byte) (unit : BitVec 4) :
    (p.enter new label unit).heldMove = p.heldMove := by
  cases new <;> first | rfl | (unfold LP.enter; dsimp only; split <;> rfl)

theorem enter_counters (p : LP) (new : LinkState) (label : List Byte) (unit : BitVec 4) :
    (p.enter new label unit).counters = p.counters := by
  cases new <;> first | rfl | (unfold LP.enter; dsimp only; split <;> rfl)

theorem enter_negTimeouts (p : LP) (new : LinkState) (label : List Byte) (unit : BitVec 4) :
    (p.enter new label unit).negTimeouts = p.negTimeouts := by
  cases new <;> first | rfl | (unfold LP.enter; dsimp only; split <;> rfl)

/-- R106: the attempt counter becomes 0 on entering UP from TRAIN and stays otherwise. -/
theorem enter_attempts (p : LP) (new : LinkState) (label : List Byte) (unit : BitVec 4) :
    (p.enter new label unit).attempts =
      if new = .up ∧ p.state ≠ .wake then 0 else p.attempts := by
  cases new <;> first | rfl | (unfold LP.enter; dsimp only; cases h : p.state <;> rfl)

/-- R106: the transmit list is emptied on entering UP from TRAIN and stays otherwise. -/
theorem enter_txq (p : LP) (new : LinkState) (label : List Byte) (unit : BitVec 4) :
    (p.enter new label unit).txq = if new = .up ∧ p.state ≠ .wake then [] else p.txq := by
  cases new <;> first | rfl | (unfold LP.enter; dsimp only; cases h : p.state <;> rfl)

/-- A link that stays where it is does not move. -/
theorem moveCore_same {s : State} {l : Link} {new : LinkState} (h : LP.state s.lp[l] = new) :
    s.moveCore l new = s := by
  unfold State.moveCore; dsimp only; rw [if_pos h]

/-- A move between two stopped states. -/
theorem moveCore_stopped {s : State} {l : Link} {new : LinkState} (h : LP.state s.lp[l] ≠ new)
    (ho : (LP.state s.lp[l]).running = false) (hn : new.running = false) :
    s.moveCore l new =
      { s with
        lp := updAt s.lp l fun p => p.enter new s.mgu.label s.unit
        mail := { s.mail with stateNotices := updAt s.mail.stateNotices l (· ++ [new]) } } := by
  unfold State.moveCore
  dsimp only
  have hv : (LP.state s.lp[l]).viewClass = new.viewClass := by
    revert ho hn; cases LP.state s.lp[l] <;> cases new <;> intro ho hn <;> first | rfl | (cases ho; done) | (cases hn; done)
  rw [if_neg h, if_pos hv]
  simp only [ho, Bool.false_and, Bool.false_eq_true, if_false]
  rfl

/-- R91: a move out of the running states. -/
theorem moveCore_leave {s : State} {l : Link} {new : LinkState}
    (ho : (LP.state s.lp[l]).running = true) (hn : new.running = false) :
    s.moveCore l new =
      { s with
        lp := updAt s.lp l fun p => (dropped p).enter new s.mgu.label s.unit
        mail := leftMail l s.lp[l] new s.mail } := by
  have h : LP.state s.lp[l] ≠ new := by intro h; rw [h, hn] at ho; cases ho
  have hv : (LP.state s.lp[l]).viewClass ≠ new.viewClass := by
    revert ho hn; cases LP.state s.lp[l] <;> cases new <;> intro ho hn <;> first | decide | (cases ho; done) | (cases hn; done)
  unfold State.moveCore
  dsimp only
  rw [if_neg h, if_neg hv]
  simp only [ho, hn, Bool.not_false, Bool.and_self, if_true]
  have hw : ∀ p : LP, (p.enter new s.mgu.label s.unit).view = ⟨.out, 0⟩ := by
    intro p
    unfold LP.view
    rw [enter_state]
    revert hn; cases new <;> intro hn <;> first | rfl | (cases hn; done)
  simp only [State.leaveRunning, State.viewNotice, State.stateNotice, State.toMgu, State.lossNotice,
    State.onLp, State.onMail, updAt_updAt, Fin.getElem_fin, updAt_same, hw]
  unfold leftMail
  simp only [List.map_append, List.map_map, List.append_assoc, List.map_cons, List.map_nil]
  rfl

/-- R10: a move into the running states or among them. -/
theorem moveCore_into {s : State} {l : Link} {new : LinkState} (h : LP.state s.lp[l] ≠ new)
    (hn : new.running = true) :
    s.moveCore l new =
      { s with
        lp := updAt s.lp l fun p => p.enter new s.mgu.label s.unit
        mail :=
          { s.mail with
            stateNotices := updAt s.mail.stateNotices l (· ++ [new])
            viewNotices := updAt s.mail.viewNotices l (· ++ [⟨new.viewClass, LP.slotCount s.lp[l]⟩]) } } := by
  have hv : (LP.state s.lp[l]).viewClass ≠ new.viewClass := by
    revert h hn; cases LP.state s.lp[l] <;> cases new <;> intro h hn <;>
      first | decide | exact absurd rfl h | (cases hn; done)
  unfold State.moveCore
  dsimp only
  rw [if_neg h, if_neg hv]
  simp only [hn, Bool.not_true, Bool.and_false, Bool.false_eq_true, if_false]
  have hw : ∀ p : LP, (p.enter new s.mgu.label s.unit).view = ⟨new.viewClass, p.slotCount⟩ := by
    intro p
    unfold LP.view LP.slotCount
    rw [enter_state, enter_agreed, hn]
    rfl
  simp only [State.viewNotice, State.stateNotice, State.onLp, State.onMail, Fin.getElem_fin,
    updAt_same]
  rw [hw]

/-- Only a link that leaves the running states with a held move goes on. -/
theorem moveLink_plain {s : State} {l : Link} {new : LinkState}
    (h : (LP.state s.lp[l]).running = false ∨ new.running = true ∨ LP.heldMove s.lp[l] = false) :
    s.moveLink l new = s.moveCore l new := by
  unfold State.moveLink
  dsimp only
  rw [if_neg]
  simp only [Fin.getElem_fin] at h
  rcases h with h | h | h <;> simp [h]

/-- R112: a link that leaves the running states with a held move and enable 1 stays where it went. -/
theorem moveLink_enabled {s : State} {l : Link} {new : LinkState}
    (ho : (LP.state s.lp[l]).running = true) (hn : new.running = false)
    (hm : LP.heldMove s.lp[l] = true) (he : (LP.cfg s.lp[l]).enable = true) :
    s.moveLink l new =
      { s with
        lp := updAt s.lp l fun p =>
          { (dropped p).enter new s.mgu.label s.unit with heldMove := false }
        mail := leftMail l s.lp[l] new s.mail } := by
  unfold State.moveLink
  dsimp only
  simp only [Fin.getElem_fin] at ho hm he
  simp only [Fin.getElem_fin, ho, hn, hm, he, Bool.not_false, Bool.and_self, if_true]
  rw [moveCore_leave ho hn]
  simp only [State.onLp, updAt_updAt]
  rfl

/-- R112: with enable 0 it goes on to DISABLED. -/
theorem moveLink_disabled {s : State} {l : Link} {new : LinkState}
    (ho : (LP.state s.lp[l]).running = true) (hn : new.running = false)
    (hm : LP.heldMove s.lp[l] = true) (he : (LP.cfg s.lp[l]).enable = false) :
    s.moveLink l new =
      (({ s with
        lp := updAt s.lp l fun p =>
          { (dropped p).enter new s.mgu.label s.unit with heldMove := false }
        mail := leftMail l s.lp[l] new s.mail } : State).moveCore l .disabled) := by
  unfold State.moveLink
  dsimp only
  simp only [Fin.getElem_fin] at ho hm he
  simp only [Fin.getElem_fin, ho, hn, hm, he, Bool.not_false, Bool.and_self, if_true, Bool.false_eq_true, if_false]
  rw [moveCore_leave ho hn]
  simp only [State.onLp, updAt_updAt]
  rfl

/-! ## Moves after other changes

A meaning changes one Link Port and the messages, and then moves the link. `linkState s l F M` is `s`
with the Link Port of `l` changed by `F` and the messages `M`; each lemma says what it becomes. -/

/-- A state with one Link Port changed and the given messages. -/
def linkState (s : State) (l : Link) (F : LP → LP) (M : Mail) : State :=
  { s with lp := updAt s.lp l F, mail := M }

theorem linkState_lp (s : State) (l : Link) (F : LP → LP) (M : Mail) :
    (linkState s l F M).lp[l] = F s.lp[l] := updAt_same _ _ _

theorem linkState_mail (s : State) (l : Link) (F : LP → LP) (M : Mail) :
    (linkState s l F M).mail = M := rfl

theorem linkState_id (s : State) (l : Link) : linkState s l (fun p => p) s.mail = s := by
  unfold linkState; rw [updAt_id]

theorem linkState_onLp (s : State) (l : Link) (F f : LP → LP) (M : Mail) :
    (linkState s l F M).onLp l f = linkState s l (fun p => f (F p)) M := by
  unfold linkState State.onLp; simp only [updAt_updAt]

theorem linkState_onMail (s : State) (l : Link) (F : LP → LP) (M : Mail) (f : Mail → Mail) :
    (linkState s l F M).onMail f = linkState s l F (f M) := rfl

theorem linkState_of_onLp (s : State) (l : Link) (f : LP → LP) : s.onLp l f = linkState s l f s.mail := rfl

theorem linkState_of_onMail (s : State) (l : Link) (f : Mail → Mail) :
    s.onMail f = linkState s l (fun p => p) (f s.mail) := by
  unfold linkState; rw [updAt_id]; rfl

theorem linkState_onlyLink (s : State) (l : Link) (F : LP → LP) (M : Mail) :
    OnlyLink l s (linkState s l F M) := ⟨rfl, fun _ h => updAt_ne _ _ h.symm⟩

/-- R91: the link leaves the running states; no move is held. -/
theorem linkState_leave {s : State} {l : Link} {F : LP → LP} {M : Mail} {new : LinkState}
    (ho : (F s.lp[l]).state.running = true) (hn : new.running = false)
    (hm : (F s.lp[l]).heldMove = false) :
    (linkState s l F M).moveLink l new =
      linkState s l (fun p => (dropped (F p)).enter new s.mgu.label s.unit)
        (leftMail l (F s.lp[l]) new M) := by
  have e := linkState_lp s l F M
  rw [moveLink_plain (.inr (.inr (by rw [e]; exact hm))), moveCore_leave (by rw [e]; exact ho) hn, e]
  unfold linkState
  simp only [updAt_updAt]

/-- R112: the link leaves the running states with a held move and enable 1. -/
theorem linkState_leave_enabled {s : State} {l : Link} {F : LP → LP} {M : Mail} {new : LinkState}
    (ho : (F s.lp[l]).state.running = true) (hn : new.running = false)
    (hm : (F s.lp[l]).heldMove = true) (he : (F s.lp[l]).cfg.enable = true) :
    (linkState s l F M).moveLink l new =
      linkState s l (fun p => { (dropped (F p)).enter new s.mgu.label s.unit with heldMove := false })
        (leftMail l (F s.lp[l]) new M) := by
  have e := linkState_lp s l F M
  rw [moveLink_enabled (by rw [e]; exact ho) hn (by rw [e]; exact hm) (by rw [e]; exact he), e]
  unfold linkState
  simp only [updAt_updAt]

/-- A move between two stopped states. -/
theorem linkState_stopped {s : State} {l : Link} {F : LP → LP} {M : Mail} {new : LinkState}
    (h : (F s.lp[l]).state ≠ new) (ho : (F s.lp[l]).state.running = false)
    (hn : new.running = false) :
    (linkState s l F M).moveLink l new =
      linkState s l (fun p => (F p).enter new s.mgu.label s.unit)
        { M with stateNotices := updAt M.stateNotices l (· ++ [new]) } := by
  have e := linkState_lp s l F M
  rw [moveLink_plain (.inl (by rw [e]; exact ho)),
    moveCore_stopped (by rw [e]; exact h) (by rw [e]; exact ho) hn]
  unfold linkState
  simp only [updAt_updAt]

/-- R112: the link leaves the running states with a held move and enable 0. -/
theorem linkState_leave_disabled {s : State} {l : Link} {F : LP → LP} {M : Mail} {new : LinkState}
    (ho : (F s.lp[l]).state.running = true) (hn : new.running = false) (hd : new ≠ .disabled)
    (hm : (F s.lp[l]).heldMove = true) (he : (F s.lp[l]).cfg.enable = false) :
    (linkState s l F M).moveLink l new =
      linkState s l (fun p =>
          LP.enter { (dropped (F p)).enter new s.mgu.label s.unit with heldMove := false } .disabled
            s.mgu.label s.unit)
        { leftMail l (F s.lp[l]) new M with
          stateNotices := updAt (leftMail l (F s.lp[l]) new M).stateNotices l (· ++ [.disabled]) } := by
  have e := linkState_lp s l F M
  rw [moveLink_disabled (by rw [e]; exact ho) hn (by rw [e]; exact hm) (by rw [e]; exact he), e]
  have k : ∀ t : State, LP.state t.lp[l] = new → t.moveCore l .disabled =
      { t with
        lp := updAt t.lp l fun p => p.enter .disabled t.mgu.label t.unit
        mail := { t.mail with stateNotices := updAt t.mail.stateNotices l (· ++ [.disabled]) } } :=
    fun t h => moveCore_stopped (by rw [h]; exact hd) (by rw [h]; exact hn) rfl
  rw [k]
  · unfold linkState
    simp only [updAt_updAt]
  · show LP.state (updAt (updAt s.lp l F) l _)[l] = new
    exact (congrArg LP.state (updAt_same _ _ _)).trans (enter_state _ _ _ _)

/-- R10: a move into the running states or among them. -/
theorem linkState_into {s : State} {l : Link} {F : LP → LP} {M : Mail} {new : LinkState}
    (h : (F s.lp[l]).state ≠ new) (hn : new.running = true) :
    (linkState s l F M).moveLink l new =
      linkState s l (fun p => (F p).enter new s.mgu.label s.unit)
        { M with
          stateNotices := updAt M.stateNotices l (· ++ [new])
          viewNotices := updAt M.viewNotices l (· ++ [⟨new.viewClass, (F s.lp[l]).slotCount⟩]) } := by
  have e := linkState_lp s l F M
  rw [moveLink_plain (.inr (.inl hn)), moveCore_into (by rw [e]; exact h) hn, e]
  unfold linkState
  simp only [updAt_updAt]

/-- A link that stays where it is. -/
theorem linkState_same {s : State} {l : Link} {F : LP → LP} {M : Mail} {new : LinkState}
    (h : (F s.lp[l]).state = new) (hr : new.running = false) :
    (linkState s l F M).moveLink l new = linkState s l F M := by
  have e := linkState_lp s l F M
  rw [moveLink_plain (.inl (by rw [e, h]; exact hr)), moveCore_same (by rw [e]; exact h)]

/-! ## Nothing due (log entry 10) -/

theorem dueAlignmentAcquired_none {s : State} {l : Link}
    (h : LP.state s.lp[l] ≠ .listen ∨ (LP.align s.lp[l]).acqRun < 8) :
    s.dueAlignmentAcquired l = s := by
  unfold State.dueAlignmentAcquired
  exact if_neg fun ⟨a, b⟩ => h.elim (fun h => h a) fun h => absurd b (Nat.not_le.mpr h)

theorem dueAlignmentLoss_none {s : State} {l : Link}
    (h : (LP.state s.lp[l]).beyondListen = false ∨ (LP.align s.lp[l]).badRun < 4) :
    s.dueAlignmentLoss l = s := by
  unfold State.dueAlignmentLoss
  exact if_neg fun ⟨a, b⟩ => h.elim (fun h => by rw [h] at a; cases a) fun h => absurd b (Nat.not_le.mpr h)

theorem dueWindowPass_none {s : State} {l : Link}
    (h : LP.state s.lp[l] ≠ .train ∨
      ∀ x, (LP.train s.lp[l]).window = some x → LP.rdy s.lp[l] = false → x.judged < 256) :
    s.dueWindowPass l = s := by
  unfold State.dueWindowPass
  dsimp only
  split
  · rename_i w hw
    exact if_neg fun ⟨a, b, c, _⟩ => h.elim (fun h => h a) fun h =>
      absurd c (Nat.not_le.mpr (h w hw b))
  · rfl

theorem dueWindowFail_none {s : State} {l : Link}
    (h : LP.state s.lp[l] ≠ .train ∨ ∀ x, (LP.train s.lp[l]).window = some x → x.errors < 3) :
    s.dueWindowFail l = s := by
  unfold State.dueWindowFail
  dsimp only
  split
  · rename_i w hw
    exact if_neg fun ⟨a, b⟩ => h.elim (fun h => h a) fun h => absurd b (Nat.not_le.mpr (h w hw))
  · rfl

theorem dueTrainLimit_none {s : State} {l : Link}
    (h : LP.state s.lp[l] ≠ .train ∨ (LP.train s.lp[l]).frames < 512) : s.dueTrainLimit l = s := by
  unfold State.dueTrainLimit
  exact if_neg fun ⟨a, b⟩ => h.elim (fun h => h a) fun h => absurd b (Nat.not_le.mpr h)

theorem dueRestEntered_none {s : State} {l : Link}
    (h : ¬(LP.state s.lp[l] = .up ∧ (LP.rest s.lp[l]).ownRst = true ∧ 16 ≤ (LP.rest s.lp[l]).setRun)) :
    s.dueRestEntered l = s := by
  unfold State.dueRestEntered
  exact if_neg h

theorem dueClearRunComplete_none {s : State} {l : Link}
    (h : ¬(LP.state s.lp[l] = .wake ∧ 16 ≤ (LP.rest s.lp[l]).clearRun)) :
    s.dueClearRunComplete l = s := by
  unfold State.dueClearRunComplete
  exact if_neg h

theorem dueResponseSent_none {s : State} {l : Link}
    (h : ∀ m ∈ (LP.txq s.lp[l]).head?, LP.txSent s.lp[l] < m.octets.length) :
    s.dueResponseSent l = s := by
  unfold State.dueResponseSent
  split
  · rename_i m rest hq
    exact if_neg (Nat.not_le.mpr (h m (by
      simp only [Fin.getElem_fin] at hq ⊢
      rw [hq]; rfl)))
  · rfl

/-- Where nothing is due, settling a Link Port does nothing. -/
theorem settleLink_settled {s : State} {l : Link} (h : LP.Settled s.lp[l]) : s.settleLink l = s := by
  have orNot : ∀ {p q : Prop}, (p → q) → ¬p ∨ q := fun {p q} k =>
    (Classical.em p).elim (fun hp => .inr (k hp)) .inl
  unfold State.settleLink State.settleFrame
  rw [dueResponseSent_none h.sent,
    dueAlignmentAcquired_none (orNot h.acquired),
    dueAlignmentLoss_none ((orNot h.aligned).imp_left fun k => Bool.eq_false_iff.mpr k),
    dueWindowPass_none (orNot fun ht x hx => (h.window ht x hx).2),
    dueWindowFail_none (orNot fun ht x hx => (h.window ht x hx).1),
    dueTrainLimit_none (orNot h.frames),
    dueRestEntered_none fun ⟨a, b, c⟩ => absurd c (Nat.not_le.mpr (h.rest a b)),
    dueClearRunComplete_none fun ⟨a, b⟩ => absurd b (Nat.not_le.mpr (h.wake a))]

end Sys2Proof.Laws
end

