-- ==== Sys2Proof/Laws/Responses.lean ====
section
/-! SUPPORT. What offering and building a response do, said once in the terms of `Offered` and
`Answered`, and what the Management Unit makes of a message. -/

namespace Sys2Proof.Laws

open Sys2Proof.Machine

theorem carryIfDeferred_eq (s : State) (l : Link) (d : Option Deferred) :
    s.carryIfDeferred l d = { s with mail := CarriedOut l d s.mail } := by
  rcases d with _ | _ | _ <;> rfl

theorem placeFull_iff (p : LP) (place : Place) :
    p.placeFull place = true ↔ ∃ x ∈ p.txq, x.place = place := by
  simp [LP.placeFull]

/-- R171: what an offer does. -/
theorem offered_offer (s : State) (l : Link) (ref : Ref) (octets : List Byte)
    (d : Option Deferred) : Offered l ref octets d s (s.offer l ref octets d) := by
  constructor
  · intro h
    have h' : (!s.lp[l].state.running) = true := congrArg (! ·) h
    simp only [State.offer]
    rw [if_pos h', carryIfDeferred_eq]; rfl
  · intro h hx
    have h' : ¬(!s.lp[l].state.running) = true := by
      rw [show s.lp[l].state.running = true from h]; decide
    simp only [State.offer]
    rw [if_neg h', if_pos ((placeFull_iff _ _).mpr hx)]; rfl
  · intro h hx
    have h' : ¬(!s.lp[l].state.running) = true := by
      rw [show s.lp[l].state.running = true from h]; decide
    have hf : ¬(LP.placeFull s.lp[l] .response = true) := by
      rw [placeFull_iff]; rintro ⟨x, hm, hp⟩; exact hx x hm hp
    simp only [State.offer]
    rw [if_neg h', if_neg hf]; rfl

/-- R170: what building a response does. -/
theorem answered_respond (s : State) (l : Link) (ip : InProgress) (code : ResultCode)
    (body : List Byte) (d : Option Deferred) :
    Answered l ip code body d s (s.respond l ip code body d) := by
  have h := offered_offer s.queryEvents l ip.ref
    (responseOctets ip.code ip.tag code s.evu.events.length body) d
  have ho : responseOctets ip.code ip.tag code s.evu.events.length body =
      [ip.code ||| 0x80#8, ip.tag, BitVec.ofNat 8 code.value,
        BitVec.ofNat 8 s.evu.events.length] ++ u16 body.length ++ body := by
    simp [responseOctets, u8]
  unfold Answered
  rw [← ho]
  exact h

/-- R169: a result whose reference the record of its link holds. -/
theorem takeResult_held {s : State} {r : Result} {ip : InProgress}
    (h : s.mgu.links[r.ref.link].inProgress = some ip) (he : ip.ref = r.ref) :
    s.takeResult r = s.respond r.ref.link ip r.code r.body r.deferred := by
  unfold State.takeResult; simp only [h, if_pos he]

/-- R169: a result whose reference no record holds any longer. -/
theorem takeResult_dropped {s : State} {r : Result}
    (h : ∀ ip, s.mgu.links[r.ref.link].inProgress = some ip → ip.ref ≠ r.ref) :
    s.takeResult r = s := by
  unfold State.takeResult
  cases hh : MguLink.inProgress s.mgu.links[r.ref.link] with
  | none => rfl
  | some ip => simp only [if_neg (h ip hh)]

/-- R166: the message that may be taken is the oldest item that is the link's own or is a message. -/
theorem nextMessage_eq_some {m : Mail} {l : Link} {x : Link × LpMsg} {rest : List (Link × LpMsg)} :
    m.nextMessage l = some (x, rest) ↔
      Oldest (fun x => x.1 == l || x.2.isMessage) m.lpToMgu x rest :=
  takeFirst_eq_some

/-- R166: the report or notice taken is the oldest item of its link. -/
theorem oldestOf_eq_some {m : Mail} {l : Link} {x : Link × LpMsg} {rest : List (Link × LpMsg)} :
    m.oldestOf l = some (x, rest) ↔ Oldest (fun x => x.1 == l) m.lpToMgu x rest :=
  takeFirst_eq_some

/-- R177: a valid RESET is begun when none is being carried out. -/
theorem takeReset_free {s : State} {req : Req} (h : octAt req.body 0 ≤ 1)
    (hf : s.mgu.curReset = none) : s.takeReset req = s.beginReset req := by
  simp only [State.takeReset, if_neg (Nat.not_lt.mpr h), hf, Option.isSome_none,
    Bool.false_eq_true, if_false]

/-- R177: a valid RESET waits while another is being carried out. -/
theorem takeReset_waits {s : State} {req : Req} (h : octAt req.body 0 ≤ 1)
    (hf : s.mgu.curReset ≠ none) :
    s.takeReset req =
      { s with mgu := { s.mgu with waitingResets := s.mgu.waitingResets ++ [req] } } := by
  simp only [State.takeReset, if_neg (Nat.not_lt.mpr h), if_pos (Option.isSome_iff_ne_none.mpr hf)]

/-- R177: no RESET waits. -/
theorem nextReset_none {s : State} (h : s.mgu.waitingResets = []) : s.nextReset = s := by
  simp only [State.nextReset, h]

/-- R177: the oldest RESET that waits begins. -/
theorem nextReset_cons {s : State} {req : Req} {more : List Req}
    (h : s.mgu.waitingResets = req :: more) :
    s.nextReset = State.beginReset { s with mgu := { s.mgu with waitingResets := more } } req := by
  simp only [State.nextReset, h]

theorem ofCode_eq_some {c : Nat} {k : RequestKind} :
    RequestKind.ofCode c = some k ↔ k.code = c := by
  constructor
  · intro h
    have := List.find?_some h
    simpa using this
  · rintro rfl; cases k <;> decide

theorem ofCode_eq_none {c : Nat} :
    RequestKind.ofCode c = none ↔ ∀ k : RequestKind, k.code ≠ c := by
  constructor
  · intro h k hk; rw [ofCode_eq_some.mpr hk] at h; cases h
  · intro h
    cases hh : RequestKind.ofCode c with
    | none => rfl
    | some k => exact absurd (ofCode_eq_some.mp hh) (h k)

end Sys2Proof.Laws
end

