-- ==== Sys2Proof/WellFormed.lean ====
section
/-! DEFINITION. Which commands name an event that a block of the part can have.
Most operands are bounded by their types; what is left is which block a result, an acknowledgment
or a report can come from. -/

namespace Sys2Proof

/-- R169: the blocks that own requests and hand results to the Management Unit, which is not one of
them (it answers its own requests itself). -/
def Block.isOwner : Block → Bool
  | .mgu => false
  | _ => true

/-- R178, R179: the blocks a RESET is handed to, which acknowledge it. The Sample Store is handed no
reset. -/
def Block.takesReset : Block → Bool
  | .mgu | .sst => false
  | _ => true

/-- R182: the blocks that send event reports. The Event Unit stores START and ROUTING_RESET itself. -/
def Block.reportsEvents : Block → Bool
  | .lp _ | .reu | .fe | .plb | .rcu => true
  | .mgu | .sst | .evu => false

/-- A command names an event that can be. -/
def Instr.wf : Instr → Bool
  | .ownerResult b => b.isOwner
  | .resetAck b => b.takesReset
  | .eventReport b => b.reportsEvents
  | _ => true

end Sys2Proof
end

