-- ==== Sys2Proof/Tests/Slice0.lean ====
section
/-! SUPPORT. The model's own tests: worked examples of the spec, the well-formedness checks, and for
every statement a state and operands that meet its hypotheses, each clause at a boundary value. -/

namespace Sys2Proof.Tests

open Sys2Proof Sys2Proof.Machine

set_option Elab.async false
set_option synthInstance.maxSize 2000
set_option synthInstance.maxHeartbeats 200000

/-! ## Helpers -/

/-- The next state of an outcome. -/
def after (o : Host.Outcome State Fault Refusal) : Option State :=
  match o with
  | .next t => some t
  | _ => none

/-- A request from link 0. -/
def req0 (k : RequestKind) (body : List Byte) : Req := ⟨⟨0, 7⟩, k, 5, body⟩

/-- A state in which one request waits for a block. -/
def asked (s : State) (b : Block) (r : Req) : State := { s with mail := { s.mail with reqs := [(b, r)] } }

/-- What the command answers to one request from link 0: the result and its body. -/
def reply (s : State) (c : Instr) (b : Block) (k : RequestKind) (body : List Byte) :
    Option (ResultCode × List Byte) :=
  (after (exec c (asked s b (req0 k body)))).bind fun t =>
    (t.mail.results.head?).map fun r => (r.2.code, r.2.body)

/-- The messages between blocks after the command takes one request from link 0. -/
def mailAfter {α : Type} (s : State) (c : Instr) (b : Block) (k : RequestKind) (body : List Byte)
    (f : Mail → α) : Option α :=
  (after (exec c (asked s b (req0 k body)))).map fun t => f t.mail

/-- The reset state with the Link Port of link 0 changed. -/
def lp0 (f : LP → LP) : State := State.reset.onLp 0 f

/-- The reset state with link 0 in a state, G32 agreed. -/
def inState (st : LinkState) (f : LP → LP := id) : State :=
  lp0 fun p => f { p with state := st, held := false, agreed := some .g32 }

/-- A request that waits is handed, whoever owns it. -/
theorem test_one_request_is_handed (s : State) (b : Block) (r : Req) :
    Handed b r (asked s b r) { s with mail := { s.mail with reqs := [] } } :=
  ⟨[], ⟨[], [], rfl, rfl, beq_self_eq_true _, fun _ h => by cases h⟩, rfl⟩

/-- A reset that waits is handed. -/
theorem test_one_reset_is_handed (s : State) (o : ResetOrder) :
    HandedReset o { s with mail := { s.mail with resets := [o] } }
      { s with mail := { s.mail with resets := [] } } :=
  ⟨[], ⟨[], [], rfl, rfl, beq_self_eq_true _, fun _ h => by cases h⟩, rfl⟩

/-- The only element of a list is the oldest that satisfies what it satisfies. -/
theorem test_only_is_oldest {α : Type} (p : α → Bool) (x : α) (h : p x = true) : Oldest p [x] x [] :=
  ⟨[], [], rfl, rfl, h, fun _ h => by cases h⟩

/-! ## Well-formed commands: an ill-formed term for each check -/

theorem test_wf_ownerResult : Instr.wf (.ownerResult .sst) = true ∧ Instr.wf (.ownerResult .mgu) = false := by
  decide
theorem test_wf_resetAck : Instr.wf (.resetAck (.lp 7)) = true ∧ Instr.wf (.resetAck .mgu) = false ∧
    Instr.wf (.resetAck .sst) = false := by decide
theorem test_wf_eventReport : Instr.wf (.eventReport .plb) = true ∧ Instr.wf (.eventReport .mgu) = false ∧
    Instr.wf (.eventReport .sst) = false ∧ Instr.wf (.eventReport .evu) = false := by decide

/-! ## Worked values of the spec -/

/-- R6: the factors the table prints, and none above code 216. -/
theorem test_gain_factors : gainFactor 0 = 0 ∧ gainFactor 1 = 18 ∧ gainFactor 192 = 1048576 ∧
    gainFactor 204 = 2092184 ∧ gainFactor 216 = 4174456 ∧ gainFactors.length = 217 := by
  decide +kernel
/-- R6: no factor is below the one before. -/
theorem test_gain_factors_rise : gainFactors.Pairwise (· ≤ ·) := by decide +kernel
/-- R83: the check value of "123456789". -/
theorem test_crc : crc16 [49, 50, 51, 52, 53, 54, 55, 56, 57] = 10673 := by decide +kernel
/-- R196: the service word of SYNC B, PAGE, RST set, quarter 2. -/
theorem test_service_word : serviceWord .b .page false true 2 17 34 = 0xB1161122#32 := by decide
/-- R195: sample 1 with status SUBST, and what comes back, status 3 read as SUBST. -/
theorem test_slot_word : slotWord ⟨1, .subst⟩ = 0x00000180#32 ∧ slotOf 0x000001FF#32 = ⟨1, .subst⟩ := by
  decide
/-- R59: a negative sum smaller in magnitude than 2^20 gives -1. -/
theorem test_small_negative_sum : mixShifted (fun _ => ⟨-1, .live⟩) [⟨.player 0, 1, 1⟩] = -1 := by
  decide +kernel
/-- R64: a glide over the whole range. -/
theorem test_full_glide : Nat.repeat (fun c => glideStep c 216) 54 0 = 216 ∧
    Nat.repeat (fun c => glideStep c 216) 53 0 ≠ 216 := by decide +kernel
/-- R37: a span from odd to odd costs half its length, rounded up; any other its length. -/
theorem test_span_cost : Span.cost ⟨0, 1, 1, 3, 5⟩ = 3 ∧ Span.cost ⟨0, 2, 1, 3, 5⟩ = 5 := by decide
/-- R104: the training words of slot 1. -/
theorem test_training_word : trainingSlot .a 1 = ⟨0x010101#24, .live⟩ ∧
    trainingSlot .b 1 = ⟨0xFEFEFE#24, .live⟩ := by decide
/-- R202: the length of each kind of request. -/
theorem test_lengths : RequestKind.lengthOk .entryPut 8 = true ∧ RequestKind.lengthOk .entryPut 9 = false ∧
    RequestKind.lengthOk .entryPut 39 = true ∧ RequestKind.lengthOk .memoryWrite 387 = true ∧
    RequestKind.lengthOk .memoryWrite 388 = false := by decide

/-! ## The machine -/

theorem test_step_takes_the_front :
    (after (step { State.reset with pending := [.memoryClearComplete, .handOff] })).map
      (fun t => (t.pending, t.sst.clear)) = some ([.handOff], none) ∧ State.reset.pending = [] := by
  decide +kernel

/-- One tick with no command waiting: running timers, the hold timer of a HELD claim, a running pulse and
both generators go on by one; stopped timers and a PENDING claim stay. -/
theorem test_tick :
    let s (ph : ClaimPhase) : State :=
      { inState .up fun p => { p with timers := ⟨none, none, some 19, some 399⟩ } with
        reu := { REU.reset with claim := some ⟨0, 2, ph, [], []⟩ }
        sst := { SST.reset [] with clear := none }
        evu := { EVU.reset with lines := updAt EVU.reset.lines 3 fun x => { x with pulseTimer := some 199 } } }
    let ticked (ph : ClaimPhase) := (after (step (s ph))).map fun t =>
      ((LP.timers t.lp[(0 : Link)], t.reu.claim.map Claim.phase),
        (t.evu.lines.map IndLine.pulseTimer).toList, t.evu.fast, t.evu.slow)
    ticked (.held 7999) = some ((⟨none, none, some 20, some 400⟩, some (.held 8000)),
        [none, none, none, some 200], ⟨true, 1⟩, ⟨true, 1⟩) ∧
      (ticked .pending).map (fun x => x.1.2) = some (some .pending) := by decide +kernel

/-- The memory clear's address goes from 0 to a free address, with the words before that cleared, and
stays at the last word. -/
theorem test_tick_clear :
    let s (a : Nat) : State := { State.reset with sst := { SST.reset [(a, 5)] with clear := some a } }
    State.reset.pending = [] ∧
      (∃ b, b ≤ 131071 ∧ (after (step (s 0))).map (fun t => (t.sst.clear, t.sst.mem)) =
        some (some b, if b = 0 then [(0, 5)] else [])) ∧
      (after (step (s 131071))).map (fun t => (t.sst.clear, t.sst.mem)) =
        some (some 131071, [(131071, 5)]) := by
  have run (a : Nat) : (SST.tick { SST.reset [(a, 5)] with clear := some a }).clear =
        some (min (a + Config.clearPace a) 131071) ∧
      (SST.tick { SST.reset [(a, 5)] with clear := some a }).mem =
        Memory.clearRange [(a, 5)] a (min (a + Config.clearPace a) 131071) := ⟨rfl, rfl⟩
  refine ⟨rfl, ⟨_, Nat.min_le_right (0 + Config.clearPace 0) 131071, ?_⟩, ?_⟩
  · refine congrArg some (Prod.ext (run 0).1 ((run 0).2.trans ?_))
    generalize min (0 + Config.clearPace 0) 131071 = b
    cases b <;> rfl
  · have e : min (131071 + Config.clearPace 131071) 131071 = 131071 :=
      Nat.min_eq_right (Nat.le_add_right _ _)
    refine congrArg some (Prod.ext ((run _).1.trans (by rw [e])) ((run _).2.trans ?_))
    rw [e]; decide

/-- HARDWARE_RESET of a state whose memory is in canonical form, one word listed. -/
theorem test_hardware_reset : Memory.wf [(131071, (5 : Sample))] = true ∧
    (after (exec (.hardwareReset true 9) { State.reset with sst := SST.reset [(131071, 5)] })).map
      (fun t => (t.msel, t.unit, t.sst.mem)) = some (true, 9, [(131071, 5)]) := by decide +kernel

/-- Each command answers a next state after reset, as the frames suppose. -/
theorem test_frames_have_next_states :
    ([Instr.alignmentAcquired 0, .receivedFrame 7 0 (Vector.replicate 64 0), .handOff, .linkViewNotice 7,
        .feFrameBoundary, .editOpen, .linkLossNotice 7, .holdRequest, .playerRead 7, .recorderWrite,
        .memoryWrite, .plbFrameBoundary, .playerReadAnswer 7, .recordSetup, .recorderInputWord 1,
        .eventsRead, .eventReport .fe, .stateNotice 7, .completionReport 7, .pulseTimerExpiry 3,
        .blinkPhase .slow, .messageTaken 7, .identify, .ownerResult .fe, .resetAck .fe].all
      fun c => (after (exec c State.reset)).isSome) = true := by decide +kernel

/-! ## What is due comes first -/

/-- Link Ports one frame short of every event a frame makes due. -/
theorem test_settled :
    let up : LP := { LP.reset with
      state := .up, align := ⟨7, none, .a, 3⟩, rest := ⟨true, true, 15, 0, false⟩
      txq := [⟨.busy, none, [1, 2, 3, 4]⟩], txSent := 3 }
    LP.Settled up ∧ LP.Settled { up with state := .listen } ∧
      LP.Settled { up with state := .wake, rest := ⟨false, false, 0, 15, false⟩ } ∧
      LP.Settled { up with state := .train, train := ⟨511, some ⟨255, 2⟩⟩ } ∧
      LP.Settled { up with state := .train, train := ⟨511, some ⟨256, 2⟩⟩, rdy := true } := by
  refine ⟨⟨?_, ?_, ?_, ?_, ?_, ?_, ?_⟩, ⟨?_, ?_, ?_, ?_, ?_, ?_, ?_⟩, ⟨?_, ?_, ?_, ?_, ?_, ?_, ?_⟩,
    ⟨?_, ?_, ?_, ?_, ?_, ?_, ?_⟩, ⟨?_, ?_, ?_, ?_, ?_, ?_, ?_⟩⟩
  all_goals decide

/-- R122, R126: the sixteenth frame before the use notice, and before the wake timer; and the fifteenth. -/
theorem test_sixteenth_frame :
    let resting (n : Nat) : State :=
      (inState .up fun p => { p with rest := ⟨true, true, n, 0, false⟩ }).onMail fun m =>
        { m with useNotices := updAt m.useNotices 0 fun _ => [true] }
    let waking (n : Nat) : State := inState .wake fun p =>
      { p with rest := ⟨false, false, 0, n, true⟩, timers := ⟨none, none, none, some 400⟩ }
    let got (c : Instr) (s : State) := (after (exec c s)).map fun t =>
      (LP.state t.lp[(0 : Link)], t.mail.reports.map fun r => r.2.kind)
    got (.useNotice 0) (resting 16) = some (.wake, [.restEntered]) ∧
      got (.useNotice 0) (resting 15) = some (.up, []) ∧
      got (.wakeTimerExpiry 0) (waking 16) = some (.up, []) ∧
      got (.wakeTimerExpiry 0) (waking 15) = some (.listen, [.wakeFailed]) := by decide +kernel

/-! ## Link Ports -/

/-- A service word with the given sync octet, code and flags. -/
def word (sync : Sync) (code : ServiceCode) (rdy rst : Bool) (o1 o2 : Byte) : Word :=
  serviceWord sync code rdy rst 0 o1 o2

/-- No slot carries anything. -/
def silence : Vector Word 64 := Vector.replicate 64 0

/-- What the frame does to link 0. -/
def lpAfter {α : Type} (c : Instr) (s : State) (f : LP → α) : Option α :=
  (after (exec c s)).map fun t => f t.lp[(0 : Link)]

/-- R79: the four cases: bad, first good, alternating, repeating, at runs 0 and 7. -/
theorem test_listen :
    let run (n : Nat) (w : Word) := lpAfter (.receivedFrame 0 w silence)
      (inState .listen fun p => { p with align := ⟨n, some .a, .a, 0⟩ })
      fun p => (p.align.acqRun, p.counters.serviceErrors)
    run 7 0 = some (0, 1) ∧ run 0 (word .a .fill false false 0 0) = some (1, 0) ∧
      run 7 (word .b .fill false false 0 0) = some (8, 0) ∧
      run 1 (word .a .fill false false 0 0) = some (1, 1) := by decide +kernel

theorem test_alignment_acquired :
    let s := inState .listen fun p => { p with align := ⟨8, some .a, .a, 0⟩ }
    LP.state s.lp[(0 : Link)] = .listen ∧ 8 ≤ (LP.align s.lp[(0 : Link)]).acqRun ∧
      (LP.align s.lp[(0 : Link)]).prev = some .a := by decide +kernel

/-- A running link with four bad frames behind it, and one whose wake timer is at 100 ms. -/
theorem test_running_link_is_lost :
    lpAfter (.alignmentLoss 0) (inState .rest fun p => { p with align := ⟨0, none, .a, 4⟩ })
        (fun p => (p.state, p.counters.alignLosses)) = some (.listen, 1) ∧
      lpAfter (.signalLoss 0) (inState .up) LP.state = some .down ∧
      lpAfter (.wakeTimerExpiry 0) (inState .wake fun p => { p with timers := ⟨none, none, none, some 400⟩ })
        LP.state = some .listen ∧
      lpAfter (.wakeTimerExpiry 0) (inState .wake fun p => { p with timers := ⟨none, none, none, some 399⟩ })
        LP.state = some .wake := by decide +kernel

/-- The same three losses of a link that holds a move, with enable 0 and 1. -/
theorem test_held_move_follows :
    let held (e : Bool) (st : LinkState) (b : Nat) (w : Option Nat) := inState st fun p =>
      { p with heldMove := true, cfg := { p.cfg with enable := e }, align := ⟨0, none, .a, b⟩,
               timers := ⟨none, none, none, w⟩ }
    lpAfter (.alignmentLoss 0) (held false .up 4 none) LP.state = some .disabled ∧
      lpAfter (.signalLoss 0) (held true .rest 0 none) (fun p => (p.state, p.heldMove)) =
        some (.down, false) ∧
      lpAfter (.wakeTimerExpiry 0) (held false .wake 0 (some 400)) LP.state = some .disabled := by
  decide +kernel

/-- R92: four bad frames in TRAIN and NEGOTIATE, and three. -/
theorem test_alignment_lost_before_up :
    let bad (st : LinkState) (n : Nat) : State := inState st fun p =>
      { p with align := ⟨0, some .b, .a, n⟩, timers := ⟨some 5, none, none, none⟩ }
    let got (st : LinkState) (n : Nat) := lpAfter (.alignmentLoss 0) (bad st n) fun p =>
      (p.state, p.counters.alignLosses, p.timers.neg)
    got .train 4 = some (.listen, 0, none) ∧ got .negotiate 4 = some (.listen, 0, none) ∧
      got .negotiate 3 = some (.negotiate, 0, some 5) := by decide +kernel

theorem test_stopped_links_move :
    lpAfter (.signalDetect 0) (inState .down) LP.state = some .listen ∧
      LP.held State.reset.lp[(0 : Link)] = true ∧
      lpAfter (.signalDetect 0) State.reset LP.state = some .down ∧
      lpAfter (.signalLoss 0) (inState .train) LP.state = some .down ∧
      lpAfter (.signalLoss 0) (inState .disabled) LP.state = some .disabled ∧
      lpAfter (.negotiationTimerExpiry 0)
        (inState .negotiate fun p => { p with timers := ⟨some 2000, none, none, none⟩ })
        (fun p => (p.state, p.negTimeouts)) = some (.listen, 1) ∧
      lpAfter (.negotiationTimerExpiry 0)
        (inState .negotiate fun p => { p with timers := ⟨some 1999, none, none, none⟩ })
        (fun p => (p.state, p.negTimeouts)) = some (.negotiate, 0) := by decide +kernel

/-- R110: at 4 s with nothing to restore, and with G64 removed before. -/
theorem test_restore :
    let down (a : Grades) (t : Nat) := inState .down fun p =>
      { p with advert := a, timers := ⟨none, some t, none, none⟩ }
    (after (exec (.restoreTimerExpiry 0) (down ⟨true, true, true⟩ 16000))).map (fun t => t.mail.reports) =
        some [] ∧
      (after (exec (.restoreTimerExpiry 0) (down ⟨false, true, true⟩ 16000))).map
        (fun t => t.mail.reports) = some [(.lp 0, ⟨.advertRestored, 0, 64, none⟩)] ∧
      lpAfter (.restoreTimerExpiry 0) (down ⟨false, true, true⟩ 15999) LP.advert =
        some ⟨false, true, true⟩ := by decide +kernel

theorem test_rest_and_wake :
    lpAfter (.restHoldTimerExpiry 0)
        (inState .up fun p => { p with cfg := { p.cfg with restHold := 5 }, timers := ⟨none, none, some 20, none⟩ })
        (fun p => p.rest.ownRst) = some true ∧
      lpAfter (.restEntered 0) (inState .up fun p => { p with rest := ⟨true, true, 16, 0, false⟩ }) LP.state =
        some .rest ∧
      lpAfter (.restEntered 0) (inState .up fun p => { p with rest := ⟨true, true, 15, 0, false⟩ }) LP.state =
        some .up ∧
      lpAfter (.clearRunComplete 0) (inState .wake fun p => { p with rest := ⟨false, false, 0, 16, true⟩ })
        LP.state = some .up := by decide +kernel

/-- A use notice that repeats the flag, sets it in UP and in REST, and clears it in REST. -/
theorem test_use_notice :
    let notice (st : LinkState) (held new : Bool) : State :=
      (inState st fun p => { p with rest := ⟨true, false, 3, 3, held⟩ }).onMail fun m =>
        { m with useNotices := updAt m.useNotices 0 fun _ => [new] }
    lpAfter (.useNotice 0) (notice .up true true) (fun p => p.rest.ownRst) = some true ∧
      lpAfter (.useNotice 0) (notice .up false true) (fun p => (p.rest.ownRst, p.rest.setRun)) =
        some (false, 0) ∧
      lpAfter (.useNotice 0) (notice .rest false true) LP.state = some .wake ∧
      lpAfter (.useNotice 0) (notice .rest true false) (fun p => (p.state, p.rest.used)) =
        some (.rest, false) := by decide +kernel

/-- R118, R119: a use notice that clears the flag in UP with and without the partner's flag, and notices
outside UP and REST. -/
theorem test_use_notice_elsewhere :
    let partner (rcap : Bool) : PartnerRecord := ⟨⟨⟨true, true, true⟩, true, rcap, 0, 3208, 0, 9⟩, none, .g32, true⟩
    let notice (st : LinkState) (rcap new : Bool) : State :=
      (inState st fun p =>
        { p with
          rest := ⟨false, false, 0, 3, !new⟩, partner := some (partner rcap)
          cfg := { p.cfg with restHold := 5 } }).onMail fun m =>
        { m with useNotices := updAt m.useNotices 0 fun _ => [new] }
    let got (s : State) := lpAfter (.useNotice 0) s fun p => (p.state, p.rest.used, p.timers.restHold)
    got (notice .up true false) = some (.up, false, some 0) ∧
      got (notice .up false false) = some (.up, false, none) ∧
      got (notice .wake true false) = some (.wake, false, none) ∧
      got (notice .listen true true) = some (.listen, true, none) := by decide +kernel

/-- R105: the frames of a window: the one that opens it, good and bad; a good and a bad one in it; none
before the first TRAIN word, with an undefined code or bad sync; none once the link is ready. -/
theorem test_training_frames :
    let pattern : Vector Word 64 := Vector.ofFn fun i => slotWord (trainingSlot .a (i.val + 1))
    let got (x : Option Window) (rdy : Bool) (w : Word) (v : Vector Word 64) :=
      lpAfter (.receivedFrame 0 w v) (inState .train fun p => { p with train := ⟨3, x⟩, rdy := rdy }) fun p =>
        (p.train, p.counters.serviceErrors, p.counters.codeErrors)
    let good := word .a .train false false 0 0
    got none false good pattern = some (⟨4, some ⟨1, 0⟩⟩, 0, 0) ∧
      got none false good silence = some (⟨4, some ⟨1, 1⟩⟩, 0, 0) ∧
      got (some ⟨254, 1⟩) false good pattern = some (⟨4, some ⟨255, 1⟩⟩, 0, 0) ∧
      got (some ⟨9, 1⟩) false (word .b .train true false 0 0) pattern = some (⟨4, some ⟨10, 2⟩⟩, 1, 0) ∧
      got none false (word .a .fill false false 0 0) pattern = some (⟨4, none⟩, 0, 0) ∧
      got none false (good ||| 0x00F00000#32) pattern = some (⟨4, none⟩, 0, 1) ∧
      got (some ⟨256, 2⟩) true good silence = some (⟨4, some ⟨256, 2⟩⟩, 0, 0) := by decide +kernel

/-! ### Pages -/

/-- A base page: its flags and its next count. -/
def basePage (flags count : Byte) : List Byte := [0, flags, count, 12, 136, 0, 9, 0]

/-- Link 0 in NEGOTIATE with an advertisement and three quarters of a page received, which repeats the
last reception. -/
def paging (advert : Grades) (page : List Byte) (f : PageRx → PageRx := id) : State :=
  inState .negotiate fun p =>
    { p with
      advert := advert, timers := ⟨some 9, none, none, none⟩
      pageRx := f { PageRx.empty with part := page.take 6, lastBase := some (basePageOf page) } }

/-- The last quarter of a page arrives. -/
def lastQuarter (page : List Byte) : Instr :=
  .receivedFrame 0 (serviceWord .a .page false false 3 ((page[6]?).getD 0) ((page[7]?).getD 0)) silence

/-- R97, R98, R198: a base page accepted, as the first reception, and with next counts 4 and 5. -/
theorem test_base_page :
    let got (page : List Byte) (f : PageRx → PageRx) := lpAfter (lastQuarter page) (paging ⟨true, true, true⟩ page f)
      fun p => (p.pageRx.base.isSome, p.pageRx.lastBase.isSome, p.pageRx.ownAck)
    got (basePage 7 0) id = some (true, true, true) ∧ got (basePage 7 4) id = some (true, true, false) ∧
      got (basePage 7 0) (fun x => { x with lastBase := none }) = some (false, true, false) ∧
      got (basePage 7 5) (fun x => { x with lastBase := none }) = some (false, false, false) := by
  decide +kernel

/-- R97, R98: next page 1 received once and twice, with next counts 1 and 0, and page numbers 4 and 5. -/
theorem test_next_page :
    let got (number count : Byte) (last : Option (List Byte)) := lpAfter
      (lastQuarter [number, 65, 66, 67, 0, 0, 0, 0])
      (paging ⟨true, true, true⟩ [number, 65, 66, 67, 0, 0, 0, 0] fun x =>
        { x with base := some (basePageOf (basePage 7 count)), lastNext := updAt x.lastNext 0 fun _ => last })
      fun p => ((p.pageRx.lastNext.toList ++ p.pageRx.next.toList).map Option.isSome, p.pageRx.ownAck)
    let again : Option (List Byte) := some [65, 66, 67, 0, 0, 0]
    got 1 1 none = some ([true, false, false, false, false, false, false, false], false) ∧
      got 1 1 again = some ([true, false, false, false, true, false, false, false], true) ∧
      got 1 0 none = some ([false, false, false, false, false, false, false, false], false) ∧
      got 4 4 none = some ([false, false, false, true, false, false, false, false], false) ∧
      got 5 4 none = some ([false, false, false, false, false, false, false, false], false) := by
  decide +kernel

/-- R97: the quarters of a page: one that starts, one in order, one out of order. -/
theorem test_page_quarters :
    let got (q : Nat) := lpAfter (.receivedFrame 0 (serviceWord .a .page false false q 1 2) silence)
      (inState .negotiate fun p => { p with pageRx := { p.pageRx with part := [8, 9] } }) fun p => p.pageRx.part
    got 0 = some [1, 2] ∧ got 1 = some [8, 9, 1, 2] ∧ got 2 = some [] ∧ got 3 = some [] := by decide +kernel

/-- R99 to R101, R103: the partner's ACK set completes the agreement; clear, it does not; with no common
grade the failure is reported once. -/
theorem test_agreement :
    let got (flags : Byte) (told : Bool) :=
      (after (exec (lastQuarter (basePage flags 0))
        (paging ⟨false, true, true⟩ (basePage flags 0) fun x => { x with failReported := told }))).map fun t =>
          ((LP.state t.lp[(0 : Link)], LP.agreed t.lp[(0 : Link)]),
            (LP.partner t.lp[(0 : Link)]).map PartnerRecord.current, t.mail.reports.map fun r => r.2.kind)
    got 0x2F false = some ((.train, some .g32), some true, []) ∧
      got 0x0F false = some ((.negotiate, some .g32), none, []) ∧
      got 0x24 false = some ((.negotiate, some .g32), none, [.negotiationFailed]) ∧
      got 0x24 true = some ((.negotiate, some .g32), none, []) := by decide +kernel

/-- R78, R80: bad sync, and words that are no PAGE words, in NEGOTIATE. -/
theorem test_other_words_in_negotiate :
    let got (w : Word) := lpAfter (.receivedFrame 0 w silence)
      (inState .negotiate fun p => { p with align := ⟨0, none, .a, 2⟩ }) fun p =>
        (p.align.badRun, p.counters.serviceErrors, p.counters.codeErrors)
    got 0 = some (3, 1, 0) ∧ got (word .a .fill false false 0 0) = some (0, 0, 0) ∧
      got (word .a .fill false false 0 0 ||| 0x00F00000#32) = some (0, 0, 1) := by decide +kernel

/-! ### Messages and frames -/

/-- R105, R106: the window at 256 frames with 2 errors, and the word that brings the link up. -/
theorem test_training_passes :
    lpAfter (.windowPass 0) (inState .train fun p => { p with train := ⟨300, some ⟨256, 2⟩⟩ }) LP.rdy =
        some true ∧
      lpAfter (.windowPass 0) (inState .train fun p => { p with train := ⟨300, some ⟨255, 2⟩⟩ }) LP.rdy =
        some false ∧
      lpAfter (.receivedFrame 0 (word .a .train true false 0 0) silence)
        (inState .train fun p => { p with train := ⟨511, some ⟨256, 2⟩⟩, rdy := true }) LP.state = some .up := by
  decide +kernel

/-- R105, R119: the window is discarded and the rest hold timer started on entry into UP, when the link is
rest-eligible, and not when it is used. -/
theorem test_training_entry :
    let got (used : Bool) := lpAfter (.receivedFrame 0 (word .a .train true false 0 0) silence)
      (inState .train fun p =>
        { p with
          train := ⟨511, some ⟨256, 2⟩⟩, rdy := true, cfg := { p.cfg with restHold := 5 }
          rest := ⟨false, false, 0, 0, used⟩
          partner := some ⟨⟨⟨true, true, true⟩, true, true, 0, 3208, 0, 9⟩, none, .g32, true⟩ })
      fun p => (p.train, p.timers.restHold)
    got false = some (⟨0, none⟩, some 0) ∧ got true = some (⟨0, none⟩, none) := by decide +kernel

/-- R107, R108: a failed window below the threshold; the frame limit at the threshold for G32 and G16. -/
theorem test_training_fails :
    let failed (a : Nat) (g : Grade) := inState .train fun p =>
      { p with train := ⟨512, some ⟨9, 3⟩⟩, attempts := a, agreed := some g }
    lpAfter (.windowFail 0) (failed 1 .g32) (fun p => (p.attempts, p.counters.downshifts)) = some (2, 0) ∧
      lpAfter (.trainLimit 0) (failed 2 .g32) (fun p => (p.attempts, p.advert)) =
        some (0, ⟨false, false, true⟩) ∧
      lpAfter (.trainLimit 0) (failed 2 .g16) (fun p => (p.attempts, p.advert)) =
        some (0, ⟨true, true, true⟩) := by decide +kernel

/-- R76, R80: a good frame with RST clear in REST, and a bad one in UP with a message in assembly. -/
theorem test_running_frame :
    lpAfter (.receivedFrame 0 (word .a .fill false false 0 0) silence) (inState .rest)
        (fun p => (p.state, (p.rx.map List.length))) = some (.wake, some 32) ∧
      lpAfter (.receivedFrame 0 0 silence) (inState .up fun p => { p with asm := .assembling [1, 2] })
        (fun p => (p.asm, p.counters.discarded, p.align.badRun)) = some (.skipping, 1, 1) := by decide +kernel

/-- R120, R124: RST set at set runs 15 and 16, RST clear in UP and in REST, and bad sync. -/
theorem test_rest_flag_counts :
    let got (st : LinkState) (w : Word) (n : Nat) := lpAfter (.receivedFrame 0 w silence)
      (inState st fun p => { p with rest := ⟨st == .rest, false, n, n, false⟩ }) fun p =>
        (p.state, p.rest, p.timers.wake)
    let w (rst : Bool) := word .a .fill false rst 0 0
    got .up (w true) 15 = some (.up, ⟨false, true, 16, 0, false⟩, none) ∧
      got .up (w true) 16 = some (.up, ⟨false, true, 16, 0, false⟩, none) ∧
      got .up (w false) 7 = some (.up, ⟨false, false, 0, 8, false⟩, none) ∧
      got .rest (w false) 7 = some (.wake, ⟨false, false, 0, 1, false⟩, some 0) ∧
      got .wake 0 7 = some (.wake, ⟨false, false, 0, 0, false⟩, none) := by decide +kernel

/-- R83: a header with no body, its check in the final word, is handed over. -/
theorem test_good_message :
    let msg : List Byte := [96, 5, 0, 0]
    let check : List Byte := u16 (crc16 msg).toNat
    let s := inState .up fun p => { p with asm := .assembling msg }
    (after (exec (.receivedFrame 0 (word .a .msgLast2 false false (check[0]?.getD 0) (check[1]?.getD 0)) silence) s)).map
      (fun t => t.mail.lpToMgu) = some [(0, .message msg false)] := by decide +kernel

/-- R82, R84: the table row by row, from an empty, a skipping and an assembling logic. -/
theorem test_assembly_rows :
    let got (a : Assembly) (c : ServiceCode) := lpAfter (.receivedFrame 0 (word .a c false true 7 8) silence)
      (inState .rest fun p => { p with asm := a }) fun p => (p.asm, p.counters.codeErrors, p.counters.discarded)
    let run (n : Nat) : Assembly := .assembling (List.replicate n 0)
    got .empty .msgFirst = some (.assembling [7, 8], 0, 0) ∧
      got (run 2) .msgFirst = some (.assembling [7, 8], 0, 1) ∧
      got .empty .msgMore = some (.empty, 1, 0) ∧ got .skipping .msgMore = some (.skipping, 0, 0) ∧
      got (.assembling [5, 6]) .msgMore = some (.assembling [5, 6, 7, 8], 0, 0) ∧
      got (run 406) .msgMore = some (.skipping, 0, 1) ∧ got (run 406) .msgLast1 = some (.skipping, 0, 1) ∧
      got .skipping .msgLast2 = some (.empty, 0, 0) ∧ got .empty .msgLast1 = some (.empty, 1, 0) ∧
      got (run 4) .msgLast1 = some (.empty, 0, 1) ∧ got (run 4) .msgLast2 = some (.empty, 0, 1) ∧
      got (run 9) .msgAbort = some (.empty, 0, 1) ∧ got .skipping .msgAbort = some (.empty, 0, 0) ∧
      got (run 9) .fill = some (run 9, 0, 0) := by decide +kernel

/-- R83: the same good message in REST and WAKE. -/
theorem test_good_message_at_rest :
    let msg : List Byte := [96, 5, 0, 0]
    let check : List Byte := u16 (crc16 msg).toNat
    let got (st : LinkState) := (after (exec
      (.receivedFrame 0 (word .a .msgLast2 false true (check[0]?.getD 0) (check[1]?.getD 0)) silence)
      (inState st fun p => { p with asm := .assembling msg }))).map fun t =>
        (t.mail.lpToMgu, t.mail.completions[(0 : Link)])
    got .rest = some ([(0, .message msg false)], 1) ∧ got .wake = some ([(0, .message msg false)], 1) := by
  decide +kernel

/-- R77, R86, R96: the service word and the payload of the frame sent: page quarters 0 and 3, the first
two octets of a message, its last two, its last one; and what follows the last quarter. -/
theorem test_words_sent :
    let sent (s : State) := (after (exec (.linkFrameTransmit 0) s)).map fun t =>
      ((LP.line t.lp[(0 : Link)]).map LineFrame.service, (LP.pageTx t.lp[(0 : Link)]).index)
    let page (i q : Nat) (ack : Bool) : State := inState .negotiate fun p =>
      { p with
        pageTx := ⟨[basePage 7 1, [1, 65, 66, 67, 68, 69, 70, 0]], i, q, [1, 65, 66, 67, 68, 69, 70, 0]⟩
        pageRx := { p.pageRx with ownAck := ack } }
    let msg (n : Nat) : State := inState .up fun p =>
      { p with txq := [⟨.response, none, [1, 2, 3, 4, 5]⟩], txSent := n }
    let w (c : ServiceCode) (q : Nat) (o1 o2 : Byte) := some (serviceWord .a c false false q o1 o2)
    sent (page 0 0 true) = some (w .page 0 0 0x27, 0) ∧ sent (page 0 0 false) = some (w .page 0 0 7, 0) ∧
      sent (page 1 3 true) = some (w .page 3 70 0, 0) ∧ sent (page 0 3 true) = some (w .page 3 70 0, 1) ∧
      sent (msg 0) = some (w .msgFirst 0 1 2, 0) ∧ sent (msg 2) = some (w .msgMore 0 3 4, 0) ∧
      sent (msg 3) = some (w .msgLast2 0 4 5, 0) ∧ sent (msg 4) = some (w .msgLast1 0 5 0, 0) ∧
      sent (inState .rest) = some (w .fill 0 0 0, 0) := by decide +kernel

/-- R75: a frame handed over, one of another length, and the not-written mark, at G32. -/
theorem test_payload_sent :
    let sent (f : Option (List Slot)) := lpAfter (.linkFrameTransmit 0)
      (inState .up fun p => { p with txNow := f }) fun p => (p.line.map LineFrame.payload)
    let slots (n : Nat) : List Slot := List.replicate n ⟨1, .live⟩
    let zeros : Option (Option (List Word)) := some (some (List.replicate 32 0))
    sent (some (slots 32)) = some (some (List.replicate 32 0x00000140)) ∧
      sent (some (slots 16)) = zeros ∧ sent none = zeros := by decide +kernel

/-- R86: a message of one octet more than was sent stays; one sent to its end leaves. -/
theorem test_message_is_sent :
    let s (n : Nat) := inState .up fun p => { p with txq := [⟨.busy, none, [1, 2, 3, 4]⟩], txSent := n }
    lpAfter (.linkFrameTransmit 0) (s 3) (fun p => (p.txq.length, p.txSent, p.line.isSome)) =
        some (1, 4, true) ∧
      lpAfter (.responseSent 0) (s 4) (fun p => (p.txq.length, p.txSent)) = some (0, 0) ∧
      lpAfter (.linkFrameTransmit 0) State.reset LP.line = some none := by decide +kernel

theorem test_management_orders :
    let ordered (held : Bool) := (inState .up fun p => { p with heldMove := held }).onMail fun m =>
      { m with discardOrders := updAt m.discardOrders 0 (· + 1), moveOrders := updAt m.moveOrders 0 (· + 1) }
    lpAfter (.messageDiscardReport 0) (ordered true) (fun p => p.counters.discarded) = some 1 ∧
      lpAfter (.heldMove 0) (ordered true) LP.state = some .listen ∧
      lpAfter (.heldMove 0) (ordered false) LP.state = some .up := by decide +kernel

/-- R55, R84, R91, R128: what a lost link and a link that takes RESET DEVICE leave: rest flags clear, the
message in assembly discarded and counted, the receive frame kept. -/
theorem test_running_link_stops :
    let s : State := (inState .up fun p =>
      { p with
        rest := ⟨true, true, 9, 0, true⟩, asm := .assembling [1, 2], rx := some [⟨5, .live⟩]
        timers := ⟨none, none, some 3, none⟩ }).onMail fun m => { m with resets := [⟨.lp 0, .device, 1, true⟩] }
    let got (c : Instr) := lpAfter c s fun p => ((p.rest, p.timers.restore, p.timers.restHold), p.asm,
      p.rx.map List.length, p.counters.discarded)
    got (.signalLoss 0) = some ((⟨false, false, 0, 0, true⟩, some 0, none), .empty, some 1, 1) ∧
      got (.lpReset 0) = some ((⟨false, false, 0, 0, true⟩, some 0, none), .empty, some 1, 0) := by
  decide +kernel

theorem test_lp_reset :
    let s := { inState .up with mail := { Mail.empty with resets := [⟨.lp 0, .device, 1, true⟩] } }
    (after (exec (.lpReset 0) s)).map (fun t => (LP.state t.lp[(0 : Link)], t.mail.acks, t.mail.reports)) =
      some (.down, [.lp 0], []) := by decide +kernel

/-- R115, R116, R186: the three reads; the partner record absent and present. -/
theorem test_link_reads :
    let r : PartnerRecord := ⟨⟨⟨true, true, true⟩, true, true, 0, 3208, 0, 9⟩, none, .g32, true⟩
    (reply State.reset (.linkStatus 0) (.lp 0) .linkStatus [0]).map (fun x => (x.1, x.2.length)) =
        some (.ok, 26) ∧
      reply State.reset (.partnerRead 0) (.lp 0) .partnerRead [0] = some (.notFound, []) ∧
      (reply (lp0 fun p => { p with partner := some r }) (.partnerRead 0) (.lp 0) .partnerRead [0]).map
        (fun x => x.1) = some .ok ∧
      lpAfter (.counterQuery 0)
        ((lp0 fun p => { p with counters := ⟨1, 2, 3, 4, 5, 6⟩ }).onMail fun m =>
          { m with counterQuery := some (0, true) }) LP.counters = some ⟨0, 0, 0, 0, 0, 0⟩ := by decide +kernel

/-- R111: each field just out of range, and a set at the bounds. -/
theorem test_link_set :
    let set (b : List Byte) := reply (inState .up) (.linkSet 0) (.lp 0) .linkSet b
    set [0, 2, 3, 0, 0, 255, 255] = some (.badField, [2]) ∧
      set [0, 1, 3, 0, 0, 255, 255] = some (.badField, [3]) ∧
      set [0, 1, 2, 0, 0, 255, 255] = some (.badField, [4]) ∧
      set [0, 1, 2, 16, 0, 255, 255] = some (.badField, [4]) ∧
      set [0, 1, 2, 15, 0, 255, 255] = some (.badField, [5]) ∧
      set [0, 1, 2, 1, 255, 234, 97] = some (.badField, [6]) ∧
      set [0, 1, 2, 1, 1, 234, 96] = some (.ok, [0]) ∧ Grade.ofCode 2 = some .g64 := by decide +kernel

/-- R112: a disabling LINK SET of the requesting link is held; of another link it is made at once. -/
theorem test_link_set_moves :
    lpAfter (.linkSet 0) (asked (inState .up) (.lp 0) (req0 .linkSet [0, 0, 2, 3, 4, 0, 0]))
        (fun p => (p.state, p.heldMove)) = some (.up, true) ∧
      lpAfter (.linkSet 0) (asked (inState .up) (.lp 0) ⟨⟨1, 7⟩, .linkSet, 5, [0, 0, 2, 3, 4, 0, 0]⟩)
        (fun p => (p.state, p.heldMove)) = some (.disabled, false) := by decide +kernel

/-- R112: a move asked for over link 1 while one is held joins it. -/
theorem test_held_move_is_joined :
    let set (c : Instr) (k : RequestKind) (body : List Byte) :=
      (after (exec c (asked (inState .up fun p => { p with heldMove := true }) (.lp 0) ⟨⟨1, 7⟩, k, 5, body⟩))).map
        fun t => (LP.state t.lp[(0 : Link)], LP.heldMove t.lp[(0 : Link)], t.mail.results.map fun r => r.2.deferred)
    set (.linkSet 0) .linkSet [0, 0, 2, 3, 4, 0, 0] = some (.up, true, [none]) ∧
      set (.linkRenegotiate 0) .linkRenegotiate [0] = some (.up, true, [none]) := by decide +kernel

/-- R127: a rest hold set to 0 with the own RST set, changed, and set to what it was. -/
theorem test_rest_hold_set :
    let r : PartnerRecord := ⟨⟨⟨true, true, true⟩, true, true, 0, 3208, 0, 9⟩, none, .g32, true⟩
    let got (rst : Bool) (lo : Byte) := lpAfter (.linkSet 0) (asked (inState .up fun p =>
      { p with
        cfg := { p.cfg with restHold := 7 }, rest := ⟨rst, false, 9, 0, false⟩, partner := some r
        timers := ⟨none, none, some 11, none⟩ }) (.lp 0) (req0 .linkSet [0, 1, 2, 3, 4, 0, lo])) fun p =>
          (p.rest.ownRst, p.rest.setRun, p.timers.restHold)
    got true 0 = some (false, 0, none) ∧ got true 8 = some (true, 9, some 11) ∧
      got false 8 = some (false, 9, some 0) ∧ got false 7 = some (false, 9, some 11) ∧
      got false 0 = some (false, 9, none) := by decide +kernel

/-- R110: a restore time already spent in DOWN, and one tick short of it. -/
theorem test_restore_time_set :
    let got (k : Nat) := (after (exec (.linkSet 0) (asked (inState .down fun p =>
      { p with advert := ⟨false, false, true⟩, timers := ⟨none, some k, none, none⟩ }) (.lp 0)
        (req0 .linkSet [0, 1, 2, 3, 1, 0, 0])))).map fun t =>
          (LP.advert t.lp[(0 : Link)], (LP.timers t.lp[(0 : Link)]).restore, t.mail.reports.length)
    got 4000 = some (⟨true, true, true⟩, none, 1) ∧ got 3999 = some (⟨false, false, true⟩, some 3999, 0) := by
  decide +kernel

theorem test_link_renegotiate :
    lpAfter (.linkRenegotiate 0) (asked (inState .listen) (.lp 0) (req0 .linkRenegotiate [0])) LP.state =
        some .listen ∧
      lpAfter (.linkRenegotiate 0) (asked (inState .train) (.lp 0) (req0 .linkRenegotiate [0])) LP.state =
        some .listen ∧
      lpAfter (.linkRenegotiate 0) (asked (inState .up) (.lp 0) (req0 .linkRenegotiate [0]))
        (fun p => (p.state, p.heldMove)) = some (.up, true) := by decide +kernel

/-! ## Frame Engine -/

/-- A table with one MIX entry: player 0 to slot 1 of link 1 at code 192. -/
def mixTable : Table Entry := [(5, .mix (.link 1 1) [⟨.player 0, 192⟩])]

/-- The same entry active, gliding from code 180, with the given counter and source. -/
def activeMix (src : Source) (n : Nat) : Table ActiveEntry :=
  [(5, .mix (.link 1 1) [⟨src, 180, 192⟩] n .full)]

/-- The reset state with link 1 in UP at G32 for the Frame Engine, an active table, and every player's
word posted. -/
def engine (t : Table ActiveEntry) (q : List HandOff) : State :=
  { State.reset with
    fe :=
      { FE.reset with
        active := t, cost := tableCost (recordsOf t), queue := q, counter := 9, period := 1
        view := updAt FE.reset.view 1 fun _ => ⟨.up, 32⟩ }
    plb := { PLB.reset with cur := some ⟨0, Vector.replicate 8 (some Slot.silent)⟩ } }

/-- What the Frame Engine holds after a command. -/
def feAfter {α : Type} (c : Instr) (s : State) (f : FE → α) : Option α :=
  (after (exec c s)).map fun t => f t.fe

/-- R52 to R54, R64: the queued table is adopted; a matched term keeps its code and steps, a term on
another source stands at its target, and the counter of the same destination is carried. -/
theorem test_adoption :
    let h : HandOff := ⟨mixTable, 1, 3, 0⟩
    feAfter .feFrameBoundary (engine (activeMix (.player 0) 4) [h]) (fun e => (e.counter, e.cost, e.queue, e.active)) =
        some (10, 1, [], [(5, .mix (.link 1 1) [⟨.player 0, 184, 192⟩] 4 .full)]) ∧
      feAfter .feFrameBoundary (engine (activeMix (.player 1) 4) [h]) (fun e => e.active) =
        some [(5, .mix (.link 1 1) [⟨.player 0, 192, 192⟩] 4 .full)] ∧
      Table.wf 512 h.table = true ∧ admission h.table = .pass := by decide +kernel

/-- With an empty queue the records stay and the counter goes on. -/
theorem test_boundary_without_adoption :
    feAfter .feFrameBoundary (engine (activeMix (.link 1 7) 4) []) (fun e => (e.counter, e.active)) =
      some (10, [(5, .mix (.link 1 1) [⟨.link 1 7, 184, 192⟩] 4 .full)]) := by decide +kernel

/-- R58, R62: a span's slot, an uncovered slot and a link that is not written. -/
theorem test_boundary_writes :
    let s := engine [(0, .span ⟨1, 1, 1, 2, 1⟩ .full)] []
    (after (exec .feFrameBoundary s)).map (fun t => LP.txNext t.lp[(0 : Link)]) = some none ∧
      (after (exec .feFrameBoundary s)).map (fun t =>
        ((LP.txNext t.lp[(1 : Link)]).getD []).take 3) = some [⟨0, .idle⟩, ⟨0, .subst⟩, ⟨0, .idle⟩] ∧
      (after (exec .feFrameBoundary s)).map (fun t => t.mail.inputWords[(0 : Rec)]) =
        some [⟨0, .idle⟩] := by decide +kernel

/-- R60: a sum outside the range is limited, and the frame counts once, up to 65,535. -/
theorem test_saturation :
    let up : State := (engine [(5, .mix (.link 1 1) [⟨.link 1 7, 216, 216⟩] 65534 .full)] []).onLp 1 fun p =>
      { p with rx := some (List.replicate 32 ⟨0x7FFFFF#24, .live⟩) }
    (after (exec .feFrameBoundary up)).map (fun t => ((LP.txNext t.lp[(1 : Link)]).map fun f => f[0]?,
      t.fe.active.map fun e => ActiveEntry.sat e.2)) =
      some (some (some ⟨0x7FFFFF#24, .live⟩), [65535]) := by decide +kernel

/-- R53, R54, R60: at the boundary that adopts it, a table's sum out of range counts at once: carried on for
the same destination up to 65,535, from 0 for another; and the slots of a WAKE view are produced. -/
theorem test_adoption_counts_and_writes :
    let queued (d : Dest) (cls : ViewClass) : State :=
      let s := (engine [(5, .mix (.link 1 1) [⟨.link 2 7, 216, 216⟩] 65535 .full)]
        [⟨[(5, .mix d [⟨.link 2 7, 216⟩])], 1, 3, 0⟩]).onLp 2 fun p =>
          { p with rx := some (List.replicate 32 ⟨0x7FFFFF#24, .live⟩) }
      { s with fe := { s.fe with
        view := updAt (updAt s.fe.view 1 fun _ => ⟨cls, 32⟩) 2 fun _ => ⟨.up, 32⟩ } }
    let got (d : Dest) (cls : ViewClass) := (after (exec .feFrameBoundary (queued d cls))).map fun t =>
      (((LP.txNext t.lp[(1 : Link)]).getD []).take 2, t.fe.active.map fun e => ActiveEntry.sat e.2)
    let loud : Slot := ⟨0x7FFFFF#24, .live⟩
    got (.link 1 1) .up = some ([loud, ⟨0, .idle⟩], [65535]) ∧
      got (.link 1 2) .wake = some ([⟨0, .idle⟩, loud], [1]) ∧
      got (.link 1 1) .rest = some ([], [65535]) := by decide +kernel

theorem test_hand_off_and_view :
    let s := (engine (activeMix (.link 1 7) 0) []).onMail fun m =>
      { m with handOffs := [⟨mixTable, 1, 0, 0⟩], viewNotices := updAt m.viewNotices 1 fun _ => [⟨.out, 0⟩, ⟨.up, 16⟩] }
    feAfter .handOff s (fun e => e.queue.length) = some 1 ∧
      feAfter (.linkViewNotice 1) s (fun e => (e.view[(1 : Link)], e.active.map fun x => x.2.reach)) =
        some (⟨.out, 0⟩, [.none]) := by decide +kernel

/-- R26, R47: the three transactions; a gain adjustment of term 1 and of a term that is not there. -/
theorem test_transactions :
    let s (a : Ask) := (engine (activeMix (.player 0) 0) []).onMail fun m => { m with reuAsk := some a }
    let ans (c : Instr) (a : Ask) := (after (exec c (s a))).map fun t => (t.mail.reuAsk, t.mail.feAnswer)
    ans .activeTableCopy .copy = some (none, some (.copy mixTable)) ∧
      (ans .linkViewSnapshot .snapshot).map (fun x => x.1) = some none ∧
      ans .gainAdjustApply (.gain 5 1 100) = some (none, some (.gain true)) ∧
      feAfter .gainAdjustApply (s (.gain 5 1 100)) (fun e => e.active) =
        some [(5, .mix (.link 1 1) [⟨.player 0, 180, 100⟩] 0 .full)] ∧
      ans .gainAdjustApply (.gain 5 2 100) = some (none, some (.gain false)) ∧
      ans .gainAdjustApply (.gain 4 1 100) = some (none, some (.gain false)) := by decide +kernel

/-- R17, R19: entry numbers 512 and 511, an entry present, and the summary. -/
theorem test_active_reads :
    let s := engine (activeMix (.player 0) 0) []
    reply s .entryReadActive .fe .entryRead [0, 2, 0] = some (.badField, [2]) ∧
      reply s .entryReadActive .fe .entryRead [0, 1, 255] = some (.notFound, []) ∧
      reply s .entryReadActive .fe .entryRead [0, 0, 5] =
        some (.ok, [1, 0, 1, 1, 1, 1, 0, 0, 192, 0, 0, 0, 180, 192]) ∧
      (reply (engine [(511, .span ⟨1, 1, 1, 2, 1⟩ .part)] []) .entryReadActive .fe .entryRead [0, 1, 255]).map
        (fun x => x.2) = some [0, 1, 1, 1, 2, 1, 1] ∧
      (reply s .tableSummaryActive .fe .tableSummary [0]).map (fun x => x.2.length) = some 68 := by
  decide +kernel

/-- R70: ENGINE STATUS waits for the claim, which is FREE or held, and then answers. -/
theorem test_engine_status :
    let s := asked (engine (activeMix (.player 0) 2) []) .fe (req0 .engineStatus [])
    let queried := after (exec .engineStatus s)
    queried.map (fun t => (t.mail.claimQueries, t.fe.status.length)) = some (1, 1) ∧
      ((queried.bind fun t => after (exec .claimQuery t)).bind fun t => after (exec .claimAnswer t)).map
        (fun t => t.mail.results.map fun r => r.2.body) =
        some [[0, 0, 0, 9, 0, 1, 0, 1, 8, 0, 0, 0, 0, 0, 0, 0, 0, 2]] ∧
      ((queried.bind fun t => after (exec .claimQuery
        { t with reu := { REU.reset with claim := some ⟨3, 1, .pending, [], []⟩ } }))).map
        (fun t => t.mail.claimAnswers) = some [(some 3, true)] := by decide +kernel

theorem test_fe_reset :
    let s (sc : Scope) := (engine (activeMix (.player 0) 2) [⟨mixTable, 1, 0, 6⟩]).onMail fun m =>
      { m with resets := [⟨.fe, sc, 2, true⟩] }
    (after (exec .feReset (s .routing))).map (fun t => (t.fe.active, t.fe.counter, t.mail.fates, t.mail.acks)) =
        some ([], 9, [⟨6, none⟩], [.fe]) ∧
      (after (exec .feReset (s .device))).map (fun t => (t.fe.counter, t.mail.counterNotices)) =
        some (0, [0]) := by decide +kernel

/-! ## Route Edit Unit -/

/-- A claim of link 0 in a phase, with staging. -/
def claim0 (ph : ClaimPhase) (t : Table Entry) : Claim := ⟨0, 2, ph, t, []⟩

/-- The reset state with a claim. -/
def claimed (c : Claim) : State := { State.reset with reu := { REU.reset with claim := some c } }

/-- R28: no claim, another link's claim, and the owner's PENDING claim. -/
theorem test_claim_gate :
    reply State.reset .tableCheck .reu .tableCheck [] = some (.notOwner, []) ∧
      reply (claimed { claim0 (.held 0) [] with owner := 7 }) .editAbandon .reu .editAbandon [] =
        some (.owned, [7]) ∧
      reply (claimed (claim0 .pending [])) .tableCommit .reu .tableCommit [] = some (.pending, []) := by
  decide +kernel

/-- R27: hold times 0, 1, 60 and 61; another owner; a PENDING claim. -/
theorem test_edit_open :
    let ask (s : State) (n : Byte) := mailAfter s .editOpen .reu .editOpen [n] fun m => m.reuAsk
    reply State.reset .editOpen .reu .editOpen [0] = some (.badField, [1]) ∧
      reply State.reset .editOpen .reu .editOpen [61] = some (.badField, [1]) ∧
      ask State.reset 1 = some (some .copy) ∧ ask (claimed (claim0 (.held 3) [])) 60 = some (some .copy) ∧
      reply (claimed { claim0 (.held 0) [] with owner := 1 }) .editOpen .reu .editOpen [1] =
        some (.owned, [1]) ∧
      reply (claimed (claim0 .pending [])) .editOpen .reu .editOpen [60] = some (.pending, []) := by
  decide +kernel

/-- R27: the copy opens the claim, or was dropped. -/
theorem test_copy_answer :
    let s (d : Bool) : State := { State.reset with
      reu := { REU.reset with txn := some (.copy (req0 .editOpen [9]) 9 d) }
      mail := { Mail.empty with feAnswer := some (.copy mixTable) } }
    (after (exec .copyAnswer (s false))).map (fun t => (t.reu.claim, t.mail.results.map fun r => r.2.body)) =
        some (some ⟨0, 9, .held 0, mixTable, []⟩, [[0, 0, 1]]) ∧
      (after (exec .copyAnswer (s true))).map (fun t => (t.reu.claim, t.mail.results.map fun r => r.2.code)) =
        some (none, [.aborted]) := by decide +kernel

/-- R29, R5: entry numbers 512 and 511, a bad record and a good one. -/
theorem test_entry_put :
    let s := claimed (claim0 (.held 9) mixTable)
    reply s .entryPut .reu .entryPut [2, 0, 0, 1, 1, 1, 2, 1] = some (.badField, [0]) ∧
      reply s .entryPut .reu .entryPut [1, 255, 0, 8, 1, 1, 2, 1] = some (.badField, [2]) ∧
      reply s .entryPut .reu .entryPut [1, 255, 0, 1, 1, 1, 64, 1] = some (.ok, [1, 255, 0, 2]) ∧
      reply s .entryPut .reu .entryPut [1, 255, 0, 1, 1, 1, 64, 2] = some (.badField, [6]) ∧
      (parseEntry [1, 1, 1, 0, 1, 1, 7, 0, 216]).toOption =
        some (.mix (.recorder 1) [⟨.player 7, 216⟩]) ∧ Table.sorted mixTable = true := by decide +kernel

/-- R30: first above 511, last above 511 or below the first, and the whole table. -/
theorem test_entry_delete :
    let s := claimed (claim0 (.held 9) mixTable)
    let del (b : List Byte) := reply s .entryDelete .reu .entryDelete b
    del [2, 0, 2, 0] = some (.badField, [1]) ∧ del [1, 255, 2, 0] = some (.badField, [2]) ∧
      del [0, 6, 0, 5] = some (.badField, [2]) ∧ del [0, 5, 0, 5] = some (.ok, [0, 1]) ∧
      del [0, 0, 1, 255] = some (.ok, [0, 1]) := by decide +kernel

theorem test_staging_reads :
    let s := claimed (claim0 (.held 9) mixTable)
    reply s .entryReadStaging .reu .entryRead [1, 2, 0] = some (.badField, [2]) ∧
      reply s .entryReadStaging .reu .entryRead [1, 1, 255] = some (.notFound, []) ∧
      reply (claimed (claim0 .pending mixTable)) .entryReadStaging .reu .entryRead [1, 0, 5] =
        some (.ok, [1, 0, 1, 1, 1, 1, 0, 0, 192, 0]) ∧
      (reply s .tableSummaryStaging .reu .tableSummary [1]).map (fun x => x.2.drop 64) = some [0, 1, 0, 1] ∧
      reply s .editAbandon .reu .editAbandon [] = some (.ok, []) := by decide +kernel

theorem test_check_and_commit_ask :
    let s := claimed (claim0 (.held 9) mixTable)
    mailAfter s .tableCheck .reu .tableCheck [] (fun m => m.reuAsk) = some (some .snapshot) ∧
      mailAfter s .tableCommit .reu .tableCommit [] (fun m => m.reuAsk) = some (some .snapshot) := by
  decide +kernel

/-- R40 to R42: a check, a commit that passes, one with a finding, and a sender without the claim. -/
theorem test_snapshot :
    let overlap : Table Entry := [(1, .span ⟨0, 1, 2, 1, 3⟩), (4, .span ⟨1, 1, 2, 3, 1⟩)]
    let s (c : Option Claim) (commit : Bool) : State := { State.reset with
      reu := { REU.reset with claim := c, txn := some (.snapshot (req0 .tableCommit []) commit) }
      mail := { Mail.empty with feAnswer := some (.snapshot FE.reset.view) } }
    let codes (x : State) := (after (exec .snapshotAnswer x)).map fun t =>
      t.mail.results.map fun r => (r.2.code, r.2.body)
    codes (s (some (claim0 (.held 9) mixTable)) false) =
        some [(.ok, [0, 0, 0, 0, 0, 0, 0, 0, 0, 1, 0, 1, 0, 1])] ∧
      codes (s (some (claim0 (.held 9) mixTable)) true) = some [] ∧
      (after (exec .snapshotAnswer (s (some (claim0 (.held 9) mixTable)) true))).map
        (fun t => (t.mail.handOffs.length, t.reu.pending.isSome)) = some (1, true) ∧
      codes (s (some (claim0 (.held 9) overlap)) true) =
        some [(.refused, [1, 0, 2, 3, 0, 1, 0, 4, 0, 3, 0, 2, 0, 2])] ∧
      codes (s none true) = some [(.notOwner, [])] ∧
      codes (s (some { claim0 (.held 9) [] with owner := 3 }) false) = some [(.owned, [3])] := by
  decide +kernel

/-- R40: a cost of 1024 passes, 1025 does not. -/
theorem test_admission_cost :
    let spans (n : Nat) : Table Entry :=
      (List.range 8).map (fun i => (i, Entry.span ⟨0, 2, Fin.ofNat 8 i, 1, 63⟩)) ++
        (List.range n).map fun i => (8 + i, Entry.mix (.link (Fin.ofNat 8 (i / 64)) (i % 64 + 1))
          (List.replicate 8 ⟨.player 0, 0⟩))
    admission (spans 65) = .pass ∧ tableCost (spans 65) = 1024 ∧
      admission (spans 66) = .cost := by decide +kernel

/-- R39: the two overlaps, named by destination and entries. -/
theorem test_admission_overlap :
    let m (p : Nat) : Nat × Entry := (p, .mix (.recorder 1) [⟨.player 0, 0⟩])
    let a (p : Nat) : Nat × Entry := (p, .span ⟨0, 1, 2, 64, 1⟩)
    admission [m 3, a 7, m 9] = .overlapMix (.recorder 1) 3 9 ∧
      admission [m 3, a 7, m 9, a 11] = .overlapSpan (.link 2 64) 7 11 ∧
      Table.wf 512 [m 3, a 7, m 9, a 11] = true := by decide +kernel

/-- R47: PENDING, and each field just out of range and at its bound. -/
theorem test_gain_adjust :
    let adj (b : List Byte) := reply State.reset .gainAdjust .reu .gainAdjust b
    let owing : State := { State.reset with reu := { REU.reset with owed := [⟨0, 0, 0, 0, ⟨0, 0⟩, 0, false⟩] } }
    reply owing .gainAdjust .reu .gainAdjust [2, 0, 0, 0] = some (.pending, []) ∧
      adj [2, 0, 0, 255] = some (.badField, [1]) ∧ adj [1, 255, 0, 255] = some (.badField, [2]) ∧
      adj [1, 255, 9, 255] = some (.badField, [2]) ∧ adj [1, 255, 8, 217] = some (.badField, [3]) ∧
      mailAfter State.reset .gainAdjust .reu .gainAdjust [1, 255, 8, 216] (fun m => m.reuAsk) =
        some (some (.gain 511 8 216)) := by decide +kernel

/-- R48: not found, no staging, staging updated, staging differs by touch and by term. -/
theorem test_gain_reconciled :
    let s (c : Option Claim) (term : Nat) (found : Bool) : State := { State.reset with
      reu := { REU.reset with claim := c, txn := some (.gain (req0 .gainAdjust []) 5 term 9) }
      mail := { Mail.empty with feAnswer := some (.gain found) } }
    let ans (x : State) := (after (exec .gainAdjustAnswer x)).map fun t =>
      t.mail.results.map fun r => (r.2.code, r.2.body)
    ans (s none 1 false) = some [(.notFound, [])] ∧ ans (s none 1 true) = some [(.ok, [0])] ∧
      ans (s (some (claim0 (.held 0) mixTable)) 1 true) = some [(.ok, [1])] ∧
      ans (s (some { claim0 (.held 0) mixTable with touched := [(5, ())] }) 1 true) = some [(.ok, [2])] ∧
      ans (s (some (claim0 (.held 0) mixTable)) 2 true) = some [(.ok, [2])] := by decide +kernel

/-- R44 to R46: the fate of the pending table, of an owed one, and of none. -/
theorem test_fates :
    let r (n : Nat) : CommitRecord := ⟨n, 1, 1, 0, ⟨0, 7⟩, 5, false⟩
    let s (f : Fate) : State := { State.reset with
      reu := { REU.reset with claim := some (claim0 .pending []), pending := some (r 2), owed := [r 1] }
      mail := { Mail.empty with fates := [f] } }
    let got (c : Instr) (f : Fate) := (after (exec c (s f))).map fun t =>
      (t.reu.claim.isSome, t.reu.owed.length, t.mail.results.map fun x => x.2.code)
    got .adoptionNotice ⟨2, some 8⟩ = some (false, 1, [.ok]) ∧
      got .discardNotice ⟨1, none⟩ = some (true, 0, [.aborted]) ∧
      got .discardNotice ⟨0, none⟩ = some (true, 1, []) := by decide +kernel

/-- R33, R35: the hold time passed and not, the owner's loss HELD and PENDING, another link's loss. -/
theorem test_claim_lapses :
    let lost (c : Claim) (l : Link) := (after (exec (.linkLossNotice l) ((claimed c).onMail fun m =>
      { m with lossNotices := updAt m.lossNotices l (· + 1) }))).map fun t =>
        (t.reu.claim.isSome, t.mail.reports.map fun r => r.2.detail)
    (after (exec .holdTimerExpiry (claimed (claim0 (.held 8000) [])))).map (fun t => t.reu.claim) = some none ∧
      (after (exec .holdTimerExpiry (claimed (claim0 (.held 7999) [])))).map (fun t => t.reu.claim.isSome) =
        some true ∧
      lost (claim0 (.held 0) []) 0 = some (false, [1]) ∧ lost (claim0 .pending []) 0 = some (true, []) ∧
      lost (claim0 (.held 0) []) 7 = some (true, []) := by decide +kernel

theorem test_reu_reset :
    let s : State := { State.reset with
      reu := { REU.reset with pending := some ⟨2, 1, 1, 0, ⟨0, 7⟩, 5, false⟩, claim := some (claim0 .pending []),
                              txn := some (.copy (req0 .editOpen [1]) 1 false) }
      mail := { Mail.empty with resets := [⟨.reu, .routing, 1, true⟩] } }
    (after (exec .reuReset s)).map (fun t => (t.reu.claim, t.reu.pending, t.reu.owed.length, t.mail.acks)) =
      some (none, none, 1, [.reu]) := by decide +kernel

/-! ## Sample Store -/

/-- A Sample Store with clip 31 at the end of memory, held `n` times. -/
def store (n : Nat) : State :=
  { State.reset with
    sst :=
      { SST.reset [(131071, 5)] with
        clear := none
        clips := updAt (SST.reset []).clips 31 fun _ => some ⟨131070, 2, none⟩
        holds := updAt (SST.reset []).holds 31 fun _ => n } }

theorem test_memory_commands :
    let mem (s : State) (c : Instr) := (after (exec c s)).map fun t => t.sst.mem
    mem (store 0) .memoryClearComplete = some [(131071, 5)] ∧
      mem { store 0 with sst := SST.reset [(131071, 5)] } .memoryClearComplete = some [] ∧
      (after (exec (.playerRead 7) ((store 0).onMail fun m => { m with playerReads := [⟨7, 3, 131071⟩] }))).map
        (fun t => t.mail.readAnswers) = some [⟨7, 3, 5⟩] ∧
      mem ((store 0).onMail fun m => { m with rcuToSst := [.write 131071 0] }) .recorderWrite = some [] ∧
      mem ((store 0).onMail fun m => { m with rcuToSst := [.write 0 9] }) .recorderWrite =
        some [(0, 9), (131071, 5)] ∧ Memory.wf (store 0).sst.mem = true := by decide +kernel

/-- R129: an address above the last does not exist. -/
theorem test_no_such_address :
    (after (exec .recorderWrite ((store 0).onMail fun m => { m with rcuToSst := [.write 131072 0] }))).isSome =
      false := by decide +kernel

theorem test_holds :
    let sent (n : Nat) (m : PlbMsg) (c : Instr) := (after (exec c ((store n).onMail fun x =>
      { x with plbToSst := [m] }))).map fun t => (t.sst.holds[(31 : Fin 32)], t.mail.holdAnswer)
    sent 1 (.hold 31) .holdRequest = some (2, some (some ⟨131070, 2, none⟩)) ∧
      sent 1 (.hold 0) .holdRequest = some (1, some none) ∧
      sent 1 (.release 31) .releaseNotice = some (0, none) ∧
      sent 0 (.release 31) .releaseNotice = some (0, none) := by decide +kernel

/-- R137: a region over the clip, over the other region, and free of both. -/
theorem test_regions :
    let s : State := { store 0 with
      sst := { (store 0).sst with regions := updAt (store 0).sst.regions 1 fun _ => some ⟨64, 64, true⟩ } }
    let sent (m : RcuMsg) (c : Instr) := after (exec c (s.onMail fun x => { x with rcuToSst := [m] }))
    (sent (.regionRequest 0 131007 64) .regionRequest).map (fun t => t.mail.regionAnswer) =
        some (some (.refusedClip 31)) ∧
      (sent (.regionRequest 0 127 64) .regionRequest).map (fun t => t.mail.regionAnswer) =
        some (some (.refusedRecorder 1)) ∧
      (sent (.regionRequest 0 0 64) .regionRequest).map (fun t => (t.mail.regionAnswer, t.sst.regions[(0 : Rec)])) =
        some (some .granted, some ⟨0, 64, false⟩) ∧
      (sent (.regionRelease 1) .regionRelease).map (fun t => t.sst.regions[(1 : Rec)]) = some none ∧
      (sent (.running 1 false) .runningNotice).map (fun t => t.sst.regions[(1 : Rec)]) =
        some (some ⟨64, 64, false⟩) := by decide +kernel

/-- R132, R133: the start and the end of the run just out of range, a held word, and a free one. -/
theorem test_memory_write :
    let w (n : Nat) (b : List Byte) := reply (store n) .memoryWrite .sst .memoryWrite b
    w 0 [2, 0, 0, 0, 0, 1] = some (.badField, [1]) ∧
      w 0 [1, 255, 255, 0, 0, 1, 0, 0, 2] = some (.badField, [2]) ∧
      w 1 [1, 255, 255, 0, 0, 1] = some (.inUse, [1, 255, 255, 0, 31]) ∧
      w 0 [1, 255, 255, 0, 0, 1] = some (.ok, [1, 255, 255, 1]) ∧
      w 1 [1, 255, 252, 0, 0, 1, 0, 0, 2, 0, 0, 3, 0, 0, 4] = some (.inUse, [1, 255, 254, 0, 31]) ∧
      u24 131071 ++ octetsOfWords [1] = [1, 255, 255, 0, 0, 1] := by decide +kernel

/-- R133: the last word before a running region, its first word, and the same region stopped. -/
theorem test_memory_write_region :
    let w (on : Bool) (b : List Byte) := reply { store 0 with
      sst := { (store 0).sst with regions := updAt (store 0).sst.regions 1 fun _ => some ⟨64, 64, on⟩ } }
      .memoryWrite .sst .memoryWrite b
    w true [0, 0, 63, 0, 0, 1] = some (.ok, [0, 0, 63, 1]) ∧
      w true [0, 0, 63, 0, 0, 1, 0, 0, 2] = some (.inUse, [0, 0, 64, 1, 1]) ∧
      w false [0, 0, 63, 0, 0, 1, 0, 0, 2] = some (.ok, [0, 0, 63, 2]) := by decide +kernel

theorem test_memory_read :
    let r (b : List Byte) := reply (store 1) .memoryRead .sst .memoryRead b
    r [2, 0, 0, 1] = some (.badField, [1]) ∧ r [0, 0, 0, 0] = some (.badField, [2]) ∧
      r [0, 0, 0, 129] = some (.badField, [2]) ∧ r [1, 255, 255, 2] = some (.badField, [2]) ∧
      r [1, 255, 255, 1] = some (.ok, [1, 255, 255, 1, 0, 0, 5]) ∧
      (r [1, 255, 128, 128]).map (fun x => (x.1, x.2.length)) = some (.ok, 388) := by decide +kernel

/-- R139: each field just out of range, a held id, a recorded region, and a definition. -/
theorem test_clip_define :
    let s (n : Nat) : State := { store n with
      sst := { (store n).sst with regions := updAt (store n).sst.regions 1 fun _ => some ⟨64, 64, true⟩ } }
    let d (n : Nat) (b : List Byte) := reply (s n) .clipDefine .sst .clipDefine b
    d 0 [32, 2, 0, 0, 0, 0, 0, 2, 0, 0, 1] = some (.badField, [1]) ∧
      d 0 [31, 2, 0, 0, 0, 0, 0, 2, 0, 0, 1] = some (.badField, [2]) ∧
      d 0 [31, 1, 255, 255, 0, 0, 0, 2, 0, 0, 1] = some (.badField, [3]) ∧
      d 0 [31, 1, 255, 255, 0, 0, 2, 2, 0, 0, 1] = some (.badField, [3]) ∧
      d 0 [31, 1, 255, 255, 0, 0, 1, 2, 0, 0, 1] = some (.badField, [4]) ∧
      d 0 [31, 1, 255, 255, 0, 0, 1, 1, 0, 0, 1] = some (.badField, [5]) ∧
      d 0 [31, 1, 255, 255, 0, 0, 1, 0, 0, 0, 1] = some (.badField, [5]) ∧
      d 1 [31, 1, 255, 255, 0, 0, 1, 1, 0, 0, 0] = some (.inUse, [0, 1]) ∧
      d 0 [31, 0, 0, 127, 0, 0, 1, 0, 0, 0, 0] = some (.inUse, [1, 1]) ∧
      d 0 [31, 0, 0, 128, 0, 0, 1, 0, 0, 0, 0] = some (.ok, [31, 1]) := by decide +kernel

theorem test_clip_delete_and_read :
    reply (store 0) .clipDelete .sst .clipDelete [32] = some (.badField, [1]) ∧
      reply (store 0) .clipDelete .sst .clipDelete [30] = some (.notFound, []) ∧
      reply (store 2) .clipDelete .sst .clipDelete [31] = some (.inUse, [0, 2]) ∧
      reply (store 0) .clipDelete .sst .clipDelete [31] = some (.ok, [31]) ∧
      reply (store 0) .clipRead .sst .clipRead [32] = some (.badField, [1]) ∧
      reply (store 0) .clipRead .sst .clipRead [0] = some (.notFound, []) ∧
      reply (store 2) .clipRead .sst .clipRead [31] = some (.ok, [1, 255, 254, 0, 0, 2, 0, 0, 0, 0, 2]) := by
  decide +kernel

/-! ## Player Bank -/

/-- A player with the given places, each a clip of two words, at position `n`. -/
def playing (ids : List (Fin 32)) (n : Nat) (stop : Bool) (loop : Option Nat) : PlayerState :=
  ⟨ids.map fun i => ⟨i, ⟨100, 2, loop⟩⟩, n, stop, true⟩

/-- The reset state with player 7 as given and frame 3 open at the Player Bank. -/
def bank (x : PlayerState) : State :=
  { State.reset with
    plb :=
      { PLB.reset with
        players := updAt PLB.reset.players 7 fun _ => x
        cur := some ⟨3, Vector.replicate 8 none⟩, period := 4 } }

/-- What player 7 is after a command. -/
def playerAfter (c : Instr) (s : State) : Option PlayerState :=
  (after (exec c s)).map fun t => t.plb.players[(7 : Player)]

/-- R145: an IDLE player and a PLAYING one at a boundary. -/
theorem test_player_boundary :
    (after (exec .plbFrameBoundary (bank (playing [4] 1 false none)))).map (fun t => t.mail.playerReads) =
        some [⟨7, 4, 101⟩] ∧
      (after (exec .plbFrameBoundary (bank (playing [4] 1 false none)))).map (fun t =>
        (t.plb.cur.map fun q => (q.frame, q.words[(0 : Player)], q.words[(7 : Player)]))) =
        some (some (4, some ⟨0, .idle⟩, none)) := by decide +kernel

/-- R146: within the clip; at its end with a clip behind, looping, stopping, and played out. -/
theorem test_player_advances :
    let got (x : PlayerState) := playerAfter (.playerReadAnswer 7)
      ((bank x).onMail fun m => { m with readAnswers := [⟨7, 3, 9⟩] })
    (got (playing [4] 0 false none)).map (fun x => (x.pos, x.reading)) = some (1, false) ∧
      (got (playing [4, 5] 1 false (some 0))).map (fun x => (x.pos, x.queue.length)) = some (0, 1) ∧
      (got (playing [4] 1 false (some 1))).map (fun x => (x.pos, x.queue.length)) = some (1, 1) ∧
      got (playing [4] 1 true (some 1)) = some PlayerState.idle ∧
      got (playing [4] 1 false none) = some PlayerState.idle := by decide +kernel

/-- R148: each field just out of range, stop-at-end, four places, three places. -/
theorem test_play :
    let now (b : List Byte) := reply State.reset .playNow .plb .play b
    let next (x : PlayerState) (b : List Byte) := reply (bank x) .playNext .plb .play b
    now [8, 32, 2] = some (.badField, [1]) ∧ now [7, 32, 2] = some (.badField, [2]) ∧
      now [7, 31, 2] = some (.badField, [3]) ∧
      mailAfter State.reset .playNow .plb .play [7, 31, 0] (fun m => m.plbToSst) = some [.hold 31] ∧
      next PlayerState.idle [8, 32, 1] = some (.badField, [1]) ∧
      next PlayerState.idle [7, 32, 1] = some (.badField, [2]) ∧
      next (playing [1] 0 true none) [7, 31, 1] = some (.state, []) ∧
      next (playing [1, 2, 3, 4] 0 false none) [7, 31, 1] = some (.noSpace, []) ∧
      mailAfter (bank (playing [1, 2, 3] 0 false none)) .playNext .plb .play [7, 31, 1]
        (fun m => m.plbToSst) = some [.hold 31] := by decide +kernel

/-- R148 to R150, R164: the answers to a hold. -/
theorem test_hold_answer :
    let s (next ab : Bool) (a : Option Clip) : State :=
      let b := bank (playing [1, 2] 1 false none)
      { b with
        plb := { b.plb with waiting := some ⟨req0 .play [7, 31, 0], 7, 31, next, ab⟩ }
        mail := { b.mail with holdAnswer := some a } }
    let got (x : State) := (after (exec .holdAnswer x)).map fun t =>
      (t.mail.results.map (fun r => (r.2.code, r.2.body)), t.mail.plbToSst)
    got (s false true none) = some ([(.aborted, [])], []) ∧
      got (s false true (some ⟨0, 2, none⟩)) = some ([(.aborted, [])], [.release 31]) ∧
      got (s false false none) = some ([(.notFound, [])], []) ∧
      got (s false false (some ⟨0, 2, none⟩)) = some ([(.ok, [7, 1, 1])], [.release 1, .release 2]) ∧
      got (s true false (some ⟨0, 2, none⟩)) = some ([(.ok, [7, 3, 3])], []) := by decide +kernel

theorem test_stop :
    reply (bank (playing [1, 2] 1 false none)) .stopNow .plb .stop [7, 0] = some (.ok, [7]) ∧
      mailAfter (bank (playing [1, 2] 1 false none)) .stopNow .plb .stop [7, 0] (fun m => m.plbToSst) =
        some [.release 1, .release 2] ∧
      mailAfter (bank (playing [1, 2] 1 false none)) .stopEnd .plb .stop [7, 1] (fun m => m.plbToSst) =
        some [.release 2] ∧
      mailAfter State.reset .stopNow .plb .stop [0, 0] (fun m => m.reports.length) = some 0 ∧
      reply State.reset .stopNow .plb .stop [7, 2] = some (.badField, [2]) ∧
      reply State.reset .stopNow .plb .stop [8, 0] = some (.badField, [1]) ∧
      reply State.reset .stopEnd .plb .stop [8, 1] = some (.badField, [1]) ∧
      reply State.reset .playerStatus .plb .playerStatus [8] = some (.badField, [1]) ∧
      reply (bank (playing [1, 2] 1 false none)) .playerStatus .plb .playerStatus [7] =
        some (.ok, [1, 2, 1, 2, 255, 255, 0, 0, 1, 0]) := by decide +kernel

/-- R151, R154: the boundary that read a clip's last word comes first: a STOP NOW after it finds the player
IDLE, PLAYER_DONE having cause 0; a NEXT placed after it is the first place; one word earlier the stop
finds the clip playing. -/
theorem test_boundary_comes_first :
    let opened (n : Nat) : Option State := after (exec .plbFrameBoundary (bank (playing [4] n false none)))
    let stop (n : Nat) := ((opened n).bind fun s =>
      after (exec .stopNow (s.onMail fun m => { m with reqs := [(.plb, req0 .stop [7, 0])] }))).map fun t =>
        (t.mail.reports.map fun r => r.2.detail, t.mail.plbToSst)
    let next (n : Nat) := ((opened n).bind fun s => after (exec .holdAnswer { s with
      plb := { s.plb with waiting := some ⟨req0 .play [7, 31, 1], 7, 31, true, false⟩ }
      mail := { s.mail with holdAnswer := some (some ⟨0, 2, none⟩) } })).map fun t =>
        ((PlayerState.queue t.plb.players[(7 : Player)]).map fun q => q.id, t.mail.reports.length)
    stop 1 = some ([4], [.release 4]) ∧ stop 0 = some ([260], [.release 4]) ∧
      next 1 = some ([31], 1) ∧ next 0 = some ([4, 31], 0) ∧
      (bank (playing [4] 1 false none)).mail.playerReads = [] ∧
      (bank (playing [4] 1 false none)).mail.readAnswers = [] := by decide +kernel

/-- The reads of a boundary, each taken and answered, leave none outstanding. -/
theorem test_reads_complete :
    let taken := (allEight.flatMap fun p => [Instr.playerRead p, .playerReadAnswer p]).foldl
      (fun o c => o.bind fun s => after (exec c s))
      (after (exec .plbFrameBoundary (bank (playing [4] 0 false none))))
    taken.map (fun t => (t.mail.playerReads.length, t.mail.readAnswers.length,
      PlayerState.pos t.plb.players[(7 : Player)])) = some (0, 0, 1) := by decide +kernel

/-! ## Recorder Unit -/

/-- The reset state with recorder 1 over addresses 64 to 127 in a state, at a position. -/
def recording (st : RecState) (once : Bool) (pos : Nat) : State :=
  { State.reset with
    rcu :=
      { RCU.reset with
        recorders := updAt RCU.reset.recorders 1 fun _ => ⟨st, some (64, 64), once, pos, false⟩ } }

/-- R157: a word within the region, at its end in both modes, and ignored. -/
theorem test_recorder_word :
    let got (s : State) := (after (exec (.recorderInputWord 1)
      (s.onMail fun m => { m with inputWords := updAt m.inputWords 1 fun _ => [⟨9, .live⟩] }))).map fun t =>
        (t.mail.rcuToSst, Recorder.state t.rcu.recorders[(1 : Rec)], Recorder.pos t.rcu.recorders[(1 : Rec)])
    got (recording .running false 126) = some ([.write 126 9], .running, 127) ∧
      got (recording .running false 127) = some ([.write 127 9], .running, 64) ∧
      got (recording .running true 127) = some ([.write 127 9, .running 1 false], .full, 64) ∧
      got (recording .set true 127) = some ([], .set, 127) := by decide +kernel

/-- R159: each field just out of range, RUNNING, and a request; then the answers. -/
theorem test_record_setup :
    let set (s : State) (b : List Byte) := reply s .recordSetup .rcu .recordSetup b
    let s := recording .set true 64
    set s [2, 2, 0, 0, 0, 0, 0, 2] = some (.badField, [1]) ∧
      set s [1, 2, 0, 0, 0, 0, 0, 2] = some (.badField, [2]) ∧
      set s [1, 1, 255, 255, 0, 0, 63, 2] = some (.badField, [3]) ∧
      set s [1, 1, 255, 193, 0, 0, 64, 2] = some (.badField, [3]) ∧
      set s [1, 1, 255, 192, 0, 0, 64, 2] = some (.badField, [4]) ∧
      set (recording .running true 64) [1, 1, 255, 192, 0, 0, 64, 1] = some (.state, []) ∧
      mailAfter s .recordSetup .rcu .recordSetup [1, 1, 255, 192, 0, 0, 64, 1] (fun m => m.rcuToSst) =
        some [.regionRequest 1 131008 64] := by decide +kernel

theorem test_region_answer :
    let s (ab : Bool) (a : RegionAnswer) : State :=
      let b := recording .set false 64
      { b with
        rcu := { b.rcu with waiting := some ⟨req0 .recordSetup [], 1, 0, 64, true, ab⟩ }
        mail := { b.mail with regionAnswer := some a } }
    let got (x : State) := (after (exec .regionAnswer x)).map fun t =>
      t.mail.results.map (fun r => (r.2.code, r.2.body))
    got (s true .granted) = some [(.aborted, [])] ∧ got (s false (.refusedClip 31)) = some [(.inUse, [0, 31])] ∧
      got (s false (.refusedRecorder 0)) = some [(.inUse, [1, 0])] ∧
      got (s false .granted) = some [(.ok, [1])] := by decide +kernel

theorem test_record_requests :
    let start (st : RecState) := reply (recording st true 70) .recordStart .rcu .recordStart [1]
    let stop (st : RecState) := mailAfter (recording st true 70) .recordStop .rcu .recordStop [1] fun m => m.rcuToSst
    reply State.reset .recordStart .rcu .recordStart [2] = some (.badField, [1]) ∧
      start .idle = some (.state, []) ∧ start .set = some (.ok, [1]) ∧ start .running = some (.ok, [1]) ∧
      reply State.reset .recordStop .rcu .recordStop [2] = some (.badField, [1]) ∧
      stop .running = some [.running 1 false] ∧ stop .full = some [] ∧ stop .set = some [] ∧
      reply State.reset .recorderStatus .rcu .recorderStatus [2] = some (.badField, [1]) ∧
      reply (recording .full true 70) .recorderStatus .rcu .recorderStatus [1] =
        some (.ok, [3, 0, 0, 64, 0, 0, 64, 1, 0, 0, 70, 0]) := by decide +kernel

theorem test_player_and_recorder_resets :
    let ordered (s : State) (b : Block) (sc : Scope) := s.onMail fun m => { m with resets := [⟨b, sc, 0, true⟩] }
    (after (exec .plbReset (ordered (bank (playing [1, 2] 1 false none)) .plb .routing))).map
        (fun t => (t.mail.plbToSst, t.mail.acks)) = some ([.release 1, .release 2], [.plb]) ∧
      (after (exec .rcuReset (ordered (recording .running true 70) .rcu .routing))).map
        (fun t => (t.mail.rcuToSst, Recorder.pos t.rcu.recorders[(1 : Rec)])) =
        some ([.running 1 false], 64) ∧
      (after (exec .rcuReset (ordered (recording .running true 70) .rcu .device))).map
        (fun t => (t.mail.rcuToSst, Recorder.state t.rcu.recorders[(1 : Rec)])) =
        some ([.regionRelease 1], .idle) := by decide +kernel

/-! ## Management Unit -/

/-- A link 0 in UP whose partner is a manager, with a message waiting at the Management Unit. -/
def talking (octets : List Byte) (k : MguLink) : State :=
  let s := inState .up fun p =>
    { p with partner := some ⟨⟨⟨true, true, true⟩, true, true, 0, 3208, 0, 9⟩, none, .g32, true⟩ }
  { s with
    mgu := { s.mgu with links := updAt s.mgu.links 0 fun _ => k }
    mail := { s.mail with lpToMgu := [(0, .message octets true)] } }

/-- The response octets, without the check, that wait in the transmit list of link 0. -/
def queued (t : State) : List (Place × List Byte) :=
  (LP.txq t.lp[(0 : Link)]).map fun m => (m.place, m.octets.take (m.octets.length - 2))

theorem test_messages :
    let busy (w : Bool) : MguLink := ⟨some ⟨⟨0, 3⟩, 96, 1⟩, none, w, none⟩
    let got (s : State) := (after (exec (.messageTaken 0) s)).map fun t =>
      (queued t, t.mail.discardOrders[(0 : Link)], t.mail.reqs.map fun r => r.1)
    got (talking [96, 5, 0, 1, 8] MguLink.empty) = some ([], 0, [.evu]) ∧
      got (talking [96, 5, 0, 1, 8] (busy true)) = some ([], 1, []) ∧
      got (talking [96, 5, 0, 1, 8] (busy false)) = some ([(.busy, [224, 5, 1, 1, 0, 0])], 0, []) ∧
      got (talking [96, 5, 0, 2, 8] MguLink.empty) = some ([(.response, [224, 5, 3, 1, 0, 0])], 0, []) ∧
      got (talking [99, 5, 0, 1, 8] MguLink.empty) = some ([(.response, [227, 5, 2, 1, 0, 0])], 0, []) ∧
      got (talking [96, 5, 0, 0] MguLink.empty) = some ([(.response, [224, 5, 3, 1, 0, 0])], 0, []) ∧
      got (talking [36, 5, 0, 1, 2] MguLink.empty) = some ([(.response, [164, 5, 4, 1, 0, 1, 1])], 0, []) := by
  decide +kernel

/-- R167: the same message from a link whose partner has no MGR flag is discarded. -/
theorem test_message_not_eligible :
    let s := talking [96, 5, 0, 1, 8] MguLink.empty
    (after (exec (.messageTaken 0)
      (s.onMail fun m => { m with lpToMgu := [(0, .message [96, 5, 0, 1, 8] false)] }))).map
      (fun t => (queued t, t.mail.discardOrders[(0 : Link)])) = some ([], 1) := by decide +kernel

/-- R166: the message of link 1 arrived first, then that of link 0; and a sent report of link 0 before its
message. -/
theorem test_messages_in_order :
    let got (first : Link × LpMsg) (l : Link) := (after (exec (.messageTaken l)
      ((talking [] MguLink.empty).onMail fun m =>
        { m with lpToMgu := [first, (0, .message [96, 5, 0, 1, 8] true)] }))).map fun t => t.mail.lpToMgu.length
    let other : Link × LpMsg := (1, .message [96, 5, 0, 0] true)
    got other 0 = some 2 ∧ got other 1 = some 1 ∧ got (0, .sent .busy none) 0 = some 2 ∧
      got (1, .sent .busy none) 0 = some 1 := by decide +kernel

/-- R170, R171: a result built and accepted, held behind another response, and not expected. -/
theorem test_results :
    let r : Result := ⟨⟨0, 3⟩, .ok, [8], none⟩
    let s (ref : Ref) (q : List TxMsg) : State :=
      let t := talking [] ⟨some ⟨ref, 97, 1⟩, none, false, none⟩
      (t.onLp 0 fun p => { p with txq := q }).onMail fun m => { m with results := [(.evu, r)] }
    let got (x : State) := (after (exec (.ownerResult .evu) x)).map fun t =>
      (queued t, MguLink.heldResp t.mgu.links[(0 : Link)], (MguLink.inProgress t.mgu.links[(0 : Link)]).isSome)
    got (s ⟨0, 3⟩ []) = some ([(.response, [225, 1, 0, 1, 0, 1, 8])], none, false) ∧
      (got (s ⟨0, 3⟩ [⟨.response, some ⟨0, 2⟩, [1, 2]⟩])).map (fun x => x.2.1.isSome) = some true ∧
      got (s ⟨0, 4⟩ []) = some ([], none, true) := by decide +kernel

theorem test_events_waiting :
    (after (exec .eventsWaitingQuery State.reset)).map (fun t => t.mgu.eventsWaiting) = some 1 := by
  decide +kernel

/-- R171, R172, R174: a BUSY response sent, a closing response sent, a held response offered next. -/
theorem test_place_reports :
    let s (k : MguLink) (m : LpMsg) : State := (talking [] k).onMail fun x =>
      { x with lpToMgu := [(0, m)] }
    let got (c : Instr) (x : State) := (after (exec c x)).map fun t =>
      (t.mgu.links[(0 : Link)], t.mail.moveOrders[(0 : Link)], queued t)
    got (.sentReport 0) (s ⟨none, none, true, none⟩ (.sent .busy none)) = some (MguLink.empty, 0, []) ∧
      got (.discardReport 0) (s ⟨none, none, false, some ⟨.heldMove, ⟨0, 3⟩⟩⟩ (.discarded .response (some ⟨0, 3⟩))) =
        some (MguLink.empty, 1, []) ∧
      got (.sentReport 0) (s ⟨none, none, false, some ⟨.heldMove, ⟨0, 3⟩⟩⟩ (.sent .response (some ⟨0, 2⟩))) =
        some (⟨none, none, false, some ⟨.heldMove, ⟨0, 3⟩⟩⟩, 0, []) ∧
      got (.sentReport 0) (s ⟨none, some ⟨⟨0, 4⟩, [7], none⟩, false, none⟩ (.sent .response (some ⟨0, 2⟩))) =
        some (MguLink.empty, 0, [(.response, [7])]) := by decide +kernel

/-- R173, R174: the stop notice with and without a RESET DEVICE of the link that still waits. -/
theorem test_stop_notice :
    let s (k : MguLink) (r : Option CurrentReset) : State :=
      let t := (talking [] k).onMail fun x => { x with lpToMgu := [(0, .stopped)] }
      { t with mgu := { t.mgu with curReset := r } }
    let got (x : State) := (after (exec (.stopNotice 0) x)).map fun t =>
      (t.mgu.links[(0 : Link)], t.mail.moveOrders[(0 : Link)], t.mail.resets.map fun o => (o.block, o.ack))
    got (s ⟨none, none, true, some ⟨.heldMove, ⟨0, 3⟩⟩⟩ none) = some (MguLink.empty, 1, []) ∧
      got (s MguLink.empty (some ⟨⟨0, 3⟩, .device, [.fe], false⟩)) =
        some (MguLink.empty, 0, [(.lp 0, false)]) ∧
      got (s MguLink.empty (some ⟨⟨0, 3⟩, .device, [.fe], true⟩)) = some (MguLink.empty, 0, []) ∧
      got (s MguLink.empty (some ⟨⟨1, 3⟩, .device, [.fe], false⟩)) = some (MguLink.empty, 0, []) := by
  decide +kernel

/-- R176: labels of 0 and 24 characters, and the first zero character at 1 and at 3. -/
theorem test_name_set :
    let s (b : List Byte) : State :=
      (talking [] ⟨some ⟨⟨0, 7⟩, 2, 5⟩, none, false, none⟩).onMail fun m =>
        { m with reqs := [(.mgu, req0 .nameSet b)] }
    let got (b : List Byte) := (after (exec .nameSet (s b))).map fun t => (t.mgu.label.length, queued t)
    got [] = some (0, [(.response, [130, 5, 0, 1, 0, 1, 0])]) ∧
      got (List.replicate 24 65) = some (24, [(.response, [130, 5, 0, 1, 0, 1, 24])]) ∧
      got [0, 65] = some (0, [(.response, [130, 5, 4, 1, 0, 1, 1])]) ∧
      got [65, 66, 0, 0] = some (0, [(.response, [130, 5, 4, 1, 0, 1, 3])]) := by decide +kernel

theorem test_identify :
    let s : State := (talking [] ⟨some ⟨⟨0, 7⟩, 1, 5⟩, none, false, none⟩).onMail fun m =>
      { m with reqs := [(.mgu, req0 .identify [])] }
    (after (exec .identify s)).map (fun t => (MguLink.inProgress t.mgu.links[(0 : Link)], t.mail.reqs.length)) =
      some (none, 0) := by decide +kernel

/-- R169: a NAME SET and a RESET behind an IDENTIFY are not taken before it. -/
theorem test_own_requests_in_order :
    let got (c : Instr) := (after (exec c ((talking [] MguLink.empty).onMail fun m =>
      { m with reqs := [(.mgu, req0 .identify []), (.mgu, req0 .nameSet [65]), (.mgu, req0 .reset [0])] }))).map
        fun t => t.mail.reqs.length
    got .nameSet = some 3 ∧ got .resetRouting = some 3 ∧ got .identify = some 2 := by decide +kernel

/-- R177 to R179: scopes 0, 1 and 2, and a RESET that comes while another is carried out. -/
theorem test_resets :
    let s (b : Byte) (r : Option CurrentReset) : State :=
      let t := (talking [] ⟨some ⟨⟨0, 7⟩, 3, 5⟩, none, false, none⟩).onMail fun m =>
        { m with reqs := [(.mgu, req0 .reset [b])] }
      { t with mgu := { t.mgu with curReset := r } }
    let got (c : Instr) (x : State) := (after (exec c x)).map fun t =>
      (t.mail.reqs.length, t.mail.resets.length, t.mgu.waitingResets.length)
    got .resetRouting (s 0 none) = some (0, 5, 0) ∧ got .resetDevice (s 1 none) = some (0, 12, 0) ∧
      got .resetRouting (s 2 none) = some (0, 0, 0) ∧
      got .resetDevice (s 1 (some ⟨⟨1, 1⟩, .routing, [.fe], false⟩)) = some (0, 0, 1) := by decide +kernel

/-- R177, R174: an acknowledgment that is not the last, the last one with its requester, and without. -/
theorem test_acknowledgments :
    let s (ref : Nat) (w : List Block) : State :=
      let t := (talking [] ⟨some ⟨⟨0, ref⟩, 3, 5⟩, none, false, none⟩).onMail fun m => { m with acks := [.fe] }
      { t with mgu := { t.mgu with curReset := some ⟨⟨0, 7⟩, .device, w, false⟩ } }
    let got (x : State) := (after (exec (.resetAck .fe) x)).map fun t =>
      (t.mgu.curReset.map CurrentReset.waiting, queued t, t.mail.resets.length)
    got (s 7 [.fe, .evu]) = some (some [.evu], [], 0) ∧
      got (s 7 [.fe]) = some (none, [(.response, [131, 5, 0, 1, 0, 1, 1])], 0) ∧
      got (s 8 [.fe]) = some (none, [], 1) := by decide +kernel

/-- R177: the last acknowledgment of one RESET begins the one that waits. -/
theorem test_waiting_reset_begins :
    let s : State :=
      { State.reset with
        mgu := { MGU.reset with
          curReset := some ⟨⟨0, 7⟩, .routing, [.fe], false⟩
          waitingResets := [⟨⟨1, 8⟩, .reset, 5, [1]⟩, ⟨⟨2, 9⟩, .reset, 6, [0]⟩] }
        mail := { Mail.empty with acks := [.fe] } }
    (after (exec (.resetAck .fe) s)).map (fun t =>
      (t.mgu.curReset.map CurrentReset.ref, t.mgu.waitingResets.length, t.mail.resets.length)) =
        some (some ⟨1, 8⟩, 0, 12) := by decide +kernel

/-! ## Event Unit -/

/-- The reset state with the given number of records in the event list. -/
def withEvents (n : Nat) (overflow : Nat) : State :=
  { State.reset with
    evu :=
      { EVU.reset with
        events := List.replicate n ⟨0, 0, .start, 0, 0⟩, seq := BitVec.ofNat 16 n, overflow := overflow } }

/-- R183: reports at 63 and 64 records, and at an overflow counter of 65,535. -/
theorem test_reports :
    let got (n o : Nat) := (after (exec (.eventReport .plb) ((withEvents n o).onMail fun m =>
      { m with reports := [(.plb, ⟨.playerDone, 7, 31, none⟩)] }))).map fun t =>
        (t.evu.events.length, t.evu.seq, t.evu.overflow)
    got 63 0 = some (64, 64, 0) ∧ got 64 0 = some (64, 64, 1) ∧ got 64 65535 = some (64, 64, 65535) := by
  decide +kernel

/-- R185: counts 0, 9, 1 and 8. -/
theorem test_events_read :
    let read (n : Byte) := reply (withEvents 2 258) .eventsRead .evu .eventsRead [n]
    read 0 = some (.badField, [1]) ∧ read 9 = some (.badField, [1]) ∧
      read 1 = some (.ok, [1, 2, 1, 0, 0, 0, 0, 0, 0, 1, 0, 0, 0, 0]) ∧
      (read 8).map (fun x => x.2.length) = some 25 := by decide +kernel

theorem test_counters_read :
    reply State.reset .countersRead .evu .countersRead [8, 2] = some (.badField, [1]) ∧
      reply State.reset .countersRead .evu .countersRead [7, 2] = some (.badField, [2]) ∧
      mailAfter State.reset .countersRead .evu .countersRead [7, 1] (fun m => m.counterQuery) =
        some (some (7, true)) ∧
      (after (exec .counterAnswer { State.reset with
        evu := { EVU.reset with query := some (req0 .countersRead [7, 0]) }
        mail := { Mail.empty with counterAnswer := some (7, ⟨1, 2, 3, 4, 5, 256⟩) } })).map
        (fun t => t.mail.results.map fun r => r.2.body) =
        some [[7, 0, 1, 0, 2, 0, 3, 0, 4, 0, 5, 1, 0]] := by decide +kernel

theorem test_query_outstanding :
    let s := asked { State.reset with evu := { EVU.reset with query := some (req0 .countersRead [7, 0]) } } .evu
      (req0 .eventsRead [1])
    s.evu.query ≠ none ∧ (after (exec .eventsRead s)).map (fun t => t.mail.reqs.length) = some 1 := by
  decide +kernel

/-- R191: each field just out of range, and a line at its bounds. -/
theorem test_indicator_set :
    let set (b : List Byte) := reply State.reset .indicatorSet .evu .indicatorSet b
    set [4, 8, 16] = some (.badField, [1]) ∧ set [3, 8, 16] = some (.badField, [2]) ∧
      set [3, 7, 16] = some (.badField, [3]) ∧ set [3, 7, 10] = some (.ok, [3, 7, 10]) ∧
      (after (exec .indicatorSet (asked State.reset .evu (req0 .indicatorSet [3, 7, 10])))).map
        (fun t => t.evu.lines[(3 : Fin 4)]) = some ⟨7, true, false, true, false, none⟩ := by decide +kernel

theorem test_copies_and_lines :
    let m : Mail := { Mail.empty with
      counterNotices := [5], stateNotices := updAt Mail.empty.stateNotices 7 fun _ => [.up]
      completions := updAt Mail.empty.completions 3 fun _ => 1 }
    let s (n : Nat) : State := { State.reset with
      mail := m
      evu := { EVU.reset with
        fast := ⟨true, n⟩, slow := ⟨true, n⟩
        lines := updAt EVU.reset.lines 2 fun x => { x with pulseTimer := some n } } }
    let got {α : Type} (c : Instr) (n : Nat) (f : EVU → α) := (after (exec c (s n))).map fun t => f t.evu
    got .counterNotice 0 (fun e => e.frameCopy) = some 5 ∧
      got (.stateNotice 7) 0 (fun e => e.linkCopy[(7 : Link)]) = some .up ∧
      got (.completionReport 3) 0 (fun e => IndLine.pulseTimer e.lines[(3 : Fin 4)]) = some (some 0) ∧
      got (.pulseTimerExpiry 2) 200 (fun e => IndLine.pulseTimer e.lines[(2 : Fin 4)]) = some none ∧
      got (.pulseTimerExpiry 2) 199 (fun e => IndLine.pulseTimer e.lines[(2 : Fin 4)]) = some (some 199) ∧
      got (.blinkPhase .fast) 500 (fun e => e.fast) = some ⟨false, 0⟩ ∧
      got (.blinkPhase .slow) 2000 (fun e => e.slow) = some ⟨false, 0⟩ ∧
      got (.blinkPhase .slow) 1999 (fun e => e.slow) = some ⟨true, 1999⟩ := by decide +kernel

/-- R190: each row of the table, and a pulse over an off phase. -/
theorem test_patterns :
    let line (st : LinkState) (timer : Option Nat) (phase : Bool) : Bool :=
      indicatorOn { EVU.reset with
        linkCopy := updAt EVU.reset.linkCopy 0 fun _ => st, fast := ⟨phase, 0⟩, slow := ⟨!phase, 0⟩
        lines := updAt EVU.reset.lines 0 fun x => { x with pulseTimer := timer } } 0
    line .wake (some 0) false = true ∧ line .train none true = true ∧ line .wake none false = false ∧
      line .listen none true = false ∧ line .negotiate none false = true ∧ line .rest none false = true ∧
      line .down none true = false := by decide +kernel

theorem test_evu_reset :
    let got (n : Nat) (sc : Scope) := (after (exec .evuReset ((withEvents n 3).onMail fun m =>
      { m with resets := [⟨.evu, sc, 7, true⟩] }))).map fun t =>
        (t.evu.events.length, t.evu.seq, t.evu.overflow, t.mail.acks)
    got 64 .device = some (1, 1, 0, [.evu]) ∧ got 63 .routing = some (64, 64, 3, [.evu]) ∧
      got 64 .routing = some (64, 64, 4, [.evu]) := by decide +kernel

/-! ## States that meet the invariants, and step -/

/-- The reset state with one command waiting. -/
def waiting (c : Instr) : State := { State.reset with pending := [c] }

theorem test_event_list_sound : (waiting (.eventReport .fe)).evu.Sound ∧
    (after (step (waiting (.eventReport .fe)))).isSome = true :=
  ⟨⟨by decide, fun i h => by
    have : i = 0 := Nat.lt_one_iff.mp h
    subst this; rfl⟩, by decide +kernel⟩

theorem test_routing_sound :
    (engine (activeMix (.link 1 7) 4) [⟨mixTable, 1, 3, 0⟩]).RoutingSound where
  active := ⟨by unfold RouteTable; decide +kernel, by decide +kernel, by decide +kernel⟩
  queued := fun h m => by
    cases List.mem_singleton.mp m
    exact ⟨by unfold RouteTable; decide +kernel, by decide +kernel, by decide +kernel⟩
  handed := fun _ h => nomatch h
  copied := fun _ h => nomatch h
  staged := fun _ h => nomatch h
  claimed := fun _ h => nomatch h
  pended := fun _ h => nomatch h
  adjusted := fun _ _ _ _ h => nomatch h
  asked := fun _ _ _ h => nomatch h

/-- No element of a vector of empty options is present. -/
theorem test_nothing_stands {α : Type} {n : Nat} (i : Fin n) (x : α) :
    (Vector.replicate n (none : Option α))[i] ≠ some x := by simp

theorem test_audio_sound : (waiting .memoryClearComplete).AudioSound where
  store :=
    { memory := by decide
      clip := fun id c h => absurd h (test_nothing_stands id c)
      held := fun id h => by
        have e : (waiting .memoryClearComplete).sst.holds[id] = 0 := by
          show (Vector.replicate 32 0)[id] = 0
          simp
        rw [e] at h; exact absurd h (Nat.lt_irrefl 0)
      clear := fun r g _ _ h => absurd h (test_nothing_stands r g)
      apart := fun g _ h => absurd h (test_nothing_stands (0 : Fin 2) g) }
  player := fun p => by
    have e : (waiting .memoryClearComplete).plb.players[p] = PlayerState.idle := by
      show (Vector.replicate 8 PlayerState.idle)[p] = _
      simp
    rw [e]
    exact ⟨Nat.zero_le 4, fun _ h => (nomatch h), fun _ h => (nomatch h), fun _ => ⟨rfl, rfl, rfl⟩⟩
  waiting := fun _ h => nomatch h
  granted := fun _ h => nomatch h
  reads := fun _ h => nomatch h
  recorder := fun r => by
    have e : (waiting .memoryClearComplete).rcu.recorders[r] = Recorder.idle := by
      show (Vector.replicate 2 Recorder.idle)[r] = _
      simp
    rw [e]
    exact ⟨⟨fun _ => rfl, fun _ => rfl⟩, fun _ _ h => (nomatch h)⟩
  setup := fun _ h => nomatch h
  sent := fun _ h => nomatch h

theorem test_links_sound : (waiting (.signalDetect 0)).LinksSound := fun l => by
  have e : (waiting (.signalDetect 0)).lp[l] = LP.reset := by
    show (Vector.replicate 8 LP.reset)[l] = _
    simp
  rw [e]
  exact ⟨rfl, rfl, by decide, by decide, List.nodup_nil⟩

/-- A clip in a queue and held, and a running recorder over its recorded region, with a write on its way. -/
def tied : State :=
  { store 1 with
    sst := { (store 1).sst with regions := updAt (store 1).sst.regions 1 fun _ => some ⟨64, 64, true⟩ }
    plb :=
      { PLB.reset with
        players := updAt PLB.reset.players 7 fun _ => ⟨[⟨31, ⟨131070, 2, none⟩⟩], 0, false, false⟩ }
    rcu := (recording .running false 70).rcu
    mail := { Mail.empty with rcuToSst := [.write 69 5] }
    pending := [.recorderWrite] }

theorem test_blocks_tied : tied.BlocksTied ∧ (after (step tied)).isSome = true :=
  ⟨⟨⟨by decide +kernel, by decide +kernel, fun _ _ h => (nomatch h), by decide +kernel, by decide +kernel⟩,
    ⟨by decide +kernel, by decide +kernel, by decide +kernel, fun _ h => (nomatch h),
      fun _ h => (nomatch h)⟩⟩, by decide +kernel⟩

end Sys2Proof.Tests
end

section
/-! SUPPORT. Which part of the state holds the routing, and which operations of the shared layer, of the
Link Ports, of the Management Unit and of the audio blocks leave it alone. -/

namespace Sys2Proof.RouteTable

open Sys2Proof.Machine Sys2Proof.Laws

/-- What `State.RoutingSound` speaks of: the tables of the Frame Engine, the claim with its commit and
transaction, and what is on its way between the Frame Engine and the Route Edit Unit. -/
structure Routing where
  active : Table ActiveEntry
  cost : Nat
  queue : List HandOff
  claim : Option Claim
  pending : Option CommitRecord
  txn : Option Txn
  handOffs : List HandOff
  feAnswer : Option FeAnswer
  reuAsk : Option Ask

/-- The routing of a state. -/
def routing (s : State) : Routing :=
  ⟨s.fe.active, s.fe.cost, s.fe.queue, s.reu.claim, s.reu.pending, s.reu.txn, s.mail.handOffs,
    s.mail.feAnswer, s.mail.reuAsk⟩

/-- The soundness of the routing depends on nothing else. -/
theorem routingSound_congr {s t : State} (hs : s.RoutingSound) (h : routing t = routing s) :
    t.RoutingSound := by
  simp only [routing, Routing.mk.injEq] at h
  obtain ⟨ha, hc, hq, hcl, hp, ht, hh, hf, hr⟩ := h
  obtain ⟨active, queued, handed, copied, staged, claimed, pended, adjusted, asked⟩ := hs
  constructor
  · rw [ha, hc]; exact active
  · rw [hq]; exact queued
  · rw [hh]; exact handed
  · rw [hf]; exact copied
  · rw [hcl]; exact staged
  · rw [hp, hcl]; exact claimed
  · rw [hp, hcl]; exact pended
  · rw [ht]; exact adjusted
  · rw [hr]; exact asked

/-! ## The shared operations -/

section Shared

variable (s : State)

@[simp] theorem routing_onLp (l : Link) (f : LP → LP) : routing (s.onLp l f) = routing s := rfl

@[simp] theorem routing_onMgu (l : Link) (f : MguLink → MguLink) :
    routing (s.onMgu l f) = routing s := rfl

@[simp] theorem routing_onEvu (f : EVU → EVU) : routing (s.onEvu f) = routing s := rfl

@[simp] theorem routing_onPlayer (p : Player) (f : PlayerState → PlayerState) :
    routing (s.onPlayer p f) = routing s := rfl

@[simp] theorem routing_onRecorder (r : Rec) (f : Recorder → Recorder) :
    routing (s.onRecorder r f) = routing s := rfl

@[simp] theorem routing_setClip (id : Fin 32) (c : Option Clip) :
    routing (s.setClip id c) = routing s := rfl

@[simp] theorem routing_setRegion (r : Rec) (f : Option Region → Option Region) :
    routing (s.setRegion r f) = routing s := rfl

/-- Messages other than hand-offs and transactions may come and go. -/
@[simp] theorem routing_onMail (f : Mail → Mail) (hh : ∀ m, (f m).handOffs = m.handOffs)
    (ha : ∀ m, (f m).feAnswer = m.feAnswer) (hr : ∀ m, (f m).reuAsk = m.reuAsk) :
    routing (s.onMail f) = routing s := by
  simp [routing, hh, ha, hr]

@[simp] theorem routing_report (b : Block) (k : EventKind) (n d : Nat) (st : Option (BitVec 32)) :
    routing (s.report b k n d st) = routing s := rfl

@[simp] theorem routing_stateNotice (l : Link) (x : LinkState) :
    routing (s.stateNotice l x) = routing s := rfl

@[simp] theorem routing_completion (l : Link) : routing (s.completion l) = routing s := rfl

@[simp] theorem routing_viewNotice (l : Link) (v : View) :
    routing (s.viewNotice l v) = routing s := rfl

@[simp] theorem routing_toMgu (l : Link) (ms : List LpMsg) : routing (s.toMgu l ms) = routing s := rfl

@[simp] theorem routing_toSstFromPlb (ms : List PlbMsg) :
    routing (s.toSstFromPlb ms) = routing s := rfl

@[simp] theorem routing_toSstFromRcu (ms : List RcuMsg) :
    routing (s.toSstFromRcu ms) = routing s := rfl

@[simp] theorem routing_dropRcu : routing s.dropRcu = routing s := rfl

@[simp] theorem routing_ackReset (b : Block) : routing (s.ackReset b) = routing s := rfl

@[simp] theorem routing_handReset (o : ResetOrder) : routing (s.handReset o) = routing s := rfl

@[simp] theorem routing_answer (b : Block) (req : Req) (code : ResultCode) (body : List Byte)
    (d : Option Deferred) : routing (s.answer b req code body d) = routing s := rfl

@[simp] theorem routing_badField (b : Block) (req : Req) (field : Nat) :
    routing (s.badField b req field) = routing s := rfl

/-- The branches of an `if` that agree on the routing. -/
@[simp] theorem routing_ite (c : Prop) {_ : Decidable c} (a b : State) :
    routing (if c then a else b) = if c then routing a else routing b := apply_ite _ _ _ _

/-- A request taken by its owner. -/
theorem routing_withRequest (b : Block) (which : Req → Bool) (f : Req → State → State)
    (h : ∀ req t, routing (f req t) = routing t) : routing (s.withRequest b which f) = routing s := by
  unfold State.withRequest
  split
  · simp [h]
  · rfl

/-- A reset taken by its block. -/
theorem routing_withReset (b : Block) (f : ResetOrder → State → State)
    (h : ∀ o t, routing (f o t) = routing t) : routing (s.withReset b f) = routing s := by
  unfold State.withReset
  split
  · simp [h]
  · rfl

end Shared

/-! ## Link Ports -/

section LinkPorts

variable (s : State) (l : Link)

@[simp] theorem routing_leaveRunning : routing (s.leaveRunning l) = routing s := rfl

@[simp] theorem routing_moveCore (new : LinkState) : routing (s.moveCore l new) = routing s := by
  simp [State.moveCore]

@[simp] theorem routing_moveLink (new : LinkState) : routing (s.moveLink l new) = routing s := by
  simp [State.moveLink]

@[simp] theorem routing_carryHeldMove : routing (s.carryHeldMove l) = routing s := by
  simp [State.carryHeldMove]

@[simp] theorem routing_restoreAdvert : routing (s.restoreAdvert l) = routing s := by
  simp [State.restoreAdvert]

@[simp] theorem routing_restoreExpired : routing (s.restoreExpired l) = routing s := by
  unfold State.restoreExpired
  dsimp only
  split <;> simp

@[simp] theorem routing_downshift : routing (s.downshift l) = routing s := by
  unfold State.downshift
  dsimp only
  split <;> simp

@[simp] theorem routing_trainingFailure : routing (s.trainingFailure l) = routing s := by
  simp [State.trainingFailure]

@[simp] theorem routing_resetLp : routing (s.resetLp l) = routing s := by
  simp [State.resetLp]

@[simp] theorem routing_dueAlignmentAcquired :
    routing (s.dueAlignmentAcquired l) = routing s := by
  simp [State.dueAlignmentAcquired]

@[simp] theorem routing_dueAlignmentLoss : routing (s.dueAlignmentLoss l) = routing s := by
  simp [State.dueAlignmentLoss]

@[simp] theorem routing_dueWindowPass : routing (s.dueWindowPass l) = routing s := by
  unfold State.dueWindowPass
  dsimp only
  split <;> simp

@[simp] theorem routing_dueWindowFail : routing (s.dueWindowFail l) = routing s := by
  unfold State.dueWindowFail
  dsimp only
  split <;> simp

@[simp] theorem routing_dueTrainLimit : routing (s.dueTrainLimit l) = routing s := by
  simp [State.dueTrainLimit]

@[simp] theorem routing_dueRestEntered : routing (s.dueRestEntered l) = routing s := by
  simp [State.dueRestEntered]

@[simp] theorem routing_dueClearRunComplete : routing (s.dueClearRunComplete l) = routing s := by
  simp [State.dueClearRunComplete]

@[simp] theorem routing_dueResponseSent : routing (s.dueResponseSent l) = routing s := by
  unfold State.dueResponseSent
  split <;> simp

@[simp] theorem routing_settleLink : routing (s.settleLink l) = routing s := by
  simp [State.settleLink, State.settleFrame]

@[simp] theorem routing_agreement : routing (s.agreement l) = routing s := by
  unfold State.agreement
  dsimp only
  split
  · split <;> simp
  · rfl

@[simp] theorem routing_asmResult (out : AsmOut) : routing (s.asmResult l out) = routing s := by
  cases out <;> rfl

@[simp] theorem routing_frameNegotiate (w : Word) : routing (s.frameNegotiate l w) = routing s := by
  simp [State.frameNegotiate]

@[simp] theorem routing_frameTrain (w : Word) (pl : Vector Word 64) :
    routing (s.frameTrain l w pl) = routing s := by
  simp [State.frameTrain]

@[simp] theorem routing_frameRunning (w : Word) (pl : Vector Word 64) :
    routing (s.frameRunning l w pl) = routing s := by
  unfold State.frameRunning
  dsimp only
  split
  · split <;> simp
  · simp

@[simp] theorem routing_useChanged (used : Bool) : routing (s.useChanged l used) = routing s := by
  unfold State.useChanged
  dsimp only
  split <;> simp

@[simp] theorem routing_requestMove (req : Req) (new : LinkState) :
    routing (s.requestMove l req new).1 = routing s := by
  unfold State.requestMove
  split <;> simp

end LinkPorts

/-! ## Management Unit -/

section Management

variable (s : State) (l : Link)

@[simp] theorem routing_queryEvents : routing s.queryEvents = routing s := rfl

@[simp] theorem routing_carryDeferred (d : Deferred) :
    routing (s.carryDeferred l d) = routing s := by
  cases d <;> rfl

@[simp] theorem routing_carryIfDeferred (d : Option Deferred) :
    routing (s.carryIfDeferred l d) = routing s := by
  cases d <;> simp [State.carryIfDeferred]

@[simp] theorem routing_accept (place : Place) (ref : Option Ref) (octets : List Byte) :
    routing (s.accept l place ref octets) = routing s := rfl

@[simp] theorem routing_offer (ref : Ref) (octets : List Byte) (d : Option Deferred) :
    routing (s.offer l ref octets d) = routing s := by
  simp [State.offer]

@[simp] theorem routing_respond (ip : InProgress) (code : ResultCode) (body : List Byte)
    (d : Option Deferred) : routing (s.respond l ip code body d) = routing s := by
  simp [State.respond]

@[simp] theorem routing_takeResult (r : Result) : routing (s.takeResult r) = routing s := by
  unfold State.takeResult
  split <;> simp

@[simp] theorem routing_answerOwn (req : Req) (code : ResultCode) (body : List Byte) :
    routing (s.answerOwn req code body) = routing s := by
  simp [State.answerOwn]

@[simp] theorem routing_reoffer : routing (s.reoffer l) = routing s := by
  unfold State.reoffer
  split <;> simp

@[simp] theorem routing_closeAfter (ref : Option Ref) : routing (s.closeAfter l ref) = routing s := by
  unfold State.closeAfter
  split <;> simp

@[simp] theorem routing_placeEmptied (place : Place) (ref : Option Ref) :
    routing (s.placeEmptied l place ref) = routing s := by
  cases place <;> simp [State.placeEmptied]

@[simp] theorem routing_requesterStopped : routing (s.requesterStopped l) = routing s := by
  unfold State.requesterStopped
  split
  · split
    · rfl
    · rfl
  · rfl

@[simp] theorem routing_orderDiscard : routing (s.orderDiscard l) = routing s := rfl

@[simp] theorem routing_setLpMail (ms : List (Link × LpMsg)) :
    routing (s.setLpMail ms) = routing s := rfl

@[simp] theorem routing_answerBusy (code tag : Byte) :
    routing (s.answerBusy l code tag) = routing s := by
  simp [State.answerBusy]

@[simp] theorem routing_takeMessage (octets : List Byte) :
    routing (s.takeMessage l octets) = routing s := by
  unfold State.takeMessage
  dsimp only
  split
  · exact (routing_respond _ _ _ _ _ _).trans rfl
  · rfl

@[simp] theorem routing_dealMessage (octets : List Byte) (mgr : Bool) :
    routing (s.dealMessage l octets mgr) = routing s := by
  simp [State.dealMessage]

@[simp] theorem routing_stopLink : routing (s.stopLink l) = routing s := by
  simp [State.stopLink]

@[simp] theorem routing_endOthers : routing (s.endOthers l) = routing s := rfl

theorem routing_handResets (bs : List Block) (o : Block → ResetOrder) :
    routing (bs.foldl (fun s b => s.handReset (o b)) s) = routing s := by
  induction bs generalizing s with
  | nil => rfl
  | cons b bs ih => rw [List.foldl_cons, ih, routing_handReset]

@[simp] theorem routing_beginReset (req : Req) : routing (s.beginReset req) = routing s := by
  unfold State.beginReset
  dsimp only
  split
  · exact (routing_handResets _ _ _).trans rfl
  · exact (routing_endOthers _ _).trans ((routing_handResets _ _ _).trans rfl)

@[simp] theorem routing_takeReset (req : Req) : routing (s.takeReset req) = routing s := by
  unfold State.takeReset
  split
  · simp
  · split
    · rfl
    · simp

@[simp] theorem routing_finishReset (r : CurrentReset) : routing (s.finishReset r) = routing s := by
  unfold State.finishReset
  dsimp only
  split
  · split
    · exact (routing_respond _ _ _ _ _ _).trans rfl
    · split
      · rfl
      · exact (routing_carryIfDeferred _ _ _).trans rfl
  · split
    · rfl
    · exact (routing_carryIfDeferred _ _ _).trans rfl

@[simp] theorem routing_nextReset : routing s.nextReset = routing s := by
  unfold State.nextReset
  split
  · exact (routing_beginReset _ _).trans rfl
  · rfl

end Management

/-! ## Player Bank and Recorder Unit -/

section Audio

variable (s : State)

@[simp] theorem routing_advancePlayer (p : Player) : routing (s.advancePlayer p) = routing s := by
  unfold State.advancePlayer
  dsimp only
  split <;> simp

@[simp] theorem routing_takeReadAnswer (p : Player) : routing (s.takeReadAnswer p) = routing s := by
  unfold State.takeReadAnswer
  split
  · dsimp only
    split
    · exact (routing_advancePlayer _ _).trans rfl
    · rfl
  · rfl

@[simp] theorem routing_openPlbFrame : routing s.openPlbFrame = routing s := rfl

@[simp] theorem routing_askHold (req : Req) (next : Bool) :
    routing (s.askHold req next) = routing s := rfl

@[simp] theorem routing_place (w : PlayWait) (c : Clip) : routing (s.place w c) = routing s := by
  simp [State.place]

@[simp] theorem routing_takeHoldAnswer : routing s.takeHoldAnswer = routing s := by
  unfold State.takeHoldAnswer
  split
  · dsimp only
    split
    · rfl
    · rfl
    · exact (routing_place _ _ _).trans rfl
    · rfl
  · rfl

@[simp] theorem routing_stopNow (p : Player) : routing (s.stopNow p) = routing s := by
  unfold State.stopNow
  split <;> rfl

@[simp] theorem routing_stopEnd (p : Player) : routing (s.stopEnd p) = routing s := by
  unfold State.stopEnd
  split <;> rfl

theorem routing_plbRequest (which : Req → Bool) (f : Req → State → State)
    (h : ∀ req t, routing (f req t) = routing t) : routing (s.plbRequest which f) = routing s := by
  unfold State.plbRequest
  split
  · exact routing_withRequest _ _ _ _ h
  · rfl

@[simp] theorem routing_record (r : Rec) (w : Sample) : routing (s.record r w) = routing s := by
  simp [State.record]

@[simp] theorem routing_recordStart (req : Req) (r : Rec) :
    routing (s.recordStart req r) = routing s := by
  unfold State.recordStart
  split <;> rfl

@[simp] theorem routing_recordStop (r : Rec) : routing (s.recordStop r) = routing s := by
  unfold State.recordStop
  split <;> rfl

@[simp] theorem routing_routingResetRecorder (r : Rec) :
    routing (s.routingResetRecorder r) = routing s := by
  unfold State.routingResetRecorder
  split <;> rfl

@[simp] theorem routing_deviceResetRecorder (r : Rec) :
    routing (s.deviceResetRecorder r) = routing s := by
  simp [State.deviceResetRecorder]

theorem routing_rcuRequest (k : RequestKind) (f : Req → State → State)
    (h : ∀ req t, routing (f req t) = routing t) : routing (s.rcuRequest k f) = routing s := by
  unfold State.rcuRequest
  split
  · exact routing_withRequest _ _ _ _ h
  · rfl

theorem routing_evuRequest (k : RequestKind) (f : Req → State → State)
    (h : ∀ req t, routing (f req t) = routing t) : routing (s.evuRequest k f) = routing s := by
  unfold State.evuRequest
  split
  · exact routing_withRequest _ _ _ _ h
  · rfl

end Audio

/-! ## Commands that leave the routing alone -/

/-- Whatever next state an outcome names has the routing of `s`. -/
def KeepsRouting (s : State) (o : Host.Outcome State Fault Refusal) : Prop :=
  ∀ t, o = .next t → routing t = routing s

@[simp] theorem keeps_next {s t : State} : KeepsRouting s (.next t) ↔ routing t = routing s :=
  ⟨fun h => h t rfl, fun h u hu => by injection hu with hu; rw [← hu, h]⟩

@[simp] theorem keeps_fault (s : State) (f : Fault) : KeepsRouting s (.fault f) := fun _ h => nomatch h

@[simp] theorem keeps_refused (s : State) (r : Refusal) : KeepsRouting s (.refused r) :=
  fun _ h => nomatch h

@[simp] theorem keeps_ite (s : State) (c : Prop) {_ : Decidable c} (a b : Host.Outcome State Fault Refusal) :
    KeepsRouting s (if c then a else b) ↔ if c then KeepsRouting s a else KeepsRouting s b := by
  split <;> rfl

section Commands

variable (s : State)

/-! ### Link Ports -/

section LinkPortCommands

variable (l : Link)

theorem execReceivedFrame_keeps (w : Word) (pl : Vector Word 64) :
    KeepsRouting s (execReceivedFrame l w pl s) := by
  unfold execReceivedFrame
  dsimp only
  split <;> simp

theorem execSignalDetect_keeps : KeepsRouting s (execSignalDetect l s) := by
  simp [execSignalDetect]

theorem execSignalLoss_keeps : KeepsRouting s (execSignalLoss l s) := by
  simp [execSignalLoss]

theorem execNegotiationTimerExpiry_keeps : KeepsRouting s (execNegotiationTimerExpiry l s) := by
  unfold execNegotiationTimerExpiry
  dsimp only
  split <;> simp

theorem execRestoreTimerExpiry_keeps : KeepsRouting s (execRestoreTimerExpiry l s) := by
  simp [execRestoreTimerExpiry]

theorem execLinkFrameTransmit_keeps : KeepsRouting s (execLinkFrameTransmit l s) := by
  simp [execLinkFrameTransmit]

theorem execRestHoldTimerExpiry_keeps : KeepsRouting s (execRestHoldTimerExpiry l s) := by
  unfold execRestHoldTimerExpiry
  dsimp only
  split <;> simp

theorem execWakeTimerExpiry_keeps : KeepsRouting s (execWakeTimerExpiry l s) := by
  unfold execWakeTimerExpiry
  dsimp only
  split <;> simp

theorem execUseNotice_keeps : KeepsRouting s (execUseNotice l s) := by
  unfold execUseNotice
  dsimp only
  split
  · split <;> simp
  · simp

theorem execMessageDiscardReport_keeps : KeepsRouting s (execMessageDiscardReport l s) := by
  simp [execMessageDiscardReport]

theorem execHeldMove_keeps : KeepsRouting s (execHeldMove l s) := by
  simp [execHeldMove]

theorem execLpReset_keeps : KeepsRouting s (execLpReset l s) :=
  keeps_next.mpr ((routing_withReset _ _ _ fun _ _ => by simp).trans (routing_settleLink s l))

theorem execLinkSet_keeps : KeepsRouting s (execLinkSet l s) := by
  refine keeps_next.mpr ((routing_withRequest _ _ _ _ fun req t => ?_).trans (routing_settleLink s l))
  split
  · rfl
  · extract_lets old cfg changed s1 s2 s3 r
    have h2 : routing s2 = routing t := by simp [s2, s1]
    have h3 : routing s3 = routing t := by simp [s3, h2]
    have hr : routing r.1 = routing s3 := by
      simp only [r]
      split
      · exact routing_requestMove _ _ _ _
      · rfl
    rw [routing_answer, hr, h3]

theorem execLinkRenegotiate_keeps : KeepsRouting s (execLinkRenegotiate l s) := by
  refine keeps_next.mpr ((routing_withRequest _ _ _ _ fun req t => ?_).trans (routing_settleLink s l))
  extract_lets s1 r
  have hs : routing s1 = routing t := by simp [s1]
  have hr : routing r.1 = routing s1 := by
    simp only [r]
    split
    · exact routing_requestMove _ _ _ _
    · rfl
  rw [routing_answer, hr, hs]

theorem execLinkStatus_keeps : KeepsRouting s (execLinkStatus l s) :=
  keeps_next.mpr
    ((routing_withRequest _ _ _ _ fun _ _ => routing_answer _ _ _ _ _ _).trans (routing_settleLink s l))

theorem execPartnerRead_keeps : KeepsRouting s (execPartnerRead l s) := by
  refine keeps_next.mpr ((routing_withRequest _ _ _ _ fun req t => ?_).trans (routing_settleLink s l))
  split <;> rfl

theorem execCounterQuery_keeps : KeepsRouting s (execCounterQuery l s) := by
  unfold execCounterQuery
  dsimp only
  split <;> simp

end LinkPortCommands

/-! ### Management Unit -/

theorem execMessageTaken_keeps (l : Link) : KeepsRouting s (execMessageTaken l s) := by
  unfold execMessageTaken
  split <;> simp

theorem execSentReport_keeps (l : Link) : KeepsRouting s (execSentReport l s) := by
  unfold execSentReport
  split <;> simp

theorem execDiscardReport_keeps (l : Link) : KeepsRouting s (execDiscardReport l s) := by
  unfold execDiscardReport
  split <;> simp

theorem execStopNotice_keeps (l : Link) : KeepsRouting s (execStopNotice l s) := by
  unfold execStopNotice
  split <;> simp

theorem execOwnerResult_keeps (b : Block) : KeepsRouting s (execOwnerResult b s) := by
  unfold execOwnerResult
  split <;> simp

theorem execIdentify_keeps : KeepsRouting s (execIdentify s) :=
  keeps_next.mpr (routing_withRequest _ _ _ _ fun _ _ => routing_answerOwn _ _ _ _)

theorem execNameSet_keeps : KeepsRouting s (execNameSet s) := by
  refine keeps_next.mpr (routing_withRequest _ _ _ _ fun req t => ?_)
  split
  · simp
  · exact (routing_answerOwn _ _ _ _).trans rfl

theorem execResetRouting_keeps : KeepsRouting s (execResetRouting s) :=
  keeps_next.mpr (routing_withRequest _ _ _ _ fun _ _ => routing_takeReset _ _)

theorem execResetDevice_keeps : KeepsRouting s (execResetDevice s) :=
  keeps_next.mpr (routing_withRequest _ _ _ _ fun _ _ => routing_takeReset _ _)

theorem execResetAck_keeps (b : Block) : KeepsRouting s (execResetAck b s) := by
  unfold execResetAck
  split
  · dsimp only
    split
    · split
      · simp
      · exact keeps_next.mpr rfl
    · simp
  · simp

/-! ### Sample Store -/

theorem execMemoryClearComplete_keeps : KeepsRouting s (execMemoryClearComplete s) := by
  unfold execMemoryClearComplete
  split <;> exact keeps_next.mpr rfl

theorem takePlayerRead_keeps (p : Player) : KeepsRouting s (s.takePlayerRead p) := by
  unfold State.takePlayerRead
  split <;> simp

theorem execRecorderWrite_keeps : KeepsRouting s (execRecorderWrite s) := by
  unfold execRecorderWrite
  split
  · split
    · simp
    · exact keeps_next.mpr rfl
  · simp

theorem execHoldRequest_keeps : KeepsRouting s (execHoldRequest s) := by
  unfold execHoldRequest
  split
  · dsimp only
    split <;> exact keeps_next.mpr rfl
  · simp

theorem execReleaseNotice_keeps : KeepsRouting s (execReleaseNotice s) := by
  unfold execReleaseNotice
  split <;> exact keeps_next.mpr rfl

theorem execRegionRequest_keeps : KeepsRouting s (execRegionRequest s) := by
  unfold execRegionRequest
  split
  · dsimp only
    split <;> simp
  · simp

theorem execRegionRelease_keeps : KeepsRouting s (execRegionRelease s) := by
  unfold execRegionRelease
  split <;> simp

theorem execRunningNotice_keeps : KeepsRouting s (execRunningNotice s) := by
  unfold execRunningNotice
  split <;> simp

theorem execMemoryWrite_keeps : KeepsRouting s (execMemoryWrite s) := by
  refine keeps_next.mpr (routing_withRequest _ _ _ _ fun req t => ?_)
  dsimp only
  split
  · rfl
  · split
    · rfl
    · split <;> rfl

theorem execMemoryRead_keeps : KeepsRouting s (execMemoryRead s) :=
  keeps_next.mpr (routing_withRequest _ _ _ _ fun req t => by simp)

theorem execClipDefine_keeps : KeepsRouting s (execClipDefine s) := by
  refine keeps_next.mpr (routing_withRequest _ _ _ _ fun req t => ?_)
  split <;> simp

theorem execClipDelete_keeps : KeepsRouting s (execClipDelete s) :=
  keeps_next.mpr (routing_withRequest _ _ _ _ fun req t => by simp)

theorem execClipRead_keeps : KeepsRouting s (execClipRead s) := by
  refine keeps_next.mpr (routing_withRequest _ _ _ _ fun req t => ?_)
  split
  · rfl
  · dsimp only
    split <;> rfl

/-! ### Player Bank -/

theorem settleReads_keeps (ps : List Player) (s : State) : KeepsRouting s (s.settleReads ps) := by
  induction ps generalizing s with
  | nil => simp [State.settleReads]
  | cons p ps ih =>
    unfold State.settleReads
    split
    next u hu =>
      intro t ht
      rw [ih _ t ht, routing_takeReadAnswer, takePlayerRead_keeps s p u hu]
    · simp
    · simp

theorem afterReads_keeps (f : State → State) (h : ∀ t, routing (f t) = routing t) :
    KeepsRouting s (s.afterReads f) := by
  intro t ht
  obtain ⟨u, hu, rfl⟩ := afterReads_next ht
  rw [h, settleReads_keeps allEight s u hu]

theorem execPlayNow_keeps : KeepsRouting s (execPlayNow s) := by
  refine afterReads_keeps s _ fun t => routing_plbRequest t _ _ fun req u => ?_
  split <;> rfl

theorem execPlayNext_keeps : KeepsRouting s (execPlayNext s) := by
  refine afterReads_keeps s _ fun t => routing_plbRequest t _ _ fun req u => ?_
  split <;> simp

theorem execStopNow_keeps : KeepsRouting s (execStopNow s) := by
  refine afterReads_keeps s _ fun t => routing_plbRequest t _ _ fun req u => ?_
  split <;> simp

theorem execStopEnd_keeps : KeepsRouting s (execStopEnd s) := by
  refine afterReads_keeps s _ fun t => routing_plbRequest t _ _ fun req u => ?_
  split <;> simp

theorem execPlayerStatus_keeps : KeepsRouting s (execPlayerStatus s) :=
  afterReads_keeps s _ fun t => routing_plbRequest t _ _ fun req u => by simp

theorem execPlbReset_keeps : KeepsRouting s (execPlbReset s) :=
  afterReads_keeps s _ fun t => routing_withReset t _ _ fun _ _ => rfl

/-! ### Recorder Unit -/

theorem execRecorderInputWord_keeps (r : Rec) : KeepsRouting s (execRecorderInputWord r s) := by
  unfold execRecorderInputWord
  split
  · dsimp only
    split <;> simp
  · simp

theorem execRecordSetup_keeps : KeepsRouting s (execRecordSetup s) := by
  refine keeps_next.mpr (routing_rcuRequest _ _ _ fun req t => ?_)
  split
  · rfl
  · dsimp only
    split <;> rfl

theorem execRegionAnswer_keeps : KeepsRouting s (execRegionAnswer s) := by
  unfold execRegionAnswer
  split
  · dsimp only
    split
    · exact keeps_next.mpr rfl
    · split <;> exact keeps_next.mpr rfl
  · simp

theorem execRecordStart_keeps : KeepsRouting s (execRecordStart s) :=
  keeps_next.mpr (routing_rcuRequest _ _ _ fun req t => by simp)

theorem execRecordStop_keeps : KeepsRouting s (execRecordStop s) :=
  keeps_next.mpr (routing_rcuRequest _ _ _ fun req t => by simp)

theorem execRecorderStatus_keeps : KeepsRouting s (execRecorderStatus s) :=
  keeps_next.mpr (routing_rcuRequest _ _ _ fun req t => by simp)

theorem execRcuReset_keeps : KeepsRouting s (execRcuReset s) := by
  refine keeps_next.mpr (routing_withReset _ _ _ fun o t => ?_)
  split
  · simp
  · have h : routing ((t.deviceResetRecorder 0).deviceResetRecorder 1) = routing t := by simp
    exact h

/-! ### Event Unit -/

theorem execEventReport_keeps (b : Block) : KeepsRouting s (execEventReport b s) := by
  unfold execEventReport
  split <;> simp

theorem execEventsRead_keeps : KeepsRouting s (execEventsRead s) :=
  keeps_next.mpr (routing_evuRequest _ _ _ fun req t => by simp)

theorem execCounterNotice_keeps : KeepsRouting s (execCounterNotice s) := by
  unfold execCounterNotice
  split <;> simp

theorem execCountersRead_keeps : KeepsRouting s (execCountersRead s) :=
  keeps_next.mpr (routing_evuRequest _ _ _ fun req t => by simp)

theorem execCounterAnswer_keeps : KeepsRouting s (execCounterAnswer s) := by
  unfold execCounterAnswer
  split <;> simp

theorem execIndicatorSet_keeps : KeepsRouting s (execIndicatorSet s) :=
  keeps_next.mpr (routing_evuRequest _ _ _ fun req t => by simp)

theorem execStateNotice_keeps (l : Link) : KeepsRouting s (execStateNotice l s) := by
  unfold execStateNotice
  split <;> simp

theorem execCompletionReport_keeps (l : Link) : KeepsRouting s (execCompletionReport l s) := by
  simp [execCompletionReport]

theorem execBlinkPhase_keeps (g : Blink) : KeepsRouting s (execBlinkPhase g s) := by
  cases g <;> simp [execBlinkPhase]

theorem execEvuReset_keeps : KeepsRouting s (execEvuReset s) := by
  refine keeps_next.mpr (routing_withReset _ _ _ fun o t => ?_)
  split <;> rfl

/-! ### Frame Engine and Route Edit Unit: reads and queries -/

theorem execEntryReadActive_keeps : KeepsRouting s (execEntryReadActive s) := by
  refine keeps_next.mpr (routing_withRequest _ _ _ _ fun req t => ?_)
  dsimp only
  split
  · rfl
  · split <;> rfl

theorem execTableSummaryActive_keeps : KeepsRouting s (execTableSummaryActive s) :=
  keeps_next.mpr (routing_withRequest _ _ _ _ fun _ _ => rfl)

theorem execEngineStatus_keeps : KeepsRouting s (execEngineStatus s) :=
  keeps_next.mpr (routing_withRequest _ _ _ _ fun _ _ => rfl)

theorem execClaimAnswer_keeps : KeepsRouting s (execClaimAnswer s) := by
  unfold execClaimAnswer
  split <;> exact keeps_next.mpr rfl

theorem execClaimQuery_keeps : KeepsRouting s (execClaimQuery s) := by
  simp [execClaimQuery]

end Commands

end Sys2Proof.RouteTable
end

section
/-! SUPPORT. The admission check (R39, R40): the positions that cover a destination, the conflict at one
destination, what the check can answer, and the tables that pass. -/

namespace Sys2Proof.RouteTable

open Sys2Proof.Machine Sys2Proof.Laws

/-! ## Positions that cover -/

theorem positionsWhere_eq (t : Table Entry) (p : Entry → Bool) :
    positionsWhere t p = (t.filter fun e => p e.2).map Prod.fst := by
  induction t with
  | nil => rfl
  | cons e t ih =>
    unfold positionsWhere at ih ⊢
    by_cases h : p e.2 <;> simp [h, ih]

theorem length_positionsWhere (t : Table Entry) (p : Entry → Bool) :
    (positionsWhere t p).length = t.countP fun e => p e.2 := by
  rw [positionsWhere_eq, List.length_map, List.countP_eq_length_filter]

theorem mem_positionsWhere {t : Table Entry} {p : Entry → Bool} {c : Nat}
    (hs : Table.sorted t = true) :
    c ∈ positionsWhere t p ↔ ∃ x, Table.get? t c = some x ∧ p x = true := by
  simp only [positionsWhere_eq, List.mem_map, List.mem_filter]
  constructor
  · rintro ⟨⟨k, x⟩, ⟨hm, hp⟩, rfl⟩; exact ⟨x, get?_of_mem hs hm, hp⟩
  · rintro ⟨x, hx, hp⟩; exact ⟨(c, x), ⟨get?_mem hx, hp⟩, rfl⟩

theorem positionsWhere_rising {t : Table Entry} (p : Entry → Bool) (hs : Table.sorted t = true) :
    (positionsWhere t p).Pairwise (· < ·) := by
  rw [positionsWhere_eq]
  exact (sorted_iff_keys.mp hs).sublist (List.filter_sublist.map _)

/-- R39: of the positions in rising order the first two are the two lowest-numbered. -/
theorem twoLowest_of_positionsWhere {t : Table Entry} {p : Entry → Bool} {a b : Nat}
    {more : List Nat} (hs : Table.sorted t = true) (h : positionsWhere t p = a :: b :: more) :
    TwoLowest t p a b := by
  have hrise := positionsWhere_rising p hs
  rw [h, List.pairwise_cons, List.pairwise_cons] at hrise
  obtain ⟨ha, hb, -⟩ := hrise
  refine ⟨ha b (by simp), (mem_positionsWhere hs).mp (by simp [h]),
    (mem_positionsWhere hs).mp (by simp [h]), fun c z hc hz => ?_⟩
  have hmem : c ∈ positionsWhere t p := (mem_positionsWhere hs).mpr ⟨z, hc, hz⟩
  rw [h, List.mem_cons, List.mem_cons] at hmem
  rcases hmem with rfl | rfl | hmem
  · exact .inl rfl
  · exact .inr le_rfl
  · exact .inr (hb c hmem).le

/-! ## The conflict at one destination -/

/-- At most one position covers exactly when there is no second one. -/
theorem countP_le_one_iff {t : Table Entry} {p : Entry → Bool} :
    (t.countP fun e => p e.2) ≤ 1 ↔ ∀ a b more, positionsWhere t p ≠ a :: b :: more := by
  rw [← length_positionsWhere]
  match positionsWhere t p with
  | [] => simp
  | [_] => simp
  | _ :: _ :: _ => simp

/-- R39: SPAN entries are judged before MIX entries. -/
theorem conflictAt_eq_some {t : Table Entry} {d : Dest} {f : Finding} (h : conflictAt t d = some f) :
    (∃ a b more, positionsWhere t (Entry.spanCovers d) = a :: b :: more ∧ f = .overlapSpan d a b) ∨
    ((t.countP fun e => e.2.spanCovers d) ≤ 1 ∧
      ∃ a b more, positionsWhere t (Entry.mixCovers d) = a :: b :: more ∧ f = .overlapMix d a b) := by
  unfold conflictAt at h
  split at h
  next a b more hspan =>
    injection h with h
    exact .inl ⟨a, b, more, hspan, h.symm⟩
  next hspan =>
    split at h
    next a b more hmix =>
      injection h with h
      exact .inr ⟨countP_le_one_iff.mpr hspan, a, b, more, hmix, h.symm⟩
    next => cases h

theorem conflictAt_eq_none {t : Table Entry} {d : Dest} :
    conflictAt t d = none ↔ NoConflictAt t d := by
  unfold conflictAt NoConflictAt
  rw [countP_le_one_iff, countP_le_one_iff]
  split
  next a b more hspan => simp [hspan]
  next hspan =>
    split
    next a b more hmix => simp [hmix]
    next hmix => exact ⟨fun _ => ⟨hspan, hmix⟩, fun _ => rfl⟩

/-! ## What the admission check answers -/

/-- R39, R40: coverage first, then cost. -/
theorem admission_cases (t : Table Entry) :
    ((∀ d ∈ destinations, NoConflictAt t d) ∧
      admission t = if 1024 < tableCost t then .cost else .pass) ∨
    ∃ d, d ∈ destinations ∧ FirstConflict t d ∧ conflictAt t d = some (admission t) := by
  unfold admission
  split
  next f hf =>
    obtain ⟨before, d, after, hd, hc, hb⟩ := List.findSome?_eq_some_iff.mp hf
    exact .inr ⟨d, by simp [hd], ⟨before, after, hd, fun x hx => conflictAt_eq_none.mp (hb x hx)⟩, hc⟩
  next hf =>
    exact .inl ⟨fun d hd => conflictAt_eq_none.mp (List.findSome?_eq_none_iff.mp hf d hd), rfl⟩

/-- R40: the tables that pass. -/
theorem admission_pass_iff {t : Table Entry} :
    admission t = .pass ↔ (∀ d ∈ destinations, NoConflictAt t d) ∧ tableCost t ≤ 1024 := by
  rcases admission_cases t with ⟨hfree, hadm⟩ | ⟨d, hd, -, hc⟩
  · rw [hadm, ← not_lt]
    by_cases hcost : 1024 < tableCost t
    · simp [hcost]
    · simpa [hcost] using hfree
  · constructor
    · intro hpass
      rw [hpass] at hc
      rcases conflictAt_eq_some hc with ⟨_, _, _, _, h⟩ | ⟨_, _, _, _, _, h⟩ <;> cases h
    · rintro ⟨hfree, -⟩
      rw [conflictAt_eq_none.mpr (hfree d hd)] at hc
      cases hc

/-- R40: a cost finding is given only without a conflict. -/
theorem admission_cost {t : Table Entry} (h : admission t = .cost) :
    (∀ d ∈ destinations, NoConflictAt t d) ∧ 1024 < tableCost t := by
  rcases admission_cases t with ⟨hfree, hadm⟩ | ⟨d, hd, -, hc⟩
  · refine ⟨hfree, ?_⟩
    by_contra hcost
    rw [if_neg hcost, h] at hadm
    cases hadm
  · rw [h] at hc
    rcases conflictAt_eq_some hc with ⟨_, _, _, _, h⟩ | ⟨_, _, _, _, _, h⟩ <;> cases h

/-- A finding that is neither a pass nor a cost finding is the conflict at the first destination. -/
theorem admission_overlap {t : Table Entry} (hpass : admission t ≠ .pass) (hcost : admission t ≠ .cost) :
    ∃ d, FirstConflict t d ∧ conflictAt t d = some (admission t) := by
  rcases admission_cases t with ⟨-, hadm⟩ | ⟨d, -, hfirst, hc⟩
  · split at hadm
    · exact absurd hadm hcost
    · exact absurd hadm hpass
  · exact ⟨d, hfirst, hc⟩

theorem admission_overlapSpan {t : Table Entry} (hs : Table.sorted t = true) {d : Dest} {a b : Nat}
    (h : admission t = .overlapSpan d a b) :
    FirstConflict t d ∧ TwoLowest t (Entry.spanCovers d) a b := by
  obtain ⟨d', hfirst, hc⟩ := admission_overlap (t := t) (by simp [h]) (by simp [h])
  rcases conflictAt_eq_some hc with ⟨a', b', more, hpos, hf⟩ | ⟨-, a', b', more, -, hf⟩
  · rw [h] at hf
    injection hf with hd ha hb
    subst hd ha hb
    exact ⟨hfirst, twoLowest_of_positionsWhere hs hpos⟩
  · rw [h] at hf; cases hf

theorem admission_overlapMix {t : Table Entry} (hs : Table.sorted t = true) {d : Dest} {a b : Nat}
    (h : admission t = .overlapMix d a b) :
    FirstConflict t d ∧ (t.countP fun e => e.2.spanCovers d) ≤ 1 ∧
      TwoLowest t (Entry.mixCovers d) a b := by
  obtain ⟨d', hfirst, hc⟩ := admission_overlap (t := t) (by simp [h]) (by simp [h])
  rcases conflictAt_eq_some hc with ⟨a', b', more, -, hf⟩ | ⟨hspan, a', b', more, hpos, hf⟩
  · rw [h] at hf; cases hf
  · rw [h] at hf
    injection hf with hd ha hb
    subst hd ha hb
    exact ⟨hfirst, hspan, twoLowest_of_positionsWhere hs hpos⟩

/-- Settles O35: what the check answers is a pass, a cost finding, or the conflict at the first
destination that has one, whose positions are found in rising order. -/
theorem admissionFindsConflicts : Obligations.AdmissionFindsConflicts := fun _ =>
  ⟨admission_pass_iff,
    fun hr _ _ _ =>
      ⟨admission_overlapSpan (wf_iff.mp hr).1, admission_overlapMix (wf_iff.mp hr).1⟩,
    admission_cost⟩

/-! ## Tables that the check does not tell apart -/

theorem positionsWhere_mapVal {t : Table Entry} {p : Entry → Bool} {f : Nat → Entry → Entry}
    (h : ∀ e ∈ t, p (f e.1 e.2) = p e.2) :
    positionsWhere (Table.mapVal f t) p = positionsWhere t p := by
  unfold positionsWhere Table.mapVal
  rw [List.filterMap_map]
  exact List.filterMap_congr fun e he => by simp [h e he]

/-- R39, R40: entries changed without a change of coverage or cost are admitted as before. -/
theorem admitted_mapVal {t : Table Entry} {cost : Nat} {f : Nat → Entry → Entry}
    (hspan : ∀ e ∈ t, ∀ d, (f e.1 e.2).spanCovers d = e.2.spanCovers d)
    (hmix : ∀ e ∈ t, ∀ d, (f e.1 e.2).mixCovers d = e.2.mixCovers d)
    (hcost : ∀ e ∈ t, (f e.1 e.2).cost = e.2.cost) (h : Admitted t cost) :
    Admitted (Table.mapVal f t) cost := by
  obtain ⟨hr, hpass, hc⟩ := h
  have hconflict : conflictAt (Table.mapVal f t) = conflictAt t := funext fun d => by
    unfold conflictAt
    rw [positionsWhere_mapVal fun e he => hspan e he d, positionsWhere_mapVal fun e he => hmix e he d]
  have hsame : tableCost (Table.mapVal f t) = tableCost t := by
    unfold tableCost Table.mapVal
    rw [List.map_map]
    exact congrArg List.sum (List.map_congr_left hcost)
  exact ⟨wf_mapVal.mpr hr, by unfold admission at hpass ⊢; rwa [hconflict, hsame], hc.trans hsame.symm⟩

/-- R71: the empty table. -/
theorem admitted_nil : Admitted [] 0 :=
  ⟨rfl, admission_pass_iff.mpr ⟨fun _ _ => ⟨Nat.zero_le 1, Nat.zero_le 1⟩, Nat.zero_le 1024⟩, rfl⟩

end Sys2Proof.RouteTable
end

section
/-! SUPPORT. What the Frame Engine's operations do to the records of the active table and to one of its
entries, and that every step keeps the routing sound. -/

namespace Sys2Proof.RouteTable

open Sys2Proof.Machine Sys2Proof.Laws

/-! ## Records of the active table -/

@[simp] theorem entry_redecide (v : Vector View 8) (e : ActiveEntry) :
    (e.redecide v).entry = e.entry := by
  cases e <;> rfl

@[simp] theorem sat_redecide (v : Vector View 8) (e : ActiveEntry) : (e.redecide v).sat = e.sat := by
  cases e <;> rfl

/-- R53: a term's record does not depend on what it is matched with. -/
theorem record_matchTerm (old : Option ActiveEntry) (i : Nat) (t : Term) :
    (⟨(matchTerm old i t).source, (matchTerm old i t).target⟩ : Term) = t := by
  unfold matchTerm
  split <;> rfl

/-- R53: the terms an adopted MIX entry starts with, against the old entry of its position. -/
def startTerms (old : Option ActiveEntry) (ts : List Term) : List LiveTerm :=
  ts.mapIdx fun i t => matchTerm old i t

theorem adoptEntry_mix (v : Vector View 8) (old : Option ActiveEntry) (d : Dest) (ts : List Term) :
    adoptEntry v old (.mix d ts) =
      .mix d (startTerms old ts) (carrySat old d) (mixReach v d (ts.map Term.source)) := rfl

theorem records_startTerms (old : Option ActiveEntry) (ts : List Term) :
    (startTerms old ts).map (fun u => (⟨u.source, u.target⟩ : Term)) = ts := by
  refine List.ext_getElem? fun i => ?_
  rw [startTerms, List.getElem?_map, List.getElem?_mapIdx]
  cases ts[i]? with
  | none => rfl
  | some t => exact congrArg some (record_matchTerm _ _ _)

@[simp] theorem entry_adoptEntry (v : Vector View 8) (old : Option ActiveEntry) (e : Entry) :
    (adoptEntry v old e).entry = e := by
  cases e with
  | span s => rfl
  | mix d ts => exact congrArg (Entry.mix d) (records_startTerms old ts)

@[simp] theorem entry_advance (v : Vector View 8) (read : Source → Slot) (e : ActiveEntry) :
    (e.advance v read).entry = e.entry := by
  cases e with
  | span s r => rfl
  | mix d ts n r =>
    refine congrArg (Entry.mix d) ?_
    rw [List.map_map]
    rfl

/-- Changes that leave every record leave the records. -/
theorem recordsOf_mapVal {t : Table ActiveEntry} {f : Nat → ActiveEntry → ActiveEntry}
    (h : ∀ k e, (f k e).entry = e.entry) : recordsOf (Table.mapVal f t) = recordsOf t := by
  simp [recordsOf, Table.mapVal, h]

@[simp] theorem recordsOf_redecideOn (v : Vector View 8) (l : Link) (t : Table ActiveEntry) :
    recordsOf (redecideOn v l t) = recordsOf t :=
  recordsOf_mapVal fun k e => by split <;> simp

/-- R52: the records of an adopted table are the table's own. -/
@[simp] theorem recordsOf_adopted (v : Vector View 8) (old : Nat → Option ActiveEntry)
    (t : Table Entry) :
    recordsOf (Table.mapVal (fun pos e => adoptEntry v (old pos) e) t) = t := by
  unfold recordsOf Table.mapVal
  rw [List.map_map]
  exact (List.map_congr_left fun e _ => by simp).trans (List.map_id t)

/-- A position that is occupied is written in place. -/
theorem put_eq_mapVal {α : Type} {t : Table α} {k : Nat} {u v : α} (hs : Table.sorted t = true)
    (h : Table.get? t k = some u) :
    Table.put t k v = Table.mapVal (fun j x => if j = k then v else x) t := by
  induction t with
  | nil => cases h
  | cons e t ih =>
    obtain ⟨j, x⟩ := e
    obtain ⟨habove, hs⟩ := sorted_cons.mp hs
    rw [Table.get?] at h
    simp only [Table.put, Table.mapVal, List.map_cons]
    by_cases hk : k = j
    · subst hk
      have hrest : t.map (fun e => (e.1, if e.1 = k then v else e.2)) = t :=
        (List.map_congr_left fun e he => by rw [if_neg (habove e he).ne']; rfl).trans (List.map_id t)
      simp [hrest]
    · rw [if_neg hk] at h
      have hlt : j < k := habove _ (get?_mem h)
      rw [if_neg (by omega), if_neg hk, if_neg (Ne.symm hk), ih hs h]
      rfl

/-! ## Gain adjustments -/

/-- R47: an adjusted term changes no coverage and no cost. -/
theorem setTarget_same {e e' : ActiveEntry} {term code : Nat} (h : e.setTarget term code = some e') :
    (∀ d, e'.entry.spanCovers d = e.entry.spanCovers d) ∧
      (∀ d, e'.entry.mixCovers d = e.entry.mixCovers d) ∧ e'.entry.cost = e.entry.cost := by
  cases e with
  | span s r => cases h
  | mix d ts n r =>
    simp only [ActiveEntry.setTarget] at h
    split at h
    · cases h
    · injection h with h
      subst h
      exact ⟨fun _ => rfl, fun _ => rfl, by simp [ActiveEntry.entry, Entry.cost]⟩

/-- R47: an adjusted active table is admitted as before. -/
theorem admitted_adjust {t : Table ActiveEntry} {pos term code cost : Nat} {e e' : ActiveEntry}
    (ha : Admitted (recordsOf t) cost) (he : Table.get? t pos = some e)
    (h : e.setTarget term code = some e') : Admitted (recordsOf (Table.put t pos e')) cost := by
  have hs : Table.sorted t = true := (wf_iff.mp (wf_mapVal.mp ha.1)).1
  have hrec : recordsOf (Table.put t pos e') =
      Table.mapVal (fun j x => if j = pos then e'.entry else x) (recordsOf t) := by
    rw [put_eq_mapVal hs he]
    simp only [recordsOf, Table.mapVal, List.map_map, Function.comp_def]
    exact List.map_congr_left fun x _ => by split <;> rfl
  have hpos : ∀ x ∈ recordsOf t, x.1 = pos → x.2 = e.entry := by
    rintro x hx rfl
    obtain ⟨y, hy, rfl⟩ := List.mem_map.mp hx
    have := get?_of_mem hs hy
    rw [he] at this
    injection this with this
    rw [this]
  obtain ⟨hspan, hmix, hcost⟩ := setTarget_same h
  rw [hrec]
  refine admitted_mapVal ?_ ?_ ?_ ha
  · intro x hx d
    split
    next hk => rw [hspan, hpos x hx hk]
    next => rfl
  · intro x hx d
    split
    next hk => rw [hmix, hpos x hx hk]
    next => rfl
  · intro x hx
    split
    next hk => rw [hcost, hpos x hx hk]
    next => rfl

/-! ## Sound next states -/

/-- Whatever next state an outcome names has sound routing. -/
def SoundNext (o : Host.Outcome State Fault Refusal) : Prop := ∀ t, o = .next t → t.RoutingSound

theorem soundNext_next {t : State} (h : t.RoutingSound) : SoundNext (.next t) :=
  fun u hu => by injection hu with hu; exact hu ▸ h

theorem soundNext_of_keeps {s : State} {o : Host.Outcome State Fault Refusal} (hs : s.RoutingSound)
    (h : KeepsRouting s o) : SoundNext o := fun t ht => routingSound_congr hs (h t ht)

theorem sound_answer {s : State} (hs : s.RoutingSound) (b : Block) (req : Req) (code : ResultCode)
    (body : List Byte) : (s.answer b req code body).RoutingSound := routingSound_congr hs rfl

theorem sound_badField {s : State} (hs : s.RoutingSound) (b : Block) (req : Req) (field : Nat) :
    (s.badField b req field).RoutingSound := routingSound_congr hs rfl

theorem sound_withRequest {s : State} (hs : s.RoutingSound) (b : Block) (which : Req → Bool)
    (f : Req → State → State) (h : ∀ req t, t.RoutingSound → (f req t).RoutingSound) :
    (s.withRequest b which f).RoutingSound := by
  unfold State.withRequest
  split
  · split
    · exact h _ _ (routingSound_congr hs rfl)
    · exact hs
  · exact hs

theorem sound_withReset {s : State} (hs : s.RoutingSound) (b : Block) (f : ResetOrder → State → State)
    (h : ∀ o t, t.RoutingSound → (f o t).RoutingSound) : (s.withReset b f).RoutingSound := by
  unfold State.withReset
  split
  next o rest _ =>
    have hf := h o (s.onMail fun m => { m with resets := rest }) (routingSound_congr hs rfl)
    dsimp only
    split
    · exact routingSound_congr hf rfl
    · exact hf
  next => exact hs

theorem sound_reuRequest {s : State} (hs : s.RoutingSound) (k : RequestKind) (f : Req → State → State)
    (h : ∀ req t, t.RoutingSound → (f req t).RoutingSound) : (s.reuRequest k f).RoutingSound := by
  unfold State.reuRequest
  split
  · exact sound_withRequest hs _ _ _ h
  · exact hs

/-! ## Frame Engine -/

section FrameEngine

variable {s : State}

theorem execHandOff_sound (hs : s.RoutingSound) : SoundNext (execHandOff s) := by
  unfold execHandOff
  split
  next h rest hm =>
    refine soundNext_next { hs with queued := fun x hx => ?_, handed := fun x hx => ?_ }
    · rcases List.mem_append.mp hx with hx | hx
      · exact hs.queued x hx
      · rw [List.mem_singleton] at hx
        exact hs.handed x (by simp [hm, hx])
    · exact hs.handed x (by rw [hm]; exact List.mem_cons_of_mem _ hx)
  next => exact soundNext_next hs

theorem execLinkViewNotice_sound (l : Link) (hs : s.RoutingSound) :
    SoundNext (execLinkViewNotice l s) := by
  unfold execLinkViewNotice
  split
  · refine soundNext_next { hs with active := ?_ }
    dsimp only [onMail_fe]
    split
    · exact hs.active
    · rw [recordsOf_redecideOn]; exact hs.active
  · exact soundNext_next hs

theorem execActiveTableCopy_sound (hs : s.RoutingSound) : SoundNext (execActiveTableCopy s) := by
  unfold execActiveTableCopy
  split
  · refine soundNext_next { hs with copied := ?_, asked := ?_ }
    · rintro _ ⟨rfl⟩; exact hs.active.1
    · intro _ _ _ h; cases h
  · exact soundNext_next hs

/-- R26: an answer that carries no table. -/
theorem sound_answerReu {a : FeAnswer} (hs : s.RoutingSound) (ha : ∀ t, a ≠ .copy t) :
    (s.answerReu a).RoutingSound :=
  { hs with
    copied := fun t h => absurd (Option.some.inj h) (ha t)
    asked := fun _ _ _ h => nomatch h }

theorem execLinkViewSnapshot_sound (hs : s.RoutingSound) : SoundNext (execLinkViewSnapshot s) := by
  unfold execLinkViewSnapshot
  split
  · exact soundNext_next (sound_answerReu hs fun _ => by simp)
  · exact soundNext_next hs

theorem execGainAdjustApply_sound (hs : s.RoutingSound) : SoundNext (execGainAdjustApply s) := by
  unfold execGainAdjustApply
  split
  next pos term code _ =>
    split
    next e' h =>
      obtain ⟨e, he, hset⟩ := Option.bind_eq_some_iff.mp h
      refine soundNext_next (sound_answerReu ?_ fun _ => by simp)
      exact { hs with active := admitted_adjust hs.active he hset }
    next => exact soundNext_next (sound_answerReu hs fun _ => by simp)
  next => exact soundNext_next hs

/-- R40, R51, R52: adoption takes an admitted table from the queue. -/
theorem sound_adoptOldest (hs : s.RoutingSound) : s.adoptOldest.RoutingSound := by
  unfold State.adoptOldest
  split
  next h rest hq =>
    obtain ⟨v, used, heq, -⟩ := adopt_eq { s with fe := { s.fe with queue := rest } } h
    rw [heq]
    refine { hs with active := ?_, queued := fun x hx => hs.queued x ?_ }
    · rw [recordsOf_adopted]
      exact hs.queued h (by simp [hq])
    · rw [hq]; exact List.mem_cons_of_mem _ hx
  next => exact hs

/-- R50: a frame's computation leaves every record. -/
theorem sound_computeFrame (hs : s.RoutingSound) : s.computeFrame.RoutingSound := by
  refine { hs with active := ?_ }
  have h : recordsOf s.computeFrame.fe.active = recordsOf s.fe.active :=
    recordsOf_mapVal fun _ e => entry_advance _ _ e
  rw [h]
  exact hs.active

/-- R66: the frame counter is no part of the routing. -/
theorem routing_zeroCounter (s : State) :
    routing ({ s with fe := { s.fe with counter := 0 } }.counterNotice 0) = routing s := rfl

theorem execFeReset_sound (hs : s.RoutingSound) : SoundNext (execFeReset s) := by
  refine soundNext_next (sound_withReset hs _ _ fun o t ht => ?_)
  have hempty : t.emptyEngine.RoutingSound := by
    obtain ⟨v, heq, -⟩ := emptyEngine_eq t
    rw [heq]
    exact { ht with active := admitted_nil, queued := fun _ h => nomatch h }
  dsimp only
  split
  · exact hempty
  · exact routingSound_congr hempty (routing_zeroCounter _)

end FrameEngine

/-! ## The claim -/

section Claims

variable {s : State}

/-- R25: no commit is pending while the claim is not PENDING. -/
theorem pending_none (hs : s.RoutingSound) (h : ∀ c, s.reu.claim = some c → c.phase ≠ .pending) :
    s.reu.pending = none := by
  cases hp : s.reu.pending with
  | none => rfl
  | some r =>
    obtain ⟨c, hc, hphase, -⟩ := hs.claimed r hp
    exact absurd hphase (h c hc)

/-- The claim changed, its owner and whether it is PENDING kept. -/
theorem sound_setClaim {c c' : Claim} (hs : s.RoutingSound) (hc : s.reu.claim = some c)
    (howner : c'.owner = c.owner) (hphase : c'.phase = .pending ↔ c.phase = .pending)
    (hstaged : RouteTable c'.staging ∧ Table.wf 512 c'.touched = true) :
    (s.setClaim (some c')).RoutingSound := by
  refine { hs with staged := ?_, claimed := ?_, pended := ?_ }
  · rintro _ ⟨rfl⟩; exact hstaged
  · intro r hr
    obtain ⟨c₀, hc₀, hp, ho⟩ := hs.claimed r hr
    rw [hc] at hc₀
    injection hc₀ with hc₀
    subst hc₀
    exact ⟨c', rfl, hphase.mpr hp, howner.trans ho⟩
  · rintro _ ⟨rfl⟩ hp; exact hs.pended c hc (hphase.mp hp)

/-- The claim changed to one that is not PENDING, or ended, while no commit is pending. -/
theorem sound_setClaim_held {oc : Option Claim} (hs : s.RoutingSound) (hp : s.reu.pending = none)
    (hoc : ∀ c, oc = some c →
      c.phase ≠ .pending ∧ RouteTable c.staging ∧ Table.wf 512 c.touched = true) :
    (s.setClaim oc).RoutingSound :=
  { hs with
    staged := fun c hc => (hoc c hc).2
    claimed := fun r hr => by
      have hr : s.reu.pending = some r := hr
      rw [hp] at hr; cases hr
    pended := fun c hc h => absurd h (hoc c hc).1 }

theorem sound_endClaim (hs : s.RoutingSound) (hp : s.reu.pending = none) :
    (s.setClaim none).RoutingSound := sound_setClaim_held hs hp fun _ h => nomatch h

@[simp] theorem restart_owner (c : Claim) : c.restart.owner = c.owner := by
  unfold Claim.restart; split <;> rfl

@[simp] theorem restart_staging (c : Claim) : c.restart.staging = c.staging := by
  unfold Claim.restart; split <;> rfl

@[simp] theorem restart_touched (c : Claim) : c.restart.touched = c.touched := by
  unfold Claim.restart; split <;> rfl

@[simp] theorem restart_pending (c : Claim) : c.restart.phase = .pending ↔ c.phase = .pending := by
  unfold Claim.restart
  split
  next h => simp [h]
  next => rfl

/-- R33: a claim changed by an editing request and restarted. -/
theorem sound_restart {c c' : Claim} (hs : s.RoutingSound) (hc : s.reu.claim = some c)
    (howner : c'.owner = c.owner) (hphase : c'.phase = c.phase)
    (hstaged : RouteTable c'.staging ∧ Table.wf 512 c'.touched = true) :
    (s.setClaim (some c'.restart)).RoutingSound :=
  sound_setClaim hs hc (by simp [howner]) (by simp [hphase]) (by simpa using hstaged)

/-- R28: a request is refused by the gate, or taken with the claim as it stands. -/
theorem gated_cases (s : State) (req : Req) (frozen : Bool) (f : Claim → State → State) :
    (∃ code body, s.gated req frozen f = s.answer .reu req code body) ∨
    ∃ c, s.reu.claim = some c ∧ (frozen = false → c.phase ≠ .pending) ∧
      s.gated req frozen f = f c s := by
  unfold State.gated
  split
  next r _ => exact .inl ⟨r.1, r.2, rfl⟩
  next c hgate hc =>
    refine .inr ⟨c, hc, fun hf hp => ?_, rfl⟩
    rw [hc, hf] at hgate
    simp only [claimGate, hp] at hgate
    split at hgate <;> cases hgate
  next hgate hc => rw [hc] at hgate; cases hgate

theorem sound_gated {req : Req} {frozen : Bool} {f : Claim → State → State} (hs : s.RoutingSound)
    (h : ∀ c, s.reu.claim = some c → (frozen = false → c.phase ≠ .pending) → (f c s).RoutingSound) :
    (s.gated req frozen f).RoutingSound := by
  rcases gated_cases s req frozen f with ⟨code, body, heq⟩ | ⟨c, hc, hphase, heq⟩
  · rw [heq]; exact sound_answer hs _ _ _ _
  · rw [heq]; exact h c hc hphase

/-- R26: a transaction begins; a gain adjustment is in range. -/
theorem sound_askFe {t : Txn} {a : Ask} (hs : s.RoutingSound)
    (ht : ∀ req pos term code, t = .gain req pos term code →
      pos < 512 ∧ 1 ≤ term ∧ term ≤ 8 ∧ code ≤ 216)
    (ha : ∀ pos term code, a = .gain pos term code → pos < 512 ∧ 1 ≤ term ∧ term ≤ 8 ∧ code ≤ 216) :
    (s.askFe t a).RoutingSound :=
  { hs with
    adjusted := fun req pos term code h => ht req pos term code (Option.some.inj h)
    asked := fun pos term code h => ha pos term code (Option.some.inj h) }

theorem sound_endTxn (hs : s.RoutingSound) : s.endTxn.RoutingSound :=
  { hs with
    copied := fun _ h => nomatch h
    adjusted := fun _ _ _ _ h => nomatch h }

/-- R26: dropping a copy drops no gain adjustment. -/
theorem dropCopy_eq_gain {p : Req → Bool} {o : Option Txn} {req : Req} {pos term code : Nat}
    (h : o.map (Txn.dropCopy p) = some (.gain req pos term code)) :
    o = some (.gain req pos term code) := by
  obtain ⟨t, ht, hd⟩ := Option.map_eq_some_iff.mp h
  cases t with
  | copy => cases hd
  | snapshot => cases hd
  | gain => rw [ht, ← hd]; rfl

end Claims

/-! ## Editing requests -/

section Editing

variable {s : State}

theorem execEditOpen_sound (hs : s.RoutingSound) : SoundNext (execEditOpen s) := by
  refine soundNext_next (sound_reuRequest hs _ _ fun req t ht => ?_)
  dsimp only
  split
  · exact sound_badField ht _ _ _
  · split
    · exact sound_answer ht _ _ _ _
    · exact sound_askFe ht (fun _ _ _ _ h => nomatch h) fun _ _ _ h => nomatch h

/-- R27: a claim that can be opened is not PENDING. -/
theorem openGate_eq_none {oc : Option Claim} {sender : Link} (h : openGate oc sender = none) (c : Claim)
    (hc : oc = some c) : c.phase ≠ .pending := by
  subst hc
  intro hp
  simp only [openGate, hp] at h
  split at h <;> cases h

theorem execCopyAnswer_sound (hs : s.RoutingSound) : SoundNext (execCopyAnswer s) := by
  unfold execCopyAnswer
  split
  next req hold dropped table _ hanswer =>
    have hend := sound_endTxn hs
    dsimp only
    split
    · exact soundNext_next (sound_answer hend _ _ _ _)
    · split
      · exact soundNext_next (sound_answer hend _ _ _ _)
      next hgate =>
        refine soundNext_next (sound_answer (sound_setClaim_held hend ?_ ?_) _ _ _ _)
        · exact pending_none hend (openGate_eq_none hgate)
        · rintro _ ⟨rfl⟩
          exact ⟨by simp, hs.copied table hanswer, rfl⟩
  next => exact soundNext_next hs

theorem execEntryPut_sound (hs : s.RoutingSound) : SoundNext (execEntryPut s) := by
  refine soundNext_next (sound_reuRequest hs _ _ fun req t ht => sound_gated ht fun c hc _ => ?_)
  obtain ⟨hstaged, htouched⟩ := ht.staged c hc
  have hsame := sound_restart ht hc rfl rfl ⟨hstaged, htouched⟩
  dsimp only
  split
  · exact sound_badField hsame _ _ _
  next hpos =>
    split
    · exact sound_badField hsame _ _ _
    next e _ =>
      refine sound_answer
        (sound_restart (c' := c.putEntry (field16 req.body 0) e) ht hc rfl rfl ⟨?_, ?_⟩) _ _ _ _
      · exact wf_put hstaged (by omega)
      · exact wf_put htouched (by omega)

/-- R30: touched flags set one by one. -/
theorem wf_foldl_touch {first : Nat} {is : List Nat} {t : Table Unit} (h : Table.wf 512 t = true)
    (his : ∀ i ∈ is, first + i < 512) :
    Table.wf 512 (is.foldl (fun t i => Table.put t (first + i) ()) t) = true := by
  induction is generalizing t with
  | nil => exact h
  | cons i is ih =>
    exact ih (wf_put h (his i (by simp))) fun j hj => his j (by simp [hj])

theorem execEntryDelete_sound (hs : s.RoutingSound) : SoundNext (execEntryDelete s) := by
  refine soundNext_next (sound_reuRequest hs _ _ fun req t ht => sound_gated ht fun c hc _ => ?_)
  obtain ⟨hstaged, htouched⟩ := ht.staged c hc
  have hsame := sound_restart ht hc rfl rfl ⟨hstaged, htouched⟩
  dsimp only
  split
  · exact sound_badField hsame _ _ _
  · split
    · exact sound_badField hsame _ _ _
    next hrange =>
      refine sound_answer
        (sound_restart (c' := c.deleteRange (field16 req.body 0) (field16 req.body 2)) ht hc rfl rfl
          ⟨?_, ?_⟩) _ _ _ _
      · exact wf_sublist hstaged List.filter_sublist
      · exact wf_foldl_touch htouched fun i hi => by rw [List.mem_range] at hi; omega

theorem execEntryReadStaging_sound (hs : s.RoutingSound) : SoundNext (execEntryReadStaging s) := by
  refine soundNext_next (sound_reuRequest hs _ _ fun req t ht => sound_gated ht fun c hc _ => ?_)
  have hsame := sound_restart ht hc rfl rfl (ht.staged c hc)
  dsimp only
  split
  · exact sound_badField hsame _ _ _
  · split <;> exact sound_answer hsame _ _ _ _

theorem execTableSummaryStaging_sound (hs : s.RoutingSound) :
    SoundNext (execTableSummaryStaging s) :=
  soundNext_next (sound_reuRequest hs _ _ fun _ _ ht => sound_gated ht fun c hc _ =>
    sound_answer (sound_restart ht hc rfl rfl (ht.staged c hc)) _ _ _ _)

theorem execEditAbandon_sound (hs : s.RoutingSound) : SoundNext (execEditAbandon s) := by
  refine soundNext_next (sound_reuRequest hs _ _ fun req t ht => sound_gated ht fun c hc hphase => ?_)
  refine sound_answer (sound_endClaim ht (pending_none ht fun c' hc' => ?_)) _ _ _ _
  rw [hc] at hc'
  injection hc' with hc'
  exact hc' ▸ hphase rfl

end Editing

/-! ## Check, commit, gain adjustment -/

section Commit

variable {s : State}

/-- R26, R40: asking for the link views. -/
theorem sound_askSnapshot (hs : s.RoutingSound) (req : Req) (commit : Bool) :
    (s.askFe (.snapshot req commit) .snapshot).RoutingSound :=
  sound_askFe hs (fun _ _ _ _ h => nomatch h) fun _ _ _ h => nomatch h

theorem execTableCheck_sound (hs : s.RoutingSound) : SoundNext (execTableCheck s) :=
  soundNext_next (sound_reuRequest hs _ _ fun _ _ ht => sound_gated ht fun c hc _ =>
    sound_askSnapshot (sound_restart ht hc rfl rfl (ht.staged c hc)) _ _)

theorem execTableCommit_sound (hs : s.RoutingSound) : SoundNext (execTableCommit s) :=
  soundNext_next (sound_reuRequest hs _ _ fun _ _ ht => sound_gated ht fun _ _ _ =>
    sound_askSnapshot ht _ _)

/-- R42: a table that passes is handed off with the cost the check computed. -/
theorem sound_passCommit {req : Req} {c : Claim} (hs : s.RoutingSound) (hc : s.reu.claim = some c)
    (hpass : admission c.staging = .pass) : (s.passCommit req c).RoutingSound := by
  have hstaged := hs.staged c hc
  refine { hs with handed := fun x hx => ?_, staged := ?_, claimed := ?_, pended := ?_ }
  · rcases List.mem_append.mp hx with hx | hx
    · exact hs.handed x hx
    · rw [List.mem_singleton] at hx
      subst hx
      exact ⟨hstaged.1, hpass, rfl⟩
  · rintro _ ⟨rfl⟩; exact hstaged
  · rintro _ ⟨rfl⟩; exact ⟨_, rfl, rfl, rfl⟩
  · intro _ _ _; rfl

theorem execSnapshotAnswer_sound (hs : s.RoutingSound) : SoundNext (execSnapshotAnswer s) := by
  unfold execSnapshotAnswer
  split
  · refine soundNext_next (sound_gated (sound_endTxn hs) fun c hc _ => ?_)
    have hend := sound_endTxn hs
    dsimp only
    split
    · split
      next hpass => exact sound_passCommit hend hc hpass
      next => exact sound_answer hend _ _ _ _
    · exact sound_answer (sound_restart hend hc rfl rfl (hend.staged c hc)) _ _ _ _
  · exact soundNext_next hs

theorem execGainAdjust_sound (hs : s.RoutingSound) : SoundNext (execGainAdjust s) := by
  refine soundNext_next (sound_reuRequest hs _ _ fun req t ht => ?_)
  dsimp only
  split
  · exact sound_answer ht _ _ _ _
  · split
    · exact sound_badField ht _ _ _
    · split
      · exact sound_badField ht _ _ _
      · split
        · exact sound_badField ht _ _ _
        · refine sound_askFe ht ?_ ?_
          · rintro _ _ _ _ ⟨rfl⟩; omega
          · rintro _ _ _ ⟨rfl⟩; omega

/-- R48: reconciliation leaves the claim, or writes one occupied position of its staging table. -/
theorem reconcile_cases (claim : Option Claim) (pos term code : Nat) :
    (reconcile claim pos term code).1 = claim ∨
    ∃ c e e', claim = some c ∧ Table.get? c.staging pos = some e ∧
      (reconcile claim pos term code).1 = some { c with staging := Table.put c.staging pos e' } := by
  cases claim with
  | none => exact .inl rfl
  | some c =>
    simp only [reconcile]
    split
    · exact .inl rfl
    · split
      next e' h =>
        obtain ⟨e, he, -⟩ := Option.bind_eq_some_iff.mp h
        exact .inr ⟨c, e, e', rfl, he, rfl⟩
      next => exact .inl rfl

theorem sound_reconcile (hs : s.RoutingSound) (pos term code : Nat) :
    (s.setClaim (reconcile s.reu.claim pos term code).1).RoutingSound := by
  rcases reconcile_cases s.reu.claim pos term code with h | ⟨c, e, e', hc, he, h⟩
  · rw [h]; exact hs
  · rw [h]
    obtain ⟨hstaged, htouched⟩ := hs.staged c hc
    exact sound_setClaim hs hc rfl Iff.rfl
      ⟨wf_put hstaged ((wf_iff.mp hstaged).2 _ (get?_mem he)), htouched⟩

theorem execGainAdjustAnswer_sound (hs : s.RoutingSound) : SoundNext (execGainAdjustAnswer s) := by
  unfold execGainAdjustAnswer
  split
  · dsimp only
    split
    · exact soundNext_next (sound_answer (sound_reconcile (sound_endTxn hs) _ _ _) _ _ _ _)
    · exact soundNext_next (sound_answer (sound_endTxn hs) _ _ _ _)
  · exact soundNext_next hs

/-! ## The fate of a table, loss and reset -/

theorem routing_answerCommit (s : State) (r : CommitRecord) (adopted : Option (BitVec 32)) :
    routing (s.answerCommit r adopted) = routing s := by
  unfold State.answerCommit
  split <;> rfl

/-- R44, R46: a claim and its commit end together. -/
theorem sound_endCommit (hs : s.RoutingSound) :
    ({ s with reu := { s.reu with claim := none, pending := none } } : State).RoutingSound :=
  { hs with
    staged := fun _ h => nomatch h
    claimed := fun _ h => nomatch h
    pended := fun _ h => nomatch h }

theorem sound_takeFate (hs : s.RoutingSound) (f : Fate) : (s.takeFate f).RoutingSound := by
  unfold State.takeFate
  split
  · exact routingSound_congr hs ((routing_answerCommit _ _ _).trans rfl)
  · split
    · split
      · exact routingSound_congr (sound_endCommit hs) (routing_answerCommit _ _ _)
      · exact hs
    · exact hs

theorem sound_withFate (hs : s.RoutingSound) (adopted : Bool) :
    (s.withFate adopted).RoutingSound := by
  unfold State.withFate
  split
  next f rest _ =>
    split
    · have ht : (s.onMail fun m => { m with fates := rest }).RoutingSound := routingSound_congr hs rfl
      exact sound_takeFate ht f
    · exact hs
  next => exact hs

theorem execHoldTimerExpiry_sound (hs : s.RoutingSound) : SoundNext (execHoldTimerExpiry s) := by
  unfold execHoldTimerExpiry
  split
  next c hc =>
    split
    next k hk =>
      split
      · refine soundNext_next (routingSound_congr (sound_endClaim hs (pending_none hs ?_)) rfl)
        intro c' hc'
        rw [hc] at hc'
        injection hc' with hc'
        simp [← hc', hk]
      · exact soundNext_next hs
    next => exact soundNext_next hs
  next => exact soundNext_next hs

theorem sound_ownerLost (hs : s.RoutingSound) (l : Link) : (s.ownerLost l).RoutingSound := by
  unfold State.ownerLost
  split
  next c hc =>
    split
    · split
      next k hk =>
        refine routingSound_congr (sound_endClaim hs (pending_none hs ?_)) rfl
        intro c' hc'
        rw [hc] at hc'
        injection hc' with hc'
        simp [← hc', hk]
      next =>
        refine { hs with claimed := fun r hr => ?_, pended := fun c hc hp => ?_ }
        · obtain ⟨r₀, hr₀, rfl⟩ := Option.map_eq_some_iff.mp hr
          exact hs.claimed r₀ hr₀
        · exact (Option.isSome_map ..).trans (hs.pended c hc hp)
    · exact hs
  next => exact hs

/-- R26, R35: the transaction with its copy dropped. -/
theorem sound_dropCopy (hs : s.RoutingSound) (p : Req → Bool) :
    ({ s with reu := { s.reu with txn := s.reu.txn.map (Txn.dropCopy p) } } : State).RoutingSound :=
  { hs with adjusted := fun req pos term code h => hs.adjusted req pos term code (dropCopy_eq_gain h) }

theorem execLinkLossNotice_sound (l : Link) (hs : s.RoutingSound) :
    SoundNext (execLinkLossNotice l s) := by
  unfold execLinkLossNotice
  split
  · have ht : (s.onMail fun m =>
        { m with lossNotices := updAt m.lossNotices l (· - 1) }).RoutingSound :=
      routingSound_congr hs rfl
    exact soundNext_next (sound_ownerLost (sound_dropCopy ht fun r => r.ref.link == l) l)
  · exact soundNext_next hs

theorem execReuReset_sound (hs : s.RoutingSound) : SoundNext (execReuReset s) :=
  soundNext_next (sound_withReset hs _ _ fun _ _ ht =>
    routingSound_congr (sound_endCommit (sound_dropCopy ht fun _ => true)) rfl)

theorem sound_afterReset (msel : Bool) (unit : BitVec 4) (mem : Table Sample) (pending : List Instr) :
    (State.afterReset msel unit mem pending).RoutingSound :=
  { active := admitted_nil
    queued := fun _ h => nomatch h
    handed := fun _ h => nomatch h
    copied := fun _ h => nomatch h
    staged := fun _ h => nomatch h
    claimed := fun _ h => nomatch h
    pended := fun _ h => nomatch h
    adjusted := fun _ _ _ _ h => nomatch h
    asked := fun _ _ _ h => nomatch h }

end Commit

/-! ## Every step -/

section Steps

variable {s : State}

/-- Every command, block by block: those of the Frame Engine and of the Route Edit Unit keep the routing
sound, those of the other blocks leave it alone. -/
theorem exec_sound (hs : s.RoutingSound) (i : Instr) : SoundNext (exec i s) := by
  have kept {o : Host.Outcome State Fault Refusal} (h : KeepsRouting s o) : SoundNext o :=
    soundNext_of_keeps hs h
  cases i with
  | hardwareReset msel unit => exact soundNext_next (sound_afterReset _ _ _ _)
  -- the Frame Engine
  | feFrameBoundary => exact soundNext_next (sound_computeFrame (sound_adoptOldest hs))
  | handOff => exact execHandOff_sound hs
  | linkViewNotice l => exact execLinkViewNotice_sound l hs
  | activeTableCopy => exact execActiveTableCopy_sound hs
  | linkViewSnapshot => exact execLinkViewSnapshot_sound hs
  | gainAdjustApply => exact execGainAdjustApply_sound hs
  | feReset => exact execFeReset_sound hs
  | claimAnswer => exact kept (execClaimAnswer_keeps s)
  | entryReadActive => exact kept (execEntryReadActive_keeps s)
  | tableSummaryActive => exact kept (execTableSummaryActive_keeps s)
  | engineStatus => exact kept (execEngineStatus_keeps s)
  -- the Route Edit Unit
  | copyAnswer => exact execCopyAnswer_sound hs
  | snapshotAnswer => exact execSnapshotAnswer_sound hs
  | gainAdjustAnswer => exact execGainAdjustAnswer_sound hs
  | adoptionNotice => exact soundNext_next (sound_withFate hs true)
  | discardNotice => exact soundNext_next (sound_withFate hs false)
  | claimQuery => exact kept (execClaimQuery_keeps s)
  | holdTimerExpiry => exact execHoldTimerExpiry_sound hs
  | linkLossNotice l => exact execLinkLossNotice_sound l hs
  | reuReset => exact execReuReset_sound hs
  | editOpen => exact execEditOpen_sound hs
  | entryPut => exact execEntryPut_sound hs
  | entryDelete => exact execEntryDelete_sound hs
  | entryReadStaging => exact execEntryReadStaging_sound hs
  | tableSummaryStaging => exact execTableSummaryStaging_sound hs
  | tableCheck => exact execTableCheck_sound hs
  | tableCommit => exact execTableCommit_sound hs
  | editAbandon => exact execEditAbandon_sound hs
  | gainAdjust => exact execGainAdjust_sound hs
  -- a Link Port
  | receivedFrame l service payload => exact kept (execReceivedFrame_keeps s l service payload)
  | alignmentAcquired l => exact kept (keeps_next.mpr (routing_dueAlignmentAcquired s l))
  | alignmentLoss l => exact kept (keeps_next.mpr (routing_dueAlignmentLoss s l))
  | windowPass l => exact kept (keeps_next.mpr (routing_dueWindowPass s l))
  | windowFail l => exact kept (keeps_next.mpr (routing_dueWindowFail s l))
  | trainLimit l => exact kept (keeps_next.mpr (routing_dueTrainLimit s l))
  | signalDetect l => exact kept (execSignalDetect_keeps s l)
  | signalLoss l => exact kept (execSignalLoss_keeps s l)
  | negotiationTimerExpiry l => exact kept (execNegotiationTimerExpiry_keeps s l)
  | restoreTimerExpiry l => exact kept (execRestoreTimerExpiry_keeps s l)
  | restHoldTimerExpiry l => exact kept (execRestHoldTimerExpiry_keeps s l)
  | restEntered l => exact kept (keeps_next.mpr (routing_dueRestEntered s l))
  | clearRunComplete l => exact kept (keeps_next.mpr (routing_dueClearRunComplete s l))
  | wakeTimerExpiry l => exact kept (execWakeTimerExpiry_keeps s l)
  | useNotice l => exact kept (execUseNotice_keeps s l)
  | linkFrameTransmit l => exact kept (execLinkFrameTransmit_keeps s l)
  | responseSent l => exact kept (keeps_next.mpr (routing_dueResponseSent s l))
  | messageDiscardReport l => exact kept (execMessageDiscardReport_keeps s l)
  | heldMove l => exact kept (execHeldMove_keeps s l)
  | lpReset l => exact kept (execLpReset_keeps s l)
  | linkSet l => exact kept (execLinkSet_keeps s l)
  | linkStatus l => exact kept (execLinkStatus_keeps s l)
  | linkRenegotiate l => exact kept (execLinkRenegotiate_keeps s l)
  | partnerRead l => exact kept (execPartnerRead_keeps s l)
  | counterQuery l => exact kept (execCounterQuery_keeps s l)
  -- the Management Unit
  | sentReport l => exact kept (execSentReport_keeps s l)
  | discardReport l => exact kept (execDiscardReport_keeps s l)
  | stopNotice l => exact kept (execStopNotice_keeps s l)
  | messageTaken l => exact kept (execMessageTaken_keeps s l)
  | ownerResult b => exact kept (execOwnerResult_keeps s b)
  | eventsWaitingQuery => exact kept (keeps_next.mpr (routing_queryEvents s))
  | identify => exact kept (execIdentify_keeps s)
  | nameSet => exact kept (execNameSet_keeps s)
  | resetRouting => exact kept (execResetRouting_keeps s)
  | resetDevice => exact kept (execResetDevice_keeps s)
  | resetAck b => exact kept (execResetAck_keeps s b)
  -- the Sample Store
  | memoryClearComplete => exact kept (execMemoryClearComplete_keeps s)
  | playerRead p => exact kept (takePlayerRead_keeps s p)
  | recorderWrite => exact kept (execRecorderWrite_keeps s)
  | holdRequest => exact kept (execHoldRequest_keeps s)
  | releaseNotice => exact kept (execReleaseNotice_keeps s)
  | regionRequest => exact kept (execRegionRequest_keeps s)
  | regionRelease => exact kept (execRegionRelease_keeps s)
  | runningNotice => exact kept (execRunningNotice_keeps s)
  | memoryWrite => exact kept (execMemoryWrite_keeps s)
  | memoryRead => exact kept (execMemoryRead_keeps s)
  | clipDefine => exact kept (execClipDefine_keeps s)
  | clipDelete => exact kept (execClipDelete_keeps s)
  | clipRead => exact kept (execClipRead_keeps s)
  -- the Player Bank
  | plbFrameBoundary => exact kept (afterReads_keeps s _ routing_openPlbFrame)
  | playerReadAnswer p => exact kept (keeps_next.mpr (routing_takeReadAnswer s p))
  | holdAnswer => exact kept (afterReads_keeps s _ routing_takeHoldAnswer)
  | playNow => exact kept (execPlayNow_keeps s)
  | playNext => exact kept (execPlayNext_keeps s)
  | stopNow => exact kept (execStopNow_keeps s)
  | stopEnd => exact kept (execStopEnd_keeps s)
  | playerStatus => exact kept (execPlayerStatus_keeps s)
  | plbReset => exact kept (execPlbReset_keeps s)
  -- the Recorder Unit
  | recorderInputWord r => exact kept (execRecorderInputWord_keeps s r)
  | regionAnswer => exact kept (execRegionAnswer_keeps s)
  | recordSetup => exact kept (execRecordSetup_keeps s)
  | recordStart => exact kept (execRecordStart_keeps s)
  | recordStop => exact kept (execRecordStop_keeps s)
  | recorderStatus => exact kept (execRecorderStatus_keeps s)
  | rcuReset => exact kept (execRcuReset_keeps s)
  -- the Event Unit
  | eventReport b => exact kept (execEventReport_keeps s b)
  | eventsRead => exact kept (execEventsRead_keeps s)
  | counterNotice => exact kept (execCounterNotice_keeps s)
  | countersRead => exact kept (execCountersRead_keeps s)
  | counterAnswer => exact kept (execCounterAnswer_keeps s)
  | indicatorSet => exact kept (execIndicatorSet_keeps s)
  | stateNotice l => exact kept (execStateNotice_keeps s l)
  | completionReport l => exact kept (execCompletionReport_keeps s l)
  | pulseTimerExpiry n => exact kept (keeps_next.mpr (routing_onEvu s _))
  | blinkPhase g => exact kept (execBlinkPhase_keeps s g)
  | evuReset => exact kept (execEvuReset_keeps s)

@[simp] theorem tick_owner (c : Claim) : c.tick.owner = c.owner := by
  unfold Claim.tick; split <;> rfl

@[simp] theorem tick_staging (c : Claim) : c.tick.staging = c.staging := by
  unfold Claim.tick; split <;> rfl

@[simp] theorem tick_touched (c : Claim) : c.tick.touched = c.touched := by
  unfold Claim.tick; split <;> rfl

@[simp] theorem tick_pending (c : Claim) : c.tick.phase = .pending ↔ c.phase = .pending := by
  unfold Claim.tick
  split
  next h => simp [h]
  next => rfl

/-- R33: a tick moves the hold timer and nothing else of the routing. -/
theorem sound_tick (hs : s.RoutingSound) : s.tick.RoutingSound := by
  have hticked : routing s.tick = routing (s.setClaim (s.reu.claim.map Claim.tick)) := rfl
  refine routingSound_congr ?_ hticked
  cases hc : s.reu.claim with
  | none => exact routingSound_congr hs (by simp [routing, hc])
  | some c => exact sound_setClaim hs hc (by simp) (by simp) (by simpa using hs.staged c hc)

end Steps

/-- Settles O5: a tick moves the hold timer alone, and every command keeps the routing sound. -/
theorem stepKeepsTheRoutingSound : Obligations.StepKeepsTheRoutingSound := by
  intro s t hs hstep
  unfold step at hstep
  split at hstep
  next c rest _ =>
    have hs' : ({ s with pending := rest } : State).RoutingSound := routingSound_congr hs rfl
    exact exec_sound hs' c t hstep
  next => exact soundNext_next (sound_tick hs) t hstep

end Sys2Proof.RouteTable
end

section
/-! SUPPORT. What the Frame Engine takes between boundaries: hand-offs, link views, transactions, reads of
the active table, ENGINE STATUS. -/

namespace Sys2Proof.RouteTable

open Sys2Proof.Machine Sys2Proof.Laws

/-! ## Hand-offs and link views (R10, R14, R51) -/

theorem execHandOff_cons {s : State} {h : HandOff} {rest : List HandOff}
    (hm : s.mail.handOffs = h :: rest) :
    execHandOff s = .next
      { s with fe := { s.fe with queue := s.fe.queue ++ [h] }
               mail := { s.mail with handOffs := rest } } := by
  unfold execHandOff
  rw [hm]
  rfl

/-- R10, R14: the active table after a notice with view `v` of link `l`. -/
def viewedTable (s : State) (l : Link) (v : View) : Table ActiveEntry :=
  if s.fe.view[l].count = v.count then s.fe.active
  else redecideOn (updAt s.fe.view l fun _ => v) l s.fe.active

theorem execLinkViewNotice_cons {s : State} {l : Link} {v : View} {rest : List View}
    (hm : s.mail.viewNotices[l] = v :: rest) :
    execLinkViewNotice l s = .next
      { s with fe := { s.fe with view := updAt s.fe.view l fun _ => v, active := viewedTable s l v }
               mail := { s.mail with viewNotices := updAt s.mail.viewNotices l fun _ => rest } } := by
  unfold execLinkViewNotice
  rw [hm]
  rfl

/-- R14: a reach status decided again is the record's reach. -/
theorem reach_redecide (v : Vector View 8) (e : ActiveEntry) :
    (e.redecide v).reach = e.entry.reach v := by
  cases e with
  | span s r => rfl
  | mix d ts n r =>
    simp only [ActiveEntry.redecide, ActiveEntry.reach, ActiveEntry.entry, Entry.reach, List.map_map]
    rfl

/-- R14: what a view notice makes of one active entry. -/
theorem get?_viewedTable {s : State} {l : Link} {v : View} {pos : Nat} {e : ActiveEntry}
    (he : Table.get? s.fe.active pos = some e) :
    Table.get? (viewedTable s l v) pos =
      some (if s.fe.view[l].count ≠ v.count ∧ e.entry.onLink l = true then
        e.redecide (updAt s.fe.view l fun _ => v) else e) := by
  unfold viewedTable
  by_cases hcount : s.fe.view[l].count = v.count
  · rw [if_pos hcount, he, if_neg fun h => h.1 hcount]
  · rw [if_neg hcount, redecideOn, get?_mapVal, he]
    simp only [Option.map_some, ne_eq, hcount, not_false_eq_true, true_and]

theorem handOffsAndViewsAreTaken : Piece.HandOffsAndViewsAreTaken := by
  refine fun s => ⟨fun h rest hm => execHandOff_cons hm, fun l v rest hm =>
    ⟨_, execLinkViewNotice_cons hm, rfl, updAt_same _ _ _, fun l' hl => updAt_ne _ _ hl.symm, rfl,
      fun hcount => if_pos hcount, fun pos e he => ⟨_, get?_viewedTable he, ?_⟩⟩⟩
  split
  next h => exact ⟨by simp, by simp, fun hoff => by simp [h.2] at hoff, fun _ _ => reach_redecide _ e⟩
  next h => exact ⟨rfl, rfl, fun _ => rfl, fun hcount hon => absurd ⟨hcount, hon⟩ h⟩

/-! ## Transactions (R26, R47) -/

theorem get?_put_same {α : Type} (t : Table α) (k : Nat) (v : α) :
    Table.get? (Table.put t k v) k = some v := by
  induction t with
  | nil => simp [Table.put, Table.get?]
  | cons e t ih =>
    obtain ⟨j, x⟩ := e
    unfold Table.put
    split
    · simp [Table.get?]
    · split
      · simp [Table.get?]
      next hk => rw [Table.get?, if_neg hk, ih]

theorem execGainAdjustApply_found {s : State} {pos term code : Nat} {e e' : ActiveEntry}
    (hask : s.mail.reuAsk = some (.gain pos term code)) (he : Table.get? s.fe.active pos = some e)
    (hset : e.setTarget term code = some e') :
    execGainAdjustApply s = .next
      { s with fe := { s.fe with active := Table.put s.fe.active pos e' }
               mail := { s.mail with reuAsk := none, feAnswer := some (.gain true) } } := by
  unfold execGainAdjustApply
  rw [hask]
  simp only [he, Option.bind_some, hset]
  rfl

theorem execGainAdjustApply_missing {s : State} {pos term code : Nat}
    (hask : s.mail.reuAsk = some (.gain pos term code))
    (hnone : ((Table.get? s.fe.active pos).bind fun e => e.setTarget term code) = none) :
    execGainAdjustApply s = .next
      { s with mail := { s.mail with reuAsk := none, feAnswer := some (.gain false) } } := by
  unfold execGainAdjustApply
  rw [hask]
  simp only [hnone]
  rfl

/-- R47: only a MIX entry with enough terms has the term. -/
theorem setTarget_missing {o : Option ActiveEntry} {term code : Nat}
    (h : ∀ d ts n r, o = some (.mix d ts n r) → ts.length < term) :
    (o.bind fun e => e.setTarget term code) = none := by
  match o with
  | none => rfl
  | some (.span _ _) => rfl
  | some (.mix d ts n r) => exact if_pos (h d ts n r rfl)

/-- R47: of the terms of an entry the one adjusted changes its target. -/
theorem getElem?_adjusted {ts : List LiveTerm} {term code i : Nat} {x : LiveTerm} (hterm : 1 ≤ term)
    (hx : ts[i]? = some x) :
    (ts.modify (term - 1) fun t => { t with target := code })[i]? =
      some (if i + 1 = term then { x with target := code } else x) := by
  rw [List.getElem?_modify, hx]
  have hi : term - 1 = i ↔ i + 1 = term := by omega
  simp only [hi]
  rfl

theorem gainIsApplied {s : State} {pos term code : Nat} {d : Dest} {ts : List LiveTerm} {n : Nat}
    {r : Reach} (hask : s.mail.reuAsk = some (.gain pos term code)) (hterm : 1 ≤ term)
    (he : Table.get? s.fe.active pos = some (.mix d ts n r)) (hlen : term ≤ ts.length) :
    ∃ t, exec .gainAdjustApply s = .next t ∧ OnlyFe s t ∧
      t.fe = { s.fe with active := t.fe.active } ∧
      t.mail = { s.mail with reuAsk := none, feAnswer := some (.gain true) } ∧
      (∃ us, Table.get? t.fe.active pos = some (.mix d us n r) ∧ us.length = ts.length ∧
        ∀ i x, ts[i]? = some x →
          us[i]? = some (if i + 1 = term then { x with target := code } else x)) ∧
      (Table.sorted s.fe.active = true → ∀ p, p ≠ pos →
        Table.get? t.fe.active p = Table.get? s.fe.active p) :=
  ⟨_, execGainAdjustApply_found hask he (if_neg (Nat.not_lt.mpr hlen)), rfl, rfl, rfl,
    ⟨_, get?_put_same _ _ _, List.length_modify .., fun _ _ hx => getElem?_adjusted hterm hx⟩,
    fun hs p hp => by rw [get?_put hs, if_neg hp]⟩

theorem transactionsAreAnswered : Piece.TransactionsAreAnswered := by
  refine fun s => ⟨fun hask => ?_, fun hask => ?_, fun pos term code hask hterm =>
    ⟨fun d ts n r he hlen => gainIsApplied hask hterm he hlen,
      fun hnone => execGainAdjustApply_missing hask (setTarget_missing hnone)⟩⟩
  · change execActiveTableCopy s = _
    unfold execActiveTableCopy
    rw [hask]
    rfl
  · change execLinkViewSnapshot s = _
    unfold execLinkViewSnapshot
    rw [hask]
    rfl

/-- Settles O30: the queue and the views are written as the notice says, and a transaction is answered
from the state that takes it. -/
theorem engineTakesNoticesAndTransactions : Obligations.EngineTakesNoticesAndTransactions :=
  ⟨handOffsAndViewsAreTaken, transactionsAreAnswered⟩

/-! ## Reads of the active table (R17, R19) -/

/-- Taking a request leaves the Frame Engine's records. -/
theorem handed_fe {b : Block} {req : Req} {s s' : State} (h : Handed b req s s') : s'.fe = s.fe := by
  obtain ⟨rest, -, rfl⟩ := h
  rfl

section EntryRead

variable {s s' : State} {req : Req}

theorem execEntryReadActive_outside (h : Handed .fe req s s') (hk : req.kind = .entryRead)
    (hpos : 511 < field16 req.body 1) :
    exec .entryReadActive s = .next (s'.badField .fe req 2) := by
  change execEntryReadActive s = _
  simp only [execEntryReadActive, kindRequest_handed h hk, hpos, if_true]

theorem execEntryReadActive_empty (h : Handed .fe req s s') (hk : req.kind = .entryRead)
    (hpos : field16 req.body 1 ≤ 511)
    (he : Table.get? s.fe.active (field16 req.body 1) = none) :
    exec .entryReadActive s = .next (s'.answer .fe req .notFound []) := by
  change execEntryReadActive s = _
  simp only [execEntryReadActive, kindRequest_handed h hk, Nat.not_lt.mpr hpos, if_false,
    handed_fe h, he]

theorem execEntryReadActive_found {e : ActiveEntry} (h : Handed .fe req s s')
    (hk : req.kind = .entryRead) (hpos : field16 req.body 1 ≤ 511)
    (he : Table.get? s.fe.active (field16 req.body 1) = some e) :
    exec .entryReadActive s = .next (s'.answer .fe req .ok e.octets) := by
  change execEntryReadActive s = _
  simp only [execEntryReadActive, kindRequest_handed h hk, Nat.not_lt.mpr hpos, if_false,
    handed_fe h, he]

end EntryRead

theorem span_octets (sp : Span) (r : Reach) :
    (ActiveEntry.span sp r).octets = (Entry.span sp).octets ++ u8 r.code := List.append_nil _

theorem mix_octets (d : Dest) (ts : List LiveTerm) (n : Nat) (r : Reach) :
    (ActiveEntry.mix d ts n r).octets =
      (Entry.mix d (ts.map fun x => ⟨x.source, x.target⟩)).octets ++ u8 r.code ++ u16 n ++
        ts.flatMap fun x => u8 x.current ++ u8 x.target := (List.append_assoc _ _ _).symm

theorem activeTableIsRead : Piece.ActiveTableIsRead := by
  refine fun s s' req h => ⟨fun hk => ⟨execEntryReadActive_outside h hk, fun hpos =>
    ⟨execEntryReadActive_empty h hk hpos, fun sp r he => ?_, fun d ts n r he => ?_⟩⟩, fun hk => ?_⟩
  · rw [execEntryReadActive_found h hk hpos he, span_octets]
  · rw [execEntryReadActive_found h hk hpos he, mix_octets]
  · change execTableSummaryActive s = _
    simp only [execTableSummaryActive, kindRequest_handed h hk, handed_fe h]

/-! ## Engine status (R69, R70) -/

theorem execEngineStatus_handed {s s' : State} {req : Req} (h : Handed .fe req s s')
    (hk : req.kind = .engineStatus) :
    exec .engineStatus s = .next { s with
      fe := { s.fe with status := s.fe.status ++ [s.fe.statusOf req] }
      mail := { s'.mail with claimQueries := s.mail.claimQueries + 1 } } := by
  obtain ⟨rest, -, rfl⟩ := id h
  change execEngineStatus s = _
  unfold execEngineStatus
  rw [kindRequest_handed h hk]
  rfl

/-- R70: whether the Route Edit Unit answers a claim as PENDING. -/
def claimIsPending (c : Claim) : Bool := match c.phase with | .pending => true | .held _ => false

theorem claimIsPending_iff (c : Claim) : claimIsPending c = true ↔ c.phase = .pending := by
  unfold claimIsPending
  split
  next h => simp [h]
  next h => simp [h]

theorem execClaimQuery_free {s : State} {n : Nat} (hn : s.mail.claimQueries = n + 1)
    (hc : s.reu.claim = none) :
    exec .claimQuery s = .next { s with mail := { s.mail with
      claimQueries := n, claimAnswers := s.mail.claimAnswers ++ [(none, false)] } } := by
  change execClaimQuery s = _
  simp only [execClaimQuery, hn, hc, Nat.succ_pos, if_true, State.onMail, Nat.add_sub_cancel]

theorem execClaimQuery_claimed {s : State} {n : Nat} {c : Claim} (hn : s.mail.claimQueries = n + 1)
    (hc : s.reu.claim = some c) :
    exec .claimQuery s = .next { s with mail := { s.mail with
      claimQueries := n
      claimAnswers := s.mail.claimAnswers ++ [(some c.owner, claimIsPending c)] } } := by
  change execClaimQuery s = _
  simp only [execClaimQuery, hn, hc, Nat.succ_pos, if_true, State.onMail, Nat.add_sub_cancel]
  rfl

theorem execClaimAnswer_cons {s : State} {w : StatusWait} {ws : List StatusWait}
    {a : Option Link × Bool} {as : List (Option Link × Bool)} (hw : s.fe.status = w :: ws)
    (ha : s.mail.claimAnswers = a :: as) :
    exec .claimAnswer s = .next (State.answer
      { s with fe := { s.fe with status := ws }, mail := { s.mail with claimAnswers := as } }
      .fe w.req .ok (w.octets a)) := by
  change execClaimAnswer s = _
  unfold execClaimAnswer
  rw [hw, ha]
  rfl

theorem engineStatusIsAnswered : Piece.EngineStatusIsAnswered := by
  refine fun s => ⟨fun s' req h hk => ?_, fun n hn => ⟨fun hc => execClaimQuery_free hn hc, fun c hc =>
    ⟨claimIsPending c, claimIsPending_iff c, execClaimQuery_claimed hn hc⟩⟩, fun w ws a as hw ha => ?_⟩
  · exact ⟨s.fe.statusOf req, rfl, rfl, rfl, rfl, List.countP_eq_length_filter,
      List.countP_eq_length_filter, rfl, execEngineStatus_handed h hk⟩
  · refine (execClaimAnswer_cons hw ha).trans ?_
    obtain ⟨owner, pend⟩ := a
    cases owner <;> cases pend <;> rfl

/-- Settles O31: each read is answered from the state that takes it. -/
theorem engineReadsAnswer : Obligations.EngineReadsAnswer :=
  ⟨activeTableIsRead, engineStatusIsAnswered⟩

end Sys2Proof.RouteTable
end

section
/-! SUPPORT. The frame boundary (R50): what it adopts, and what the frame's computation does to each part of
the state. -/

namespace Sys2Proof.RouteTable

open Sys2Proof.Machine Sys2Proof.Laws

/-! ## Adoption (R52 to R54) -/

/-- R52: the active table that a handed-off table becomes. -/
def adoptedTable (s : State) (h : HandOff) : Table ActiveEntry :=
  Table.mapVal (fun pos e => adoptEntry s.fe.view (Table.get? s.fe.active pos) e) h.table

theorem recordsOf_adoptedTable (s : State) (h : HandOff) :
    recordsOf (adoptedTable s h) = h.table := recordsOf_adopted _ _ _

/-- R67: a table uses a link when one of its records is on it. -/
theorem linkUsed_iff {t : Table ActiveEntry} {l : Link} :
    linkUsed t l = true ↔ ∃ e ∈ recordsOf t, e.2.onLink l = true := by
  simp only [linkUsed, recordsOf, Table.mapVal, List.any_eq_true, List.mem_map]
  constructor
  · rintro ⟨e, he, hon⟩; exact ⟨_, ⟨e, he, rfl⟩, hon⟩
  · rintro ⟨_, ⟨e, he, rfl⟩, hon⟩; exact ⟨e, he, hon⟩

theorem adoptOldest_nil {s : State} (hq : s.fe.queue = []) : s.adoptOldest = s := by
  unfold State.adoptOldest
  rw [hq]

/-- R52: adoption of the oldest table of the queue. -/
theorem adoptOldest_cons {s : State} {h : HandOff} {rest : List HandOff}
    (hq : s.fe.queue = h :: rest) :
    ∃ (v : Vector (List Bool) 8) (used : Vector Bool 8),
      s.adoptOldest = { s with
        fe := { s.fe with
          queue := rest, active := adoptedTable s h, cost := h.cost, used := used }
        mail := { s.mail with
          useNotices := v
          fates := s.mail.fates ++ [⟨h.number, some s.fe.counter⟩]
          reports := s.mail.reports ++ [(.fe, ⟨.commitAdopted, h.owner.val,
            s.fe.counter.toNat % 65536, some s.fe.counter⟩)] } } ∧
      ∀ l : Link, used[l] = linkUsed (adoptedTable s h) l ∧
        v[l] = s.mail.useNotices[l] ++ [used[l]] := by
  obtain ⟨v, used, heq, hl⟩ := adopt_eq { s with fe := { s.fe with queue := rest } } h
  refine ⟨v, used, ?_, hl⟩
  unfold State.adoptOldest
  rw [hq]
  exact heq

/-- R50, R52: what adoption, of a table or of none, can change at all. -/
theorem adoptOldest_frame (s : State) :
    ∃ active cost queue used v fates reports, s.adoptOldest = { s with
      fe := { s.fe with active := active, cost := cost, queue := queue, used := used }
      mail := { s.mail with useNotices := v, fates := fates, reports := reports } } := by
  cases hq : s.fe.queue with
  | nil => exact ⟨_, _, _, _, _, _, _, adoptOldest_nil hq⟩
  | cons h rest =>
    obtain ⟨v, used, heq, -⟩ := adoptOldest_cons hq
    exact ⟨_, _, _, _, _, _, _, heq⟩

section Adoption

variable (s : State)

@[simp] theorem adoptOldest_view : s.adoptOldest.fe.view = s.fe.view := by
  obtain ⟨_, _, _, _, _, _, _, heq⟩ := adoptOldest_frame s
  rw [heq]

@[simp] theorem adoptOldest_counter : s.adoptOldest.fe.counter = s.fe.counter := by
  obtain ⟨_, _, _, _, _, _, _, heq⟩ := adoptOldest_frame s
  rw [heq]

@[simp] theorem adoptOldest_status : s.adoptOldest.fe.status = s.fe.status := by
  obtain ⟨_, _, _, _, _, _, _, heq⟩ := adoptOldest_frame s
  rw [heq]

@[simp] theorem adoptOldest_counterNotices :
    s.adoptOldest.mail.counterNotices = s.mail.counterNotices := by
  obtain ⟨_, _, _, _, _, _, _, heq⟩ := adoptOldest_frame s
  rw [heq]

@[simp] theorem adoptOldest_inputWords : s.adoptOldest.mail.inputWords = s.mail.inputWords := by
  obtain ⟨_, _, _, _, _, _, _, heq⟩ := adoptOldest_frame s
  rw [heq]

/-- R55: the adoption changes no source. -/
@[simp] theorem adoptOldest_readSource : s.adoptOldest.readSource = s.readSource := by
  obtain ⟨_, _, _, _, _, _, _, heq⟩ := adoptOldest_frame s
  rw [heq]
  funext x
  cases x <;> rfl

end Adoption

/-! ## The frame's computation (R50) -/

section Frame

variable (s : State)

@[simp] theorem computeFrame_counter : s.computeFrame.fe.counter = s.fe.counter + 1 := rfl

@[simp] theorem computeFrame_view : s.computeFrame.fe.view = s.fe.view := rfl

@[simp] theorem computeFrame_status : s.computeFrame.fe.status = s.fe.status := rfl

@[simp] theorem computeFrame_used : s.computeFrame.fe.used = s.fe.used := rfl

theorem computeFrame_active : s.computeFrame.fe.active =
    Table.mapVal (fun _ e => e.advance s.fe.view s.readSource) s.fe.active := rfl

@[simp] theorem computeFrame_records :
    recordsOf s.computeFrame.fe.active = recordsOf s.fe.active :=
  recordsOf_mapVal fun _ e => entry_advance _ _ e

@[simp] theorem computeFrame_counterNotices :
    s.computeFrame.mail.counterNotices = s.mail.counterNotices ++ [s.fe.counter + 1] := rfl

theorem computeFrame_txNext (l : Link) : LP.txNext s.computeFrame.lp[l] =
    transmitFrame s.fe.view s.readSource s.fe.active l :=
  congrArg LP.txNext (Vector.getElem_ofFn l.isLt)

theorem computeFrame_inputWords (r : Rec) : s.computeFrame.mail.inputWords[r] =
    s.mail.inputWords[r] ++ [produce s.fe.view s.readSource s.fe.active (.recorder r)] :=
  Vector.getElem_ofFn r.isLt

end Frame

theorem boundaryAdoptsOneTable : Piece.BoundaryAdoptsOneTable := by
  intro s
  refine ⟨_, rfl, by simp, by simp, by simp, by simp, fun hq => ?_, fun h rest hq => ?_⟩
  · rw [adoptOldest_nil hq]
    exact ⟨computeFrame_records s, rfl, hq, rfl, rfl, rfl, rfl⟩
  · obtain ⟨v, used, heq, hlinks⟩ := adoptOldest_cons hq
    rw [heq]
    refine ⟨(computeFrame_records _).trans (recordsOf_adoptedTable s h), rfl, rfl, rfl, rfl,
      fun l => ⟨?_, (hlinks l).2⟩⟩
    rw [computeFrame_used, (hlinks l).1, linkUsed_iff, recordsOf_adoptedTable]

/-! ## What an adopted entry starts with (R53, R54) -/

/-- R53: a term matched with an old term of its source keeps the current code. -/
theorem matchTerm_mix {d : Dest} {os : List LiveTerm} {n : Nat} {r : Reach} {i : Nat} {o : LiveTerm}
    (t : Term) (ho : os[i]? = some o) :
    matchTerm (some (.mix d os n r)) i t =
      ⟨t.source, if o.source = t.source then o.current else t.gain, t.gain⟩ := by
  simp only [matchTerm, Option.bind_some, ActiveEntry.termAt, ho]

/-- R53: a term that no old term of its index and source matches stands at its target. -/
theorem matchTerm_fresh {old : Option ActiveEntry} {i : Nat} {t : Term}
    (h : ∀ d os n r o, old = some (.mix d os n r) → os[i]? = some o → o.source ≠ t.source) :
    (matchTerm old i t).current = t.gain := by
  match old with
  | none => rfl
  | some (.span _ _) => rfl
  | some (.mix d os n r) =>
    cases ho : os[i]? with
    | none => simp only [matchTerm, Option.bind_some, ActiveEntry.termAt, ho]
    | some o => rw [matchTerm_mix t ho]; exact if_neg (h d os n r o rfl ho)

@[simp] theorem matchTerm_source (old : Option ActiveEntry) (i : Nat) (t : Term) :
    (matchTerm old i t).source = t.source := congrArg Term.source (record_matchTerm old i t)

@[simp] theorem matchTerm_target (old : Option ActiveEntry) (i : Nat) (t : Term) :
    (matchTerm old i t).target = t.gain := congrArg Term.gain (record_matchTerm old i t)

theorem getElem?_startTerms {old : Option ActiveEntry} {ts : List Term} {i : Nat} {u : LiveTerm}
    (h : (startTerms old ts)[i]? = some u) : ∃ t, u = matchTerm old i t := by
  rw [startTerms, List.getElem?_mapIdx] at h
  obtain ⟨t, -, rfl⟩ := Option.map_eq_some_iff.mp h
  exact ⟨t, rfl⟩

theorem startsFrom_adopt (old : Option ActiveEntry) (d : Dest) (ts : List Term) :
    StartsFrom old d (startTerms old ts) (carrySat old d) where
  matched := by
    rintro i u hu d0 os n0 r0 o rfl ho hsource
    obtain ⟨t, rfl⟩ := getElem?_startTerms hu
    rw [matchTerm_source] at hsource
    rw [matchTerm_mix t ho]
    exact if_pos hsource
  fresh := by
    intro i u hu hdiffer
    obtain ⟨t, rfl⟩ := getElem?_startTerms hu
    rw [matchTerm_source] at hdiffer
    rw [matchTerm_target]
    exact matchTerm_fresh hdiffer
  carried := by
    rintro os n0 r0 rfl
    exact if_pos rfl
  started := by
    intro hother
    match old with
    | none => rfl
    | some (.span _ _) => rfl
    | some (.mix d' os n r) =>
      refine if_neg fun hd => ?_
      subst hd
      exact hother os n r rfl

/-- R60: the frame of an entry in reach that lies outside the sample range. -/
theorem isSaturated_iff {s : State} {d : Dest} {ts : List LiveTerm} :
    isSaturated s d ts ↔
      (d.inReach s.fe.view && saturated (mixShifted s.readSource ts)) = true := by
  simp [isSaturated, saturated]

/-- R50, R52: an entry of the adopted table after the boundary. -/
theorem get?_boundary {s : State} {h : HandOff} {rest : List HandOff} {pos : Nat} {e : Entry}
    (hq : s.fe.queue = h :: rest) (hr : RouteTable h.table) (he : (pos, e) ∈ h.table) :
    Table.get? s.adoptOldest.computeFrame.fe.active pos =
      some ((adoptEntry s.fe.view (Table.get? s.fe.active pos) e).advance s.fe.view s.readSource) := by
  have hactive : s.adoptOldest.fe.active = adoptedTable s h := by
    obtain ⟨v, used, heq, -⟩ := adoptOldest_cons hq
    rw [heq]
  rw [computeFrame_active, get?_mapVal, hactive, adoptedTable, get?_mapVal,
    get?_of_mem (wf_iff.mp hr).1 he, adoptOldest_view, adoptOldest_readSource]
  rfl

theorem adoptionMatchesTerms : Piece.AdoptionMatchesTerms := by
  intro s t h rest pos hq hr hstep
  injection hstep with hstep
  subst hstep
  refine ⟨fun sp he => get?_boundary hq hr he, fun d ts he => ?_⟩
  refine ⟨startTerms (Table.get? s.fe.active pos) ts, carrySat (Table.get? s.fe.active pos) d, _,
    records_startTerms _ _, startsFrom_adopt _ d ts, fun hsat => ?_, fun hsat => ?_,
    get?_boundary hq hr he⟩
  · exact if_pos (isSaturated_iff.mp hsat)
  · exact if_neg fun h => hsat (isSaturated_iff.mpr h)

/-- Settles O27: the boundary is the adoption of the oldest table and then the frame's computation, which
leaves every record. -/
theorem boundaryAdopts : Obligations.BoundaryAdopts := ⟨boundaryAdoptsOneTable, adoptionMatchesTerms⟩

/-! ## Destinations (R7, R8, R58, R62, R63) -/

theorem mem_destinations_link {l : Link} {slot : Nat} (hlow : 1 ≤ slot) (hhigh : slot ≤ 64) :
    Dest.link l slot ∈ destinations := by
  refine List.mem_append_left _ (List.mem_flatMap.mpr ⟨l, mem_allEight l, List.mem_map.mpr ?_⟩)
  exact ⟨slot - 1, List.mem_range.mpr (by omega), by rw [Nat.sub_add_cancel hlow]⟩

theorem mem_destinations_recorder (r : Rec) : Dest.recorder r ∈ destinations := by
  refine List.mem_append_right _ ?_
  revert r
  decide

theorem unique_of_countP_le_one {α : Type} {p : α → Bool} {xs : List α} {x y : α}
    (h : xs.countP p ≤ 1) (hx : x ∈ xs) (hy : y ∈ xs) (hpx : p x = true) (hpy : p y = true) :
    x = y := by
  rw [List.countP_eq_length_filter] at h
  have hx' : x ∈ xs.filter p := List.mem_filter.mpr ⟨hx, hpx⟩
  have hy' : y ∈ xs.filter p := List.mem_filter.mpr ⟨hy, hpy⟩
  match hf : xs.filter p with
  | [] => simp [hf] at hx'
  | [z] => rw [hf, List.mem_singleton] at hx' hy'; rw [hx', hy']
  | _ :: _ :: _ => simp [hf] at h

/-- The one element that a search can answer with is the one it answers with. -/
theorem findSome?_of_unique {α β : Type} {f : α → Option β} {xs : List α} {x : α} {b : β}
    (hx : x ∈ xs) (hb : f x = some b) (huniq : ∀ y ∈ xs, ∀ c, f y = some c → y = x) :
    xs.findSome? f = some b := by
  cases hfound : xs.findSome? f with
  | none => rw [List.findSome?_eq_none_iff.mp hfound x hx] at hb; cases hb
  | some c =>
    obtain ⟨y, hy, hc⟩ := List.exists_of_findSome?_eq_some hfound
    rw [← hc, huniq y hy c hc, hb]

/-- R39: in a table without a conflict at a destination, two entries of one kind that cover it are one. -/
theorem unique_cover {t : Table ActiveEntry} {p : Entry → Bool} {x y : Nat × ActiveEntry}
    (h : ((recordsOf t).countP fun e => p e.2) ≤ 1) (hx : x ∈ t) (hy : y ∈ t)
    (hpx : p x.2.entry = true) (hpy : p y.2.entry = true) : x = y := by
  rw [recordsOf, Table.mapVal, List.countP_map] at h
  exact unique_of_countP_le_one h hx hy hpx hpy

section Produce

variable {v : Vector View 8} {read : Source → Slot} {t : Table ActiveEntry} {d : Dest}

/-- R8: the MIX entry that covers a destination governs. -/
theorem produce_mix {pos n : Nat} {ts : List LiveTerm} {r : Reach}
    (hfree : NoConflictAt (recordsOf t) d) (h : (pos, ActiveEntry.mix d ts n r) ∈ t) :
    produce v read t d = mixResult read ts := by
  have hmix : mixAt read t d = some (mixResult read ts) := by
    refine findSome?_of_unique h (if_pos rfl) ?_
    rintro ⟨k, e⟩ hy c hc
    refine unique_cover hfree.2 hy h ?_ (beq_self_eq_true d)
    cases e with
    | span s r' => cases hc
    | mix d' ts' n' r' =>
      by_cases hd : d' = d
      · exact beq_iff_eq.mpr hd
      · simp [hd] at hc
  rw [produce, hmix]

theorem mixAt_none (h : ∀ e ∈ t, e.2.entry.mixCovers d = false) : mixAt read t d = none := by
  refine List.findSome?_eq_none_iff.mpr fun e he => ?_
  obtain ⟨k, e⟩ := e
  have hcover := h _ he
  cases e with
  | span s r => rfl
  | mix d' ts n r => exact if_neg fun hd => by simp [ActiveEntry.entry, Entry.mixCovers, hd] at hcover

/-- R58, R62: the span that covers a link slot which no MIX entry covers. -/
theorem produce_span {l : Link} {slot pos : Nat} {sp : Span} {r : Reach}
    (hfree : NoConflictAt (recordsOf t) (.link l slot))
    (hmix : ∀ e ∈ t, e.2.entry.mixCovers (.link l slot) = false)
    (h : (pos, ActiveEntry.span sp r) ∈ t) (hcover : sp.covers (.link l slot) = true) :
    produce v read t (.link l slot) =
      if slotInReach v sp.srcLink (sp.srcFirst + (slot - sp.dstFirst)) = true then
        read (.link sp.srcLink (sp.srcFirst + (slot - sp.dstFirst)))
      else ⟨0, .idle⟩ := by
  rw [produce, mixAt_none hmix]
  refine congrArg (fun o : Option Slot => o.getD Slot.silent)
    (findSome?_of_unique h (if_pos hcover) ?_)
  rintro ⟨k, e⟩ hy c hc
  refine unique_cover hfree.1 hy h ?_ hcover
  cases e with
  | span s r' =>
    by_cases hs : s.covers (.link l slot)
    · exact hs
    · simp [hs] at hc
  | mix d' ts' n' r' => cases hc

theorem spanAt_none (h : ∀ e ∈ t, e.2.entry.spanCovers d = false) : spanAt v read t d = none := by
  cases d with
  | recorder r => rfl
  | link l slot =>
    refine List.findSome?_eq_none_iff.mpr fun e he => ?_
    obtain ⟨k, e⟩ := e
    have hcover := h _ he
    cases e with
    | span s r => exact if_neg fun hs => by simp [ActiveEntry.entry, Entry.spanCovers, hs] at hcover
    | mix d' ts n r => rfl

/-- R63: a destination that no entry covers. -/
theorem produce_silent (hmix : ∀ e ∈ t, e.2.entry.mixCovers d = false)
    (hspan : ∀ e ∈ t, e.2.entry.spanCovers d = false) : produce v read t d = ⟨0, .idle⟩ := by
  rw [produce, mixAt_none hmix, spanAt_none hspan]
  rfl

/-- No span covers a recorder. -/
theorem spanCovers_recorder (e : Entry) (r : Rec) : e.spanCovers (.recorder r) = false := by
  cases e <;> rfl

theorem transmitFrame_written {l : Link} (h : v[l].cls = .up ∨ v[l].cls = .wake) :
    transmitFrame v read t l =
      some ((List.range v[l].count).map fun i => produce v read t (.link l (i + 1))) := if_pos h

theorem transmitFrame_unwritten {l : Link} (hup : v[l].cls ≠ .up) (hwake : v[l].cls ≠ .wake) :
    transmitFrame v read t l = none := if_neg fun h => h.elim hup hwake

/-- R62: payload slot `slot` of a transmit frame. -/
theorem getElem?_frame {l : Link} {slot : Nat} (hlow : 1 ≤ slot) (hhigh : slot ≤ v[l].count) :
    ((List.range v[l].count).map fun i => produce v read t (.link l (i + 1)))[slot - 1]? =
      some (produce v read t (.link l slot)) := by
  rw [List.getElem?_map, List.getElem?_range (by omega), Option.map_some, Nat.sub_add_cancel hlow]

end Produce

/-! ## The boundary's words (R50, R52, R56 to R63) -/

/-- R52: the active table after the adoption is the table in force. -/
theorem tableInForce (s : State) : TableInForce s s.adoptOldest.fe.active := by
  refine ⟨fun hq => by rw [adoptOldest_nil hq], fun h rest hq => ?_⟩
  obtain ⟨v, used, heq, -⟩ := adoptOldest_cons hq
  rw [heq]
  refine ⟨recordsOf_adoptedTable s h, fun pos d us n r hmem => ?_⟩
  obtain ⟨⟨k, e⟩, -, hadopt⟩ := List.mem_map.mp hmem
  injection hadopt with hk he
  subst hk
  cases e with
  | span sp => cases he
  | mix d' ts =>
    simp only [adoptEntry_mix] at he
    injection he with hd hus hn
    subst hd hus hn
    exact startsFrom_adopt _ _ ts

/-- R9, R40: the table in force has no conflict. -/
theorem inForce_noConflict {s : State} (hs : s.RoutingSound) {d : Dest} (hd : d ∈ destinations) :
    NoConflictAt (recordsOf s.adoptOldest.fe.active) d :=
  (admission_pass_iff.mp (sound_adoptOldest hs).active.2.1).1 d hd

theorem boundaryProducesTheSlots : Piece.BoundaryProducesTheSlots := by
  intro s t hs hstep
  injection hstep with hstep
  subst hstep
  have htx := computeFrame_txNext s.adoptOldest
  have hwords := computeFrame_inputWords s.adoptOldest
  rw [adoptOldest_view, adoptOldest_readSource] at htx hwords
  rw [adoptOldest_inputWords] at hwords
  refine ⟨s.adoptOldest.fe.active, tableInForce s, fun l hup hwake => ?_, fun l hcls => ?_,
    fun r => ?_⟩
  · rw [htx, transmitFrame_unwritten hup hwake]
  · refine ⟨_, (htx l).trans (transmitFrame_written hcls), by simp, fun slot hlow hhigh hcount => ?_⟩
    have hfree := inForce_noConflict hs (mem_destinations_link (l := l) hlow hhigh)
    rw [getElem?_frame hlow hcount]
    exact ⟨fun pos ts n r h => congrArg some (produce_mix hfree h), fun hmix =>
      ⟨fun pos sp r h hcover => congrArg some (produce_span hfree hmix h hcover),
        fun hspan => congrArg some (produce_silent hmix hspan)⟩⟩
  · exact ⟨_, hwords r,
      fun pos ts n x h => produce_mix (inForce_noConflict hs (mem_destinations_recorder r)) h,
      fun hmix => produce_silent hmix fun e _ => spanCovers_recorder _ r⟩

/-! ## Weighted sums (R59 to R61) -/

/-- R59, R60: the sample is the value limited to the sample range. -/
theorem toInt_limit (x : Int) :
    (limit x).toInt = if 8388607 < x then 8388607 else if x < -8388608 then -8388608 else x := by
  unfold limit
  rw [BitVec.toInt_ofInt_eq_self (by decide) (by omega) (by omega)]
  split
  · omega
  · split <;> omega

/-- R61: a result is SUBST when any term is. -/
theorem mixStatus_subst {read : Source → Slot} {ts : List LiveTerm} :
    mixStatus read ts = .subst ↔ ∃ x ∈ ts, (read x.source).status = .subst := by
  unfold mixStatus
  split
  next h => simpa using h
  next h =>
    have hnone : ¬∃ x ∈ ts, (read x.source).status = .subst := by simpa using h
    split <;> simp [hnone]

/-- R61: a result is IDLE when all terms are. -/
theorem mixStatus_idle {read : Source → Slot} {ts : List LiveTerm} :
    mixStatus read ts = .idle ↔ ∀ x ∈ ts, (read x.source).status = .idle := by
  unfold mixStatus
  split
  next h =>
    obtain ⟨x, hx, hsubst⟩ : ∃ x ∈ ts, (read x.source).status = .subst := by simpa using h
    refine ⟨fun h => (nomatch h), fun hall => ?_⟩
    rw [hall x hx] at hsubst
    cases hsubst
  next =>
    split
    next hall => simpa using hall
    next hall =>
      have hlive : ¬∀ x ∈ ts, (read x.source).status = .idle := by simpa using hall
      simp [hlive]

/-- R6: code 192 is the factor 1. -/
theorem gainFactor_unity : gainFactor 192 = 1048576 := by decide

/-- R59: a single term at code 192 gives its sample back. -/
theorem mixResult_unity (read : Source → Slot) (src : Source) (target : Nat) :
    (mixResult read [⟨src, 192, target⟩]).sample = (read src).sample := by
  have hsum : mixShifted read [⟨src, 192, target⟩] = (read src).sample.toInt := by
    simp [mixShifted, mixSum, gainFactor_unity]
  have hlow := BitVec.le_toInt (read src).sample
  have hhigh := BitVec.toInt_lt (x := (read src).sample)
  refine BitVec.eq_of_toInt_eq ?_
  rw [mixResult, toInt_limit, hsum, if_neg (by omega), if_neg (by omega)]

theorem weightedSumIsExact : Piece.WeightedSumIsExact := by
  refine fun read ts => ⟨?_, mixStatus_subst, mixStatus_idle, mixResult_unity read⟩
  rintro q rfl
  rw [Int.fdiv_eq_ediv_of_nonneg _ (by decide)]
  exact toInt_limit _

/-- Settles O28: in the table in force, which is admitted, at most one entry of each kind covers a
destination, so the boundary's search for it finds that one. -/
theorem boundaryComputesExactSums : Obligations.BoundaryComputesExactSums :=
  ⟨boundaryProducesTheSlots, weightedSumIsExact⟩

end Sys2Proof.RouteTable
end

section
/-! SUPPORT. One tick of the time base (log entry 2), block by block: what it does to the timers, to the hold
timer of the claim and to the memory clear. -/

namespace Sys2Proof.TimeBase

open Sys2Proof.Machine Sys2Proof.Laws

/-! ## The memory clear (R130) -/

/-- Keeping the keys that satisfy `q` keeps or drops every cell of a key, so no order of the keys is
needed. -/
theorem get?_filter_key {α : Type} (t : Table α) (q : Nat → Bool) (j : Nat) :
    Table.get? (t.filter fun e => q e.1) j = if q j then Table.get? t j else none := by
  induction t with
  | nil => simp [Table.get?]
  | cons e t ih =>
    obtain ⟨k, v⟩ := e
    by_cases hj : j = k
    · subst hj
      by_cases hq : q j
      · simp [hq, Table.get?]
      · simpa [hq] using ih
    · by_cases hq : q k
      · simpa [hq, hj, Table.get?] using ih
      · simpa [hq, hj, Table.get?] using ih

/-- Reading any memory, in canonical form or not, after a range is cleared. -/
theorem read_cleared (m : Table Sample) (lo hi i : Nat) :
    Memory.read (Memory.clearRange m lo hi) i = if lo ≤ i ∧ i < hi then 0 else Memory.read m i := by
  unfold Memory.read Memory.clearRange
  rw [get?_filter_key m fun a => !(decide (lo ≤ a) && decide (a < hi))]
  by_cases hin : lo ≤ i ∧ i < hi
  · simp [hin, Memory.unlisted]
  · have hkept : (!(decide (lo ≤ i) && decide (i < hi))) = true := by
      rw [Bool.not_eq_true', Bool.and_eq_false_iff, decide_eq_false_iff_not, decide_eq_false_iff_not]
      omega
    rw [if_pos hkept, if_neg hin]

/-- Log entry 6: the address a clear at `a` has reached after a tick. -/
def clearedTo (a : Nat) : Nat := min (a + Config.clearPace a) (Config.memoryWords - 1)

theorem clearedTo_le (a : Nat) : clearedTo a ≤ 131071 := Nat.min_le_right _ _

theorem le_clearedTo {a : Nat} (h : a ≤ 131071) : a ≤ clearedTo a :=
  Nat.le_min.mpr ⟨Nat.le_add_right _ _, h⟩

theorem sst_tick_stopped {t : SST} (h : t.clear = none) : t.tick = t := by
  simp only [SST.tick, h]

theorem sst_tick_clearing {t : SST} {a : Nat} (h : t.clear = some a) :
    t.tick = { t with
      mem := Memory.clearRange t.mem a (clearedTo a)
      clear := some (clearedTo a) } := by
  simp only [SST.tick, h, clearedTo]

/-! ## The hold timer (R33) -/

theorem claim_tick_held {c : Claim} {k : Nat} (h : c.phase = .held k) :
    c.tick = { c with phase := .held (k + 1) } := by
  simp only [Claim.tick, h]

theorem claim_tick_pending {c : Claim} (h : c.phase = .pending) : c.tick = c := by
  simp only [Claim.tick, h]

/-- R33: what a tick leaves of a claim. -/
theorem reu_claim_tick {s : State} {c : Claim} (h : s.reu.claim = some c) :
    s.tick.reu.claim = some c.tick := by
  simp only [State.tick, h, Option.map_some]

/-! ## A step with no command waiting -/

theorem step_of_none_pending {s : State} (h : s.pending = []) : step s = .next s.tick := by
  simp only [step, h]

/-- Settles O2: the tick maps one step of time over the Link Ports and the indicator lines; the claim moves
only while HELD, the memory clear only while it runs. -/
theorem tickAdvancesTimersAndGenerators : Obligations.TickAdvancesTimersAndGenerators := by
  intro s hpending
  refine ⟨s.tick, step_of_none_pending hpending, rfl, fun l => Vector.getElem_map LP.tick l.isLt, rfl,
    fun hfree => ?free, fun c hc => ⟨fun hphase => ?pending, fun k hphase => ?held⟩, rfl,
    fun n => Vector.getElem_map _ n.isLt, sst_tick_stopped, fun a ha => ?clear⟩
  case free => simp only [State.tick, hfree, Option.map_none]
  case pending => rw [reu_claim_tick hc, claim_tick_pending hphase]
  case held => rw [reu_claim_tick hc, claim_tick_held hphase]
  case clear =>
    have hsst : s.tick.sst = _ := sst_tick_clearing ha
    refine ⟨clearedTo a, clearedTo_le a, le_clearedTo, ?_, fun i => ?_⟩
    · rw [hsst]
    · rw [hsst]
      exact read_cleared _ _ _ _

end Sys2Proof.TimeBase
end

section
/-! SUPPORT. What the Route Edit Unit does with a request: what the claim gate answers for each claim, what a
sender that passes it gets, and what a transaction's start and end do. -/

namespace Sys2Proof.EditUnit

open Sys2Proof.Machine Sys2Proof.Laws

/-! ## The claim gate (R28) -/

section Gate

variable {s : State} {req : Req} {frozen : Bool} {f : Claim → State → State} {c : Claim}

theorem gated_free (h : s.reu.claim = none) :
    s.gated req frozen f = s.answer .reu req .notOwner [] := by
  simp only [State.gated, h, claimGate]

theorem gated_owned (h : s.reu.claim = some c) (howner : c.owner ≠ req.ref.link) :
    s.gated req frozen f = s.answer .reu req .owned [BitVec.ofNat 8 c.owner.val] := by
  simp only [State.gated, h, claimGate, howner, ne_eq, not_false_eq_true, if_true, u8]

theorem gated_pending (h : s.reu.claim = some c) (howner : c.owner = req.ref.link)
    (hphase : c.phase = .pending) : s.gated req false f = s.answer .reu req .pending [] := by
  simp [State.gated, h, claimGate, howner, hphase]

/-- R28: a read is also answered against a frozen staging table. -/
theorem claimGate_read {sender : Link} (howner : c.owner = sender) :
    claimGate (some c) sender true = none := by
  simp only [claimGate, howner, ne_eq, not_true_eq_false, if_false, if_true]
  split <;> rfl

theorem claimGate_held {sender : Link} (howner : c.owner = sender) (hphase : c.phase ≠ .pending) :
    claimGate (some c) sender frozen = none := by
  simp only [claimGate, howner, ne_eq, not_true_eq_false, if_false]
  split
  · rfl
  next hp => exact absurd hp hphase

theorem gated_pass (h : s.reu.claim = some c)
    (hgate : claimGate (some c) req.ref.link frozen = none) : s.gated req frozen f = f c s := by
  simp only [State.gated, h, hgate]

/-- R27: EDIT OPEN passes without a claim and for the owner of a HELD one. -/
theorem openGate_pass {claim : Option Claim} {sender : Link}
    (h : ∀ c, claim = some c → c.owner = sender ∧ c.phase ≠ .pending) :
    openGate claim sender = none := by
  unfold openGate
  split
  · rfl
  next c =>
    obtain ⟨howner, hphase⟩ := h c rfl
    rw [if_neg (by simpa using howner)]
    split
    · rfl
    next hp => exact absurd hp hphase

theorem openGate_owned {sender : Link} (howner : c.owner ≠ sender) :
    openGate (some c) sender = some (.owned, [BitVec.ofNat 8 c.owner.val]) := by
  simp only [openGate, howner, ne_eq, not_false_eq_true, if_true, u8]

theorem openGate_pending {sender : Link} (howner : c.owner = sender) (hphase : c.phase = .pending) :
    openGate (some c) sender = some (.pending, []) := by
  simp [openGate, howner, hphase]

end Gate

/-- R33: a claim that is not PENDING restarts its hold timer. -/
theorem restart_held {c : Claim} (h : c.phase ≠ .pending) :
    c.restart = { c with phase := .held 0 } := by
  unfold Claim.restart
  split
  · rfl
  next hp => exact absurd hp h

/-- R33: the restart of either phase. -/
theorem restart_eq (c : Claim) :
    c.restart = { c with
      phase := if c.phase = ClaimPhase.pending then ClaimPhase.pending else .held 0 } := by
  by_cases h : c.phase = .pending
  · rw [if_pos h]
    simp only [Claim.restart, h]
    rw [← h]
  · rw [restart_held h, if_neg h]

/-- The phase of the claim of `holdsClaim` is not PENDING. -/
theorem phase_ne_pending {c : Claim} {k : Nat} (h : c.phase = .held k) : c.phase ≠ .pending := by
  simp [h]

/-! ## Requests taken -/

section Taken

variable {s s' : State} {req : Req} {k : RequestKind}

/-- Taking a request leaves the Route Edit Unit. -/
theorem handed_reu {b : Block} (h : Handed b req s s') : s'.reu = s.reu := by
  obtain ⟨rest, -, rfl⟩ := h
  rfl

/-- R28: what a request through the gate does for the owner of a HELD claim. -/
theorem gatedRequest_held {c : Claim} {frozen : Bool} {g : Req → Claim → State → State}
    (h : Handed .reu req s s') (htxn : s.reu.txn = none) (hk : req.kind = k)
    (hclaim : s.reu.claim = some c) (howner : c.owner = req.ref.link) (hphase : c.phase ≠ .pending) :
    s.reuRequest k (fun req s => s.gated req frozen (g req)) = g req c s' := by
  rw [reuRequest_handed h htxn hk,
    gated_pass (by rw [handed_reu h, hclaim]) (claimGate_held howner hphase)]

/-- R28: what a read of staging does for the owner of a claim. -/
theorem gatedRequest_read {c : Claim} {g : Req → Claim → State → State}
    (h : Handed .reu req s s') (htxn : s.reu.txn = none) (hk : req.kind = k)
    (hclaim : s.reu.claim = some c) (howner : c.owner = req.ref.link) :
    s.reuRequest k (fun req s => s.gated req true (g req)) = g req c s' := by
  rw [reuRequest_handed h htxn hk,
    gated_pass (by rw [handed_reu h, hclaim]) (claimGate_read howner)]

/-- R28: each owner-only request, once taken, stands before the gate; only the two reads are answered
against a frozen staging table too. -/
theorem ownerOnly_gated (h : Handed .reu req s s') (htxn : s.reu.txn = none) :
    ∀ ck ∈ [(Instr.entryPut, RequestKind.entryPut), (.entryDelete, .entryDelete),
        (.tableCheck, .tableCheck), (.tableCommit, .tableCommit), (.editAbandon, .editAbandon),
        (.entryReadStaging, .entryRead), (.tableSummaryStaging, .tableSummary)],
      req.kind = ck.2 → ∃ frozen f,
        (ck.2 ≠ .entryRead → ck.2 ≠ .tableSummary → frozen = false) ∧
        exec ck.1 s = .next (s'.gated req frozen f) := by
  simp only [List.forall_mem_cons, List.not_mem_nil, false_implies, implies_true, and_true]
  have taken {k : RequestKind} (hk : req.kind = k) (f : Req → State → State) :=
    congrArg (Host.Outcome.next (φ := Fault) (ρ := Refusal)) (reuRequest_handed h htxn hk f)
  exact ⟨fun hk => ⟨false, _, fun _ _ => rfl, taken hk _⟩,
    fun hk => ⟨false, _, fun _ _ => rfl, taken hk _⟩,
    fun hk => ⟨false, _, fun _ _ => rfl, taken hk _⟩,
    fun hk => ⟨false, _, fun _ _ => rfl, taken hk _⟩,
    fun hk => ⟨false, _, fun _ _ => rfl, taken hk _⟩,
    fun hk => ⟨true, _, fun hread => absurd rfl hread, taken hk _⟩,
    fun hk => ⟨true, _, fun _ hsummary => absurd rfl hsummary, taken hk _⟩⟩

end Taken

theorem claimGateRefuses : Piece.ClaimGateRefuses := by
  intro s s' req h htxn ck hck hk
  obtain ⟨frozen, f, hfrozen, hexec⟩ := ownerOnly_gated h htxn ck hck hk
  have hreu := handed_reu h
  rw [hexec]
  refine ⟨fun hfree => ?free, fun c hc => ⟨fun howner => ?owned,
    fun howner hphase hread hsummary => ?pending⟩⟩
  case free => rw [gated_free (by rw [hreu, hfree])]
  case owned => rw [gated_owned (by rw [hreu, hc]) howner]
  case pending =>
    rw [hfrozen hread hsummary, gated_pending (by rw [hreu, hc]) howner hphase]

/-! ## Opening the claim (R26, R27) -/

section Open

variable {s s' : State} {req : Req}

theorem execEditOpen_badHold (h : Handed .reu req s s') (htxn : s.reu.txn = none)
    (hk : req.kind = .editOpen) (hbad : octAt req.body 0 = 0 ∨ 60 < octAt req.body 0) :
    exec .editOpen s = .next (s'.badField .reu req 1) := by
  refine congrArg Host.Outcome.next ((reuRequest_handed h htxn hk _).trans ?_)
  exact if_pos hbad

theorem execEditOpen_refused {r : ResultCode × List Byte} (h : Handed .reu req s s')
    (htxn : s.reu.txn = none) (hk : req.kind = .editOpen)
    (hold : 1 ≤ octAt req.body 0 ∧ octAt req.body 0 ≤ 60)
    (hgate : openGate s.reu.claim req.ref.link = some r) :
    exec .editOpen s = .next (s'.answer .reu req r.1 r.2) := by
  refine congrArg Host.Outcome.next ((reuRequest_handed h htxn hk _).trans ?_)
  dsimp only
  rw [if_neg (by omega), handed_reu h, hgate]

/-- R26, R27: EDIT OPEN asks for the copy; the claim stays as it is until the copy comes. -/
theorem execEditOpen_asks (h : Handed .reu req s s') (htxn : s.reu.txn = none)
    (hk : req.kind = .editOpen) (hold : 1 ≤ octAt req.body 0 ∧ octAt req.body 0 ≤ 60)
    (hgate : openGate s.reu.claim req.ref.link = none) :
    exec .editOpen s = .next { s with
      reu := { s.reu with txn := some (.copy req (octAt req.body 0) false) }
      mail := { s'.mail with reuAsk := some .copy } } := by
  refine congrArg Host.Outcome.next ((reuRequest_handed h htxn hk _).trans ?_)
  dsimp only
  rw [if_neg (by omega), handed_reu h, hgate]
  obtain ⟨rest, -, rfl⟩ := h
  rfl

theorem execCopyAnswer_dropped {hold : Nat} {table : Table Entry}
    (htxn : s.reu.txn = some (.copy req hold true)) (hanswer : s.mail.feAnswer = some (.copy table)) :
    exec .copyAnswer s = .next (s.endTxn.answer .reu req .aborted []) := by
  change execCopyAnswer s = _
  simp only [execCopyAnswer, htxn, hanswer, if_true]

theorem execCopyAnswer_opens {hold : Nat} {table : Table Entry}
    (htxn : s.reu.txn = some (.copy req hold false)) (hanswer : s.mail.feAnswer = some (.copy table))
    (hgate : openGate s.reu.claim req.ref.link = none) :
    exec .copyAnswer s = .next ((s.endTxn.setClaim
      (some ⟨req.ref.link, hold, .held 0, table, []⟩)).answer .reu req .ok
        (BitVec.ofNat 8 req.ref.link.val :: u16 table.length)) := by
  change execCopyAnswer s = _
  have hclaim : s.endTxn.reu.claim = s.reu.claim := rfl
  simp only [execCopyAnswer, htxn, hanswer, Bool.false_eq_true, if_false, hclaim, hgate]
  rfl

end Open

theorem editOpenTakesTheClaim : Piece.EditOpenTakesTheClaim := by
  refine fun s => ⟨fun s' req h htxn hk => ⟨execEditOpen_badHold h htxn hk, fun hlow hhigh =>
    ⟨fun c hc howner => ?owned, fun c hc howner hphase => ?pending, fun hpass => ?asks⟩⟩,
    fun req hold dropped table htxn hanswer => ⟨?dropped, ?opens⟩⟩
  case owned =>
    exact execEditOpen_refused h htxn hk ⟨hlow, hhigh⟩ (by rw [hc, openGate_owned howner])
  case pending =>
    exact execEditOpen_refused h htxn hk ⟨hlow, hhigh⟩ (by rw [hc, openGate_pending howner hphase])
  case asks => exact execEditOpen_asks h htxn hk ⟨hlow, hhigh⟩ (openGate_pass hpass)
  case dropped =>
    rintro rfl
    exact execCopyAnswer_dropped htxn hanswer
  case opens =>
    rintro rfl hpass
    exact execCopyAnswer_opens htxn hanswer (openGate_pass hpass)

/-- Settles O32: the gate and EDIT OPEN's own gate are functions of the claim alone, and each of their
answers is the whole of what a refused request does. -/
theorem claimGateAndEditOpen : Obligations.ClaimGateAndEditOpen :=
  ⟨claimGateRefuses, editOpenTakesTheClaim⟩

end Sys2Proof.EditUnit
end

section
/-! SUPPORT. The editing requests of a claim's owner (R29 to R32, R36): each one's outcome, and what its
writes do to the staging table and to the touched flags. -/

namespace Sys2Proof.EditUnit

open Sys2Proof.Machine Sys2Proof.Laws

/-! ## Touched flags and emptied ranges -/

theorem has_put {t : Table Unit} (ht : Table.sorted t = true) (k p : Nat) :
    Table.has (Table.put t k ()) p = true ↔ p = k ∨ Table.has t p = true := by
  rw [Table.has, get?_put ht]
  by_cases hp : p = k
  · simp [hp]
  · simp [hp, Table.has]

/-- R30: what touching positions one by one leaves touched. -/
theorem has_foldl_touch (first : Nat) (is : List Nat) {t : Table Unit} (ht : Table.sorted t = true)
    (p : Nat) :
    Table.has (is.foldl (fun t i => Table.put t (first + i) ()) t) p = true ↔
      (∃ i ∈ is, p = first + i) ∨ Table.has t p = true := by
  induction is generalizing t with
  | nil => simp
  | cons i is ih =>
    rw [List.foldl_cons, ih (sorted_put ht), has_put ht]
    simp only [List.mem_cons, exists_eq_or_imp]
    rw [or_assoc]
    exact or_left_comm

theorem deleteRange_touched {c : Claim} (ht : Table.sorted c.touched = true) (first last p : Nat) :
    Table.has (c.deleteRange first last).touched p = true ↔
      (first ≤ p ∧ p ≤ last) ∨ Table.has c.touched p = true := by
  have hrange : (∃ i ∈ List.range (last + 1 - first), p = first + i) ↔ first ≤ p ∧ p ≤ last := by
    constructor
    · rintro ⟨i, hi, rfl⟩
      rw [List.mem_range] at hi
      omega
    · rintro ⟨hfirst, hlast⟩
      exact ⟨p - first, List.mem_range.mpr (by omega), by omega⟩
  rw [← hrange]
  exact has_foldl_touch first _ ht p

theorem deleteRange_staging (c : Claim) (first last p : Nat) :
    Table.get? (c.deleteRange first last).staging p =
      if first ≤ p ∧ p ≤ last then none else Table.get? c.staging p := by
  refine (TimeBase.get?_filter_key c.staging (fun a => !inRange first last a) p).trans ?_
  by_cases hp : first ≤ p ∧ p ≤ last
  · simp [inRange, hp]
  · have hout : inRange first last p = false := by simpa [inRange] using hp
    rw [if_neg hp, hout]
    rfl

/-- R30: the entries removed are those of the range. -/
theorem countP_deleteRange (c : Claim) (first last : Nat) :
    (c.staging.countP fun e => inRange first last e.1) =
      c.staging.length - (c.deleteRange first last).staging.length := by
  have hsplit := List.length_eq_countP_add_countP (fun e => inRange first last e.1) (l := c.staging)
  have hkept : (c.deleteRange first last).staging.length =
      c.staging.countP fun e => !inRange first last e.1 := List.countP_eq_length_filter.symm
  simp only [Bool.not_eq_true, Bool.decide_eq_false] at hsplit
  omega

/-! ## Writes of the owner of a HELD claim -/

section Writes

variable {s s' : State} {req : Req} {c : Claim} (h : Handed .reu req s s') (htxn : s.reu.txn = none)
  (hclaim : s.reu.claim = some c) (howner : c.owner = req.ref.link) (hphase : c.phase ≠ .pending)

include h htxn hclaim howner hphase

theorem execEntryPut_badPosition (hk : req.kind = .entryPut) (hpos : 511 < field16 req.body 0) :
    exec .entryPut s = .next
      ((s'.setClaim (some { c with phase := .held 0 })).badField .reu req 0) := by
  refine congrArg Host.Outcome.next ((gatedRequest_held h htxn hk hclaim howner hphase).trans ?_)
  dsimp only
  rw [if_pos hpos, restart_held hphase]

theorem execEntryPut_badRecord {n : Nat} (hk : req.kind = .entryPut) (hpos : field16 req.body 0 ≤ 511)
    (hrecord : parseEntry (req.body.drop 2) = .error n) :
    exec .entryPut s = .next
      ((s'.setClaim (some { c with phase := .held 0 })).badField .reu req n) := by
  refine congrArg Host.Outcome.next ((gatedRequest_held h htxn hk hclaim howner hphase).trans ?_)
  dsimp only
  rw [if_neg (Nat.not_lt.mpr hpos), hrecord, restart_held hphase]

theorem execEntryPut_written {e : Entry} (hk : req.kind = .entryPut)
    (hpos : field16 req.body 0 ≤ 511) (hrecord : parseEntry (req.body.drop 2) = .ok e) :
    exec .entryPut s = .next ((s'.setClaim (some { c with
        phase := .held 0
        staging := Table.put c.staging (field16 req.body 0) e
        touched := Table.put c.touched (field16 req.body 0) () })).answer .reu req .ok
      (u16 (field16 req.body 0) ++ u16 (Table.put c.staging (field16 req.body 0) e).length)) := by
  refine congrArg Host.Outcome.next ((gatedRequest_held h htxn hk hclaim howner hphase).trans ?_)
  dsimp only
  rw [if_neg (Nat.not_lt.mpr hpos), hrecord]
  dsimp only
  rw [restart_held (c := c.putEntry (field16 req.body 0) e) hphase]
  rfl

theorem execEntryDelete_badFirst (hk : req.kind = .entryDelete) (hfirst : 511 < field16 req.body 0) :
    exec .entryDelete s = .next
      ((s'.setClaim (some { c with phase := .held 0 })).badField .reu req 1) := by
  refine congrArg Host.Outcome.next ((gatedRequest_held h htxn hk hclaim howner hphase).trans ?_)
  dsimp only
  rw [if_pos hfirst, restart_held hphase]

theorem execEntryDelete_badLast (hk : req.kind = .entryDelete) (hfirst : field16 req.body 0 ≤ 511)
    (hlast : 511 < field16 req.body 2 ∨ field16 req.body 2 < field16 req.body 0) :
    exec .entryDelete s = .next
      ((s'.setClaim (some { c with phase := .held 0 })).badField .reu req 2) := by
  refine congrArg Host.Outcome.next ((gatedRequest_held h htxn hk hclaim howner hphase).trans ?_)
  dsimp only
  rw [if_neg (Nat.not_lt.mpr hfirst), if_pos hlast, restart_held hphase]

theorem execEntryDelete_emptied (hk : req.kind = .entryDelete)
    (hrange : field16 req.body 0 ≤ field16 req.body 2) (hlast : field16 req.body 2 ≤ 511) :
    exec .entryDelete s = .next
      ((s'.setClaim (some { c.deleteRange (field16 req.body 0) (field16 req.body 2) with
          phase := .held 0 })).answer .reu req .ok
        (u16 (c.staging.length -
          (c.deleteRange (field16 req.body 0) (field16 req.body 2)).staging.length))) := by
  refine congrArg Host.Outcome.next ((gatedRequest_held h htxn hk hclaim howner hphase).trans ?_)
  dsimp only
  rw [if_neg (by omega), if_neg (by omega), countP_deleteRange,
    restart_held (c := c.deleteRange (field16 req.body 0) (field16 req.body 2)) hphase]

theorem execEditAbandon_held (hk : req.kind = .editAbandon) :
    exec .editAbandon s = .next ((s'.setClaim none).answer .reu req .ok []) :=
  congrArg Host.Outcome.next (gatedRequest_held h htxn hk hclaim howner hphase)

end Writes

theorem entryPutWritesStaging : Piece.EntryPutWritesStaging := by
  intro s s' req c k h htxn hk ⟨hclaim, howner, hheld⟩
  have hphase := phase_ne_pending hheld
  obtain ⟨rest, -, rfl⟩ := id h
  exact ⟨execEntryPut_badPosition h htxn hclaim howner hphase hk, fun hpos =>
    ⟨fun n => execEntryPut_badRecord h htxn hclaim howner hphase hk hpos, fun e hrecord =>
      ⟨_, _, _, execEntryPut_written h htxn hclaim howner hphase hk hpos hrecord, rfl,
        fun hs _ => get?_put hs, fun hs p => has_put hs _ p⟩⟩⟩

theorem entryDeleteEmptiesARange : Piece.EntryDeleteEmptiesARange := by
  intro s s' req c k h htxn hk ⟨hclaim, howner, hheld⟩
  have hphase := phase_ne_pending hheld
  obtain ⟨rest, -, rfl⟩ := id h
  exact ⟨execEntryDelete_badFirst h htxn hclaim howner hphase hk,
    execEntryDelete_badLast h htxn hclaim howner hphase hk, fun hrange hlast =>
      ⟨_, _, execEntryDelete_emptied h htxn hclaim howner hphase hk hrange hlast,
        fun _ p => deleteRange_staging c _ _ p, fun hs p => deleteRange_touched hs _ _ p⟩⟩

/-! ## Reads of the owner -/

section Reads

variable {s s' : State} {req : Req} {c : Claim} (h : Handed .reu req s s') (htxn : s.reu.txn = none)
  (hclaim : s.reu.claim = some c) (howner : c.owner = req.ref.link)

include h htxn hclaim howner

theorem execEntryReadStaging_badPosition (hk : req.kind = .entryRead)
    (hpos : 511 < field16 req.body 1) :
    exec .entryReadStaging s = .next ((s'.setClaim (some c.restart)).badField .reu req 2) := by
  refine congrArg Host.Outcome.next ((gatedRequest_read h htxn hk hclaim howner).trans ?_)
  exact if_pos hpos

theorem execEntryReadStaging_empty (hk : req.kind = .entryRead) (hpos : field16 req.body 1 ≤ 511)
    (he : Table.get? c.staging (field16 req.body 1) = none) :
    exec .entryReadStaging s = .next
      ((s'.setClaim (some c.restart)).answer .reu req .notFound []) := by
  refine congrArg Host.Outcome.next ((gatedRequest_read h htxn hk hclaim howner).trans ?_)
  dsimp only
  rw [if_neg (Nat.not_lt.mpr hpos), he]

theorem execEntryReadStaging_found {e : Entry} (hk : req.kind = .entryRead)
    (hpos : field16 req.body 1 ≤ 511) (he : Table.get? c.staging (field16 req.body 1) = some e) :
    exec .entryReadStaging s = .next ((s'.setClaim (some c.restart)).answer .reu req .ok
      (e.octets ++ uBool (Table.has c.touched (field16 req.body 1)))) := by
  refine congrArg Host.Outcome.next ((gatedRequest_read h htxn hk hclaim howner).trans ?_)
  dsimp only
  rw [if_neg (Nat.not_lt.mpr hpos), he]

theorem execTableSummaryStaging_owner (hk : req.kind = .tableSummary) :
    exec .tableSummaryStaging s = .next ((s'.setClaim (some c.restart)).answer .reu req .ok
      (occupancyMap c.staging ++ u16 c.staging.length ++ u16 (tableCost c.staging))) :=
  congrArg Host.Outcome.next (gatedRequest_read h htxn hk hclaim howner)

end Reads

/-- A flag is one octet. -/
theorem uBool_eq (b : Bool) : uBool b = [if b then 1 else 0] := by cases b <;> rfl

theorem stagingIsReadAndAbandoned : Piece.StagingIsReadAndAbandoned := by
  intro s s' req c h htxn hclaim howner
  obtain ⟨rest, -, rfl⟩ := id h
  dsimp only
  rw [← restart_eq c]
  refine ⟨fun hk => ⟨execEntryReadStaging_badPosition h htxn hclaim howner hk, fun hpos =>
    ⟨execEntryReadStaging_empty h htxn hclaim howner hk hpos, fun e he => ?_⟩⟩,
    execTableSummaryStaging_owner h htxn hclaim howner,
    fun hk hphase => execEditAbandon_held h htxn hclaim howner hphase hk⟩
  rw [← uBool_eq]
  exact execEntryReadStaging_found h htxn hclaim howner hk hpos he

/-- Settles O33: past the gate each request writes, empties, reads or gives up the staging table as it
stands. -/
theorem stagingIsWrittenReadAndAbandoned : Obligations.StagingIsWrittenReadAndAbandoned :=
  ⟨entryPutWritesStaging, entryDeleteEmptiesARange, stagingIsReadAndAbandoned⟩

end Sys2Proof.EditUnit
end

section
/-! SUPPORT. TABLE CHECK, TABLE COMMIT and GAIN ADJUST (R40 to R42, R47, R48): the request, and the answer of
the Frame Engine that completes it. -/

namespace Sys2Proof.EditUnit

open Sys2Proof.Machine Sys2Proof.Laws

/-! ## Check and commit (R40 to R42) -/

section Ask

variable {s s' : State} {req : Req} {c : Claim} (h : Handed .reu req s s') (htxn : s.reu.txn = none)
  (hclaim : s.reu.claim = some c) (howner : c.owner = req.ref.link) (hphase : c.phase ≠ .pending)

include h htxn hclaim howner hphase

theorem execTableCheck_held (hk : req.kind = .tableCheck) :
    exec .tableCheck s = .next ((s'.setClaim (some { c with phase := .held 0 })).askFe
      (.snapshot req false) .snapshot) := by
  refine congrArg Host.Outcome.next ((gatedRequest_held h htxn hk hclaim howner hphase).trans ?_)
  rw [restart_held hphase]

theorem execTableCommit_held (hk : req.kind = .tableCommit) :
    exec .tableCommit s = .next (s'.askFe (.snapshot req true) .snapshot) :=
  congrArg Host.Outcome.next (gatedRequest_held h htxn hk hclaim howner hphase)

end Ask

theorem checkAndCommitAskForViews : Piece.CheckAndCommitAskForViews := by
  intro s s' req c k h htxn ⟨hclaim, howner, hheld⟩
  have hphase := phase_ne_pending hheld
  obtain ⟨rest, -, rfl⟩ := id h
  exact ⟨execTableCheck_held h htxn hclaim howner hphase,
    execTableCommit_held h htxn hclaim howner hphase⟩

/-- R26, R40 to R42: the views bring the request before the gate again; past it, a check, a commit with a
finding and a commit that passes each have one outcome. -/
theorem execSnapshotAnswer_gated {s : State} {req : Req} {commit : Bool} {views : Vector View 8}
    (htxn : s.reu.txn = some (.snapshot req commit))
    (hanswer : s.mail.feAnswer = some (.snapshot views)) :
    ∃ f : Claim → State → State,
      exec .snapshotAnswer s = .next (s.endTxn.gated req false f) ∧ ∀ c t,
        (commit = false → f c t = (t.setClaim (some c.restart)).answer .reu req .ok
          (admissionReport views c.staging)) ∧
        (commit = true → admission c.staging ≠ .pass →
          f c t = t.answer .reu req .refused (admissionReport views c.staging)) ∧
        (commit = true → admission c.staging = .pass → f c t = t.passCommit req c) := by
  change ∃ f : Claim → State → State, execSnapshotAnswer s = _ ∧ _
  unfold execSnapshotAnswer
  rw [htxn, hanswer]
  refine ⟨_, rfl, fun c t => ⟨?check, ?refused, ?passes⟩⟩
  case check =>
    rintro rfl
    rfl
  case refused =>
    rintro rfl hfinding
    dsimp only
    rw [if_pos rfl]
    split
    next hpass => exact absurd hpass hfinding
    next => rfl
  case passes =>
    rintro rfl hpass
    dsimp only
    rw [if_pos rfl, hpass]

theorem snapshotCompletesCheckOrCommit : Piece.SnapshotCompletesCheckOrCommit := by
  intro s req commit views htxn hanswer
  obtain ⟨f, hexec, houtcome⟩ := execSnapshotAnswer_gated htxn hanswer
  rw [hexec]
  refine ⟨fun hfree => ?free, fun c hclaim howner => ?owned, fun c k ⟨hclaim, howner, hheld⟩ => ?held⟩
  case free => exact congrArg Host.Outcome.next (gated_free hfree)
  case owned => exact congrArg Host.Outcome.next (gated_owned hclaim howner)
  case held =>
    have hphase := phase_ne_pending hheld
    have hgated : s.endTxn.gated req false f = f c s.endTxn :=
      gated_pass hclaim (claimGate_held howner hphase)
    obtain ⟨hcheck, hrefused, hpasses⟩ := houtcome c s.endTxn
    rw [hgated]
    refine ⟨fun hcommit => ?_, fun hcommit hfinding => ?_, fun hcommit hpass => ?_⟩
    · rw [hcheck hcommit, restart_held hphase]
      rfl
    · rw [hrefused hcommit hfinding]
      rfl
    · rw [hpasses hcommit hpass]
      rfl

/-- Settles O34: a request through the gate twice, when it is taken and when the views come. -/
theorem checkAndCommitComplete : Obligations.CheckAndCommitComplete :=
  ⟨checkAndCommitAskForViews, snapshotCompletesCheckOrCommit⟩

/-! ## Gain adjustments (R46 to R48) -/

section Gain

variable {s s' : State} {req : Req} (h : Handed .reu req s s') (htxn : s.reu.txn = none)
  (hk : req.kind = .gainAdjust)

include h htxn hk

theorem execGainAdjust_pending (howed : s.reu.pending ≠ none ∨ s.reu.owed ≠ []) :
    exec .gainAdjust s = .next (s'.answer .reu req .pending []) := by
  refine congrArg Host.Outcome.next ((reuRequest_handed h htxn hk _).trans ?_)
  dsimp only
  rw [handed_reu h, if_pos (by rwa [Option.isSome_iff_ne_none])]

variable (hpending : s.reu.pending = none) (howed : s.reu.owed = [])

include hpending howed

/-- R47: with no commit on its way the fields are judged in their order. -/
theorem execGainAdjust_checks :
    exec .gainAdjust s = .next
      (if 511 < field16 req.body 0 then s'.badField .reu req 1
      else if octAt req.body 2 = 0 ∨ 8 < octAt req.body 2 then s'.badField .reu req 2
      else if 216 < octAt req.body 3 then s'.badField .reu req 3
      else s'.askFe (.gain req (field16 req.body 0) (octAt req.body 2) (octAt req.body 3))
        (.gain (field16 req.body 0) (octAt req.body 2) (octAt req.body 3))) := by
  refine congrArg Host.Outcome.next ((reuRequest_handed h htxn hk _).trans ?_)
  dsimp only
  rw [handed_reu h, if_neg (by simp [hpending, howed])]

end Gain

theorem gainAdjustIsChecked : Piece.GainAdjustIsChecked := by
  refine fun s s' req h htxn hk => ⟨execGainAdjust_pending h htxn hk, fun hpending howed => ?_⟩
  rw [execGainAdjust_checks h htxn hk hpending howed]
  refine ⟨fun hpos => ?_, fun hpos hterm => ?_, fun hpos hlow hhigh hcode => ?_,
    fun hpos hlow hhigh hcode => ?_⟩
  · rw [if_pos hpos]
  · rw [if_neg (by omega), if_pos hterm]
  · rw [if_neg (by omega), if_neg (by omega), if_pos hcode]
  · rw [if_neg (by omega), if_neg (by omega), if_neg (by omega)]
    obtain ⟨rest, -, rfl⟩ := h
    rfl

/-- R48: only a MIX entry with enough terms has the term. -/
theorem setGain_missing {o : Option Entry} {term code : Nat}
    (h : ∀ d ts, o = some (.mix d ts) → ts.length < term) :
    (o.bind fun e => e.setGain term code) = none := by
  match o with
  | none => rfl
  | some (.span _) => rfl
  | some (.mix d ts) => exact if_pos (h d ts rfl)

/-- R48: staging that was touched at the position, or has no such term there, differs. -/
theorem reconcile_differs {c : Claim} {pos term code : Nat}
    (h : Table.has c.touched pos = true ∨
      ∀ d ts, Table.get? c.staging pos = some (.mix d ts) → ts.length < term) :
    reconcile (some c) pos term code = (some c, 2) := by
  unfold reconcile
  dsimp only
  rcases h with htouched | hmissing
  · rw [if_pos htouched]
  · rw [setGain_missing hmissing]
    split <;> rfl

theorem reconcile_writes {c : Claim} {pos term : Nat} {d : Dest} {ts : List Term} (code : Nat)
    (htouched : Table.has c.touched pos = false) (he : Table.get? c.staging pos = some (.mix d ts))
    (hlen : term ≤ ts.length) :
    reconcile (some c) pos term code =
      (some { c with
        staging := Table.put c.staging pos
          (.mix d (ts.modify (term - 1) fun t => { t with gain := code })) }, 1) := by
  simp only [reconcile, htouched, he, Option.bind_some, Entry.setGain, Nat.not_lt.mpr hlen,
    Bool.false_eq_true, if_false]

/-- R48: of the terms of an entry the one adjusted changes its gain code. -/
theorem getElem?_regained {ts : List Term} {term code i : Nat} {x : Term} (hterm : 1 ≤ term)
    (hx : ts[i]? = some x) :
    (ts.modify (term - 1) fun t => { t with gain := code })[i]? =
      some (if i + 1 = term then { x with gain := code } else x) := by
  have hi : term - 1 = i ↔ i + 1 = term := by omega
  rw [List.getElem?_modify, hx]
  simp only [hi]
  rfl

theorem setClaim_same {s : State} {claim : Option Claim} (h : s.reu.claim = claim) :
    s.setClaim claim = s := by
  subst h
  rfl

section GainAnswer

variable {s : State} {req : Req} {pos term code : Nat}

theorem execGainAdjustAnswer_missing (htxn : s.reu.txn = some (.gain req pos term code))
    (hanswer : s.mail.feAnswer = some (.gain false)) :
    exec .gainAdjustAnswer s = .next (s.endTxn.answer .reu req .notFound []) := by
  change execGainAdjustAnswer s = _
  simp only [execGainAdjustAnswer, htxn, hanswer, Bool.false_eq_true, if_false]

/-- R48: the answer that the term was found reconciles staging and says how. -/
theorem execGainAdjustAnswer_found {claim claim' : Option Claim} {flag : Nat}
    (htxn : s.reu.txn = some (.gain req pos term code))
    (hanswer : s.mail.feAnswer = some (.gain true)) (hclaim : s.reu.claim = claim)
    (hreconcile : reconcile claim pos term code = (claim', flag)) :
    exec .gainAdjustAnswer s = .next
      ((s.endTxn.setClaim claim').answer .reu req .ok [BitVec.ofNat 8 flag]) := by
  have hend : s.endTxn.reu.claim = claim := hclaim
  change execGainAdjustAnswer s = _
  simp only [execGainAdjustAnswer, htxn, hanswer, if_true, hend, hreconcile, u8]

end GainAnswer

theorem gainAdjustReconcilesStaging : Piece.GainAdjustReconcilesStaging := by
  intro s req pos term code found htxn hanswer hterm
  refine ⟨?missing, ?free, fun c hfound hclaim => ⟨fun hdiffers => ?differs,
    fun d ts htouched he hlen => ?writes⟩⟩
  case missing =>
    rintro rfl
    exact execGainAdjustAnswer_missing htxn hanswer
  case free =>
    rintro rfl hfree
    rw [execGainAdjustAnswer_found htxn hanswer hfree rfl, setClaim_same (s := s.endTxn) hfree]
    rfl
  case differs =>
    subst hfound
    rw [execGainAdjustAnswer_found htxn hanswer hclaim (reconcile_differs hdiffers),
      setClaim_same (s := s.endTxn) hclaim]
    rfl
  case writes =>
    subst hfound
    exact ⟨_, List.length_modify .., fun i x hx => getElem?_regained hterm hx,
      execGainAdjustAnswer_found htxn hanswer hclaim (reconcile_writes code htouched he hlen)⟩

/-- Settles O36: the checks stand in the order of the fields, and reconciliation is a function of the claim
that keeps its phase. -/
theorem gainAdjustIsCheckedAndReconciled : Obligations.GainAdjustIsCheckedAndReconciled :=
  ⟨gainAdjustIsChecked, gainAdjustReconcilesStaging⟩

end Sys2Proof.EditUnit
end

section
/-! SUPPORT. How a claim ends other than by its owner (R33, R35, R44 to R46, R49): the fate of its table, the
hold timer, the loss of a link, and the resets of the Frame Engine and the Route Edit Unit. -/

namespace Sys2Proof.EditUnit

open Sys2Proof.Machine Sys2Proof.Laws

/-! ## The fate of a table (R44 to R46) -/

section Fates

variable {s : State} {f : Fate}

/-- R44 to R46: the answer of a COMMIT is one result, or none when it is lost. -/
theorem answerCommit_eq (s : State) (r : CommitRecord) (adopted : Option (BitVec 32)) :
    s.answerCommit r adopted = { s with mail := { s.mail with
      results := s.mail.results ++ if r.lost then [] else [(.reu, commitResult r adopted)] } } := by
  unfold State.answerCommit
  split
  · simp only [List.append_nil]
  · cases adopted <;> rfl

theorem takeFate_owed {r : CommitRecord} {others : List CommitRecord}
    (h : Oldest (fun x => x.number == f.number) s.reu.owed r others) :
    s.takeFate f =
      ({ s with reu := { s.reu with owed := others } } : State).answerCommit r f.adopted := by
  simp only [State.takeFate, takeFirst_eq_some.mpr h]

theorem takeFirst_owed_none (h : ∀ r ∈ s.reu.owed, r.number ≠ f.number) :
    takeFirst (fun r => r.number == f.number) s.reu.owed = none :=
  takeFirst_eq_none.mpr fun r hr => beq_eq_false_iff_ne.mpr (h r hr)

theorem takeFate_pending {r : CommitRecord} (howed : ∀ r ∈ s.reu.owed, r.number ≠ f.number)
    (hr : s.reu.pending = some r) (hnumber : r.number = f.number) :
    s.takeFate f =
      ({ s with reu := { s.reu with claim := none, pending := none } } : State).answerCommit r
        f.adopted := by
  simp only [State.takeFate, takeFirst_owed_none howed, hr, hnumber, if_true]

theorem takeFate_none (howed : ∀ r ∈ s.reu.owed, r.number ≠ f.number)
    (hpending : ∀ r, s.reu.pending = some r → r.number ≠ f.number) : s.takeFate f = s := by
  unfold State.takeFate
  rw [takeFirst_owed_none howed]
  dsimp only
  split
  next r hr => exact if_neg (hpending r hr)
  next => rfl

/-- R44, R46: either notice takes the oldest fate when it is of its sort. -/
theorem fateNotice_taken {c : Instr} {rest : List Fate} (hfates : s.mail.fates = f :: rest)
    (hsort : (c = .adoptionNotice ∧ f.adopted ≠ none) ∨ (c = .discardNotice ∧ f.adopted = none)) :
    exec c s = .next ((s.onMail fun m => { m with fates := rest }).takeFate f) := by
  rcases hsort with ⟨rfl, hadopted⟩ | ⟨rfl, hdiscarded⟩
  · change Host.Outcome.next (s.withFate true) = _
    unfold State.withFate
    rw [hfates]
    dsimp only
    rw [if_pos (Option.isSome_iff_ne_none.mpr hadopted)]
  · change Host.Outcome.next (s.withFate false) = _
    unfold State.withFate
    rw [hfates]
    dsimp only
    rw [if_pos (by rw [hdiscarded]; rfl)]

end Fates

/-- Settles O37: the record the notice names is an owed one, the pending one, or none. -/
theorem fateOfATableIsTaken : Obligations.FateOfATableIsTaken := by
  intro s c f rest hfates hsort
  rw [fateNotice_taken hfates hsort]
  refine ⟨fun r others howed => ?owed, fun howed =>
    ⟨fun r hr hnumber => ?pending, fun hnone => ?none⟩⟩
  case owed =>
    rw [takeFate_owed (s := s.onMail _) howed, answerCommit_eq]
    rfl
  case pending =>
    rw [takeFate_pending (s := s.onMail _) howed hr hnumber, answerCommit_eq]
    rfl
  case none =>
    rw [takeFate_none (s := s.onMail _) howed hnone]
    rfl

/-! ## The hold timer and the loss of a link (R33, R35) -/

section Lapse

variable {s : State} {c : Claim} {l : Link}

theorem execHoldTimerExpiry_lapses {k : Nat} (hclaim : s.reu.claim = some c)
    (hheld : c.phase = .held k) (hdue : c.holdTime * 4000 ≤ k) :
    exec .holdTimerExpiry s =
      .next ((s.setClaim none).report .reu .claimLapsed c.owner.val 0) := by
  change execHoldTimerExpiry s = _
  simp only [execHoldTimerExpiry, hclaim, hheld]
  exact if_pos hdue

theorem ownerLost_other (h : ∀ c, s.reu.claim = some c → c.owner ≠ l) : s.ownerLost l = s := by
  unfold State.ownerLost
  split
  next c hc => exact if_neg (h c hc)
  next => rfl

theorem ownerLost_held (hclaim : s.reu.claim = some c) (howner : c.owner = l)
    (hphase : c.phase ≠ .pending) :
    s.ownerLost l = (s.setClaim none).report .reu .claimLapsed l.val 1 := by
  simp only [State.ownerLost, hclaim, howner, if_true]
  split
  · rfl
  next hp => exact absurd hp hphase

theorem ownerLost_pending (hclaim : s.reu.claim = some c) (howner : c.owner = l)
    (hphase : c.phase = .pending) :
    s.ownerLost l = { s with
      reu := { s.reu with pending := s.reu.pending.map fun r => { r with lost := true } } } := by
  simp only [State.ownerLost, hclaim, howner, hphase, if_true]

/-- R35: beside the claim, the pending record and the report, a loss changes nothing here. -/
theorem ownerLost_frame (s : State) (l : Link) :
    (s.ownerLost l).reu = { s.reu with
      claim := (s.ownerLost l).reu.claim, pending := (s.ownerLost l).reu.pending } ∧
    (s.ownerLost l).mail = { s.mail with reports := (s.ownerLost l).mail.reports } := by
  unfold State.ownerLost
  split
  · split
    · split <;> exact ⟨rfl, rfl⟩
    · exact ⟨rfl, rfl⟩
  · exact ⟨rfl, rfl⟩

/-- R26: the state in which the notice has been taken and a copy of the lost link is dropped. -/
def lossTaken (s : State) (l : Link) : State :=
  { s with
    reu := { s.reu with txn := s.reu.txn.map (Txn.dropCopy fun r => r.ref.link == l) }
    mail := { s.mail with lossNotices := updAt s.mail.lossNotices l (· - 1) } }

theorem execLinkLossNotice_taken (h : 0 < s.mail.lossNotices[l]) :
    exec (.linkLossNotice l) s = .next ((lossTaken s l).ownerLost l) := by
  change execLinkLossNotice l s = _
  unfold execLinkLossNotice
  rw [if_pos h]
  rfl

end Lapse

/-- Settles O38: the claim's end at its hold time, and the three cases of a loss: of another link, of a HELD
claim's owner, of a PENDING one's. -/
theorem claimLapses : Obligations.ClaimLapses := by
  refine fun s => ⟨fun c k hclaim hheld hdue => execHoldTimerExpiry_lapses hclaim hheld hdue,
    fun l hnotice => ⟨_, execLinkLossNotice_taken hnotice, ?_⟩⟩
  obtain ⟨hreu, hmail⟩ := ownerLost_frame (lossTaken s l) l
  have htxn : ((lossTaken s l).ownerLost l).reu.txn = (lossTaken s l).reu.txn := by rw [hreu]
  refine ⟨by rw [hreu]; rfl, by rw [hmail]; rfl, fun req hold d hcopy => ?copy, fun hother => ?other,
    fun c hclaim howner => ⟨fun hphase => ?held, fun hphase => ?pending⟩⟩
  case copy =>
    rw [htxn, lossTaken, hcopy]
    rfl
  case other =>
    rw [ownerLost_other (s := lossTaken s l) hother]
    exact ⟨rfl, rfl, rfl⟩
  case held =>
    rw [ownerLost_held (s := lossTaken s l) hclaim howner hphase]
    exact ⟨rfl, rfl, rfl⟩
  case pending =>
    rw [ownerLost_pending (s := lossTaken s l) hclaim howner hphase]
    exact ⟨hclaim, rfl, rfl⟩

/-! ## Resets (R46, R49, R51, R71) -/

section Resets

variable {s s' : State} {o : ResetOrder}

/-- R177: a reset that asks for it is acknowledged once it is carried out. -/
theorem withReset_acknowledged {b : Block} (hb : o.block = b) (hack : o.ack = true)
    (h : HandedReset o s s') (f : ResetOrder → State → State) :
    s.withReset b f = (f o s').ackReset b := by
  subst hb
  rw [withReset_handed h, if_pos hack]

theorem execFeReset_routing (hb : o.block = .fe) (hack : o.ack = true) (h : HandedReset o s s')
    (hscope : o.scope = .routing) :
    exec .feReset s = .next (s'.emptyEngine.ackReset .fe) := by
  refine congrArg Host.Outcome.next ((withReset_acknowledged hb hack h _).trans ?_)
  simp only [hscope]

/-- R66: RESET DEVICE also sets the frame counter and says so. -/
theorem execFeReset_device (hb : o.block = .fe) (hack : o.ack = true) (h : HandedReset o s s')
    (hscope : o.scope = .device) :
    exec .feReset s = .next ((State.counterNotice
      { s'.emptyEngine with fe := { s'.emptyEngine.fe with counter := 0 } } 0).ackReset .fe) := by
  refine congrArg Host.Outcome.next ((withReset_acknowledged hb hack h _).trans ?_)
  simp only [hscope]

theorem execReuReset_taken (hb : o.block = .reu) (hack : o.ack = true) (h : HandedReset o s s') :
    exec .reuReset s = .next { s with
      reu :=
        { s.reu with
          claim := none, pending := none, owed := s.reu.owed ++ s.reu.pending.toList
          txn := s.reu.txn.map (Txn.dropCopy fun _ => true) }
      mail := { s'.mail with acks := s.mail.acks ++ [.reu] } } := by
  refine congrArg Host.Outcome.next ((withReset_acknowledged hb hack h _).trans ?_)
  obtain ⟨rest, -, rfl⟩ := h
  rfl

end Resets

theorem frameEngineReset : Piece.FrameEngineReset := by
  intro s s' o hb hack h
  obtain ⟨notices, hempty, hnotices⟩ := emptyEngine_eq s'
  have hused (l : Link) : (Vector.replicate 8 false)[l] = false := by simp
  cases hscope : o.scope with
  | routing =>
    refine ⟨_, execFeReset_routing hb hack h hscope, ?_⟩
    rw [hempty]
    obtain ⟨rest, -, rfl⟩ := h
    exact ⟨rfl, rfl, rfl, rfl, rfl, fun l => ⟨hused l, hnotices l⟩, rfl, rfl, rfl,
      fun _ => ⟨rfl, rfl⟩, nofun⟩
  | device =>
    refine ⟨_, execFeReset_device hb hack h hscope, ?_⟩
    rw [hempty]
    obtain ⟨rest, -, rfl⟩ := h
    exact ⟨rfl, rfl, rfl, rfl, rfl, fun l => ⟨hused l, hnotices l⟩, rfl, rfl, rfl, nofun,
      fun _ => ⟨rfl, rfl⟩⟩

/-- R26: a transaction that is no copy is not dropped. -/
theorem map_dropCopy_other {txn : Option Txn} (p : Req → Bool)
    (h : ∀ req hold d, txn ≠ some (.copy req hold d)) : txn.map (Txn.dropCopy p) = txn := by
  match txn with
  | none => rfl
  | some (.copy req hold d) => exact absurd rfl (h req hold d)
  | some (.snapshot _ _) => rfl
  | some (.gain _ _ _ _) => rfl

theorem routeEditReset : Piece.RouteEditReset := by
  refine fun s s' o hb hack h => ⟨_, execReuReset_taken hb hack h, fun req hold d hcopy => ?_,
    map_dropCopy_other _⟩
  rw [hcopy, Option.map_some, Txn.dropCopy, Bool.or_true]

/-- Settles O39: each block's reset has one outcome per scope, acknowledged at the end. -/
theorem routingBlocksReset : Obligations.RoutingBlocksReset :=
  ⟨frameEngineReset, routeEditReset⟩

end Sys2Proof.EditUnit
end

section
/-! SUPPORT. Rest (R118 to R125): when a link may rest, what a use notice that changes the flag does in each
state, and the three moves between UP, REST and WAKE. -/

namespace Sys2Proof.LinkRest

open Sys2Proof.Machine Sys2Proof.Laws

/-! ## The rest hold timer (R118, R119) -/

theorem restEligible_iff (p : LP) :
    p.restEligible = true ↔ p.state = .up ∧ p.rest.used = false ∧ mayRest p := by
  unfold LP.restEligible mayRest
  cases p.partner with
  | none => simp
  | some r => simp [and_assoc]

theorem startRestHold_restHold (p : LP) :
    p.startRestHold.timers.restHold = if p.restEligible then some 0 else none := rfl

/-- R119: the timer runs from zero exactly on a link that is rest-eligible. -/
theorem startRestHold_restHold_iff (p : LP) :
    p.startRestHold.timers.restHold = some 0 ↔ p.restEligible = true := by
  rw [startRestHold_restHold]
  split
  next h => simp [h]
  next h => simp [h]

/-- R119: the own RST flag is set where the timer has run its time. -/
theorem execRestHoldTimerExpiry_due {s : State} {l : Link} {k : Nat} (hsettled : LP.Settled s.lp[l])
    (hup : LP.state s.lp[l] = .up) (hrunning : (LP.timers s.lp[l]).restHold = some k)
    (hdue : (LP.cfg s.lp[l]).restHold * 4 ≤ k) :
    exec (.restHoldTimerExpiry l) s = .next (s.onLp l fun p =>
      { p with
        rest := { p.rest with ownRst := true, setRun := 0 }
        timers := { p.timers with restHold := none } }) := by
  change execRestHoldTimerExpiry l s = _
  unfold execRestHoldTimerExpiry
  rw [settleLink_settled hsettled]
  dsimp only
  split
  next t _ htime =>
    obtain rfl := Option.some.inj (htime.symm.trans hrunning)
    exact if_pos hdue
  next h => exact absurd hrunning (h k hup)

/-! ## Moves among the running states (R10, R121, R124, R125) -/

/-- R10: a link moves into or among the running states. -/
theorem moveLink_running {s : State} {l : Link} {new : LinkState} (h : LP.state s.lp[l] ≠ new)
    (hn : new.running = true) :
    s.moveLink l new = linkState s l (fun p => p.enter new s.mgu.label s.unit)
      { s.mail with
        stateNotices := updAt s.mail.stateNotices l (· ++ [new])
        viewNotices :=
          updAt s.mail.viewNotices l (· ++ [⟨new.viewClass, LP.slotCount s.lp[l]⟩]) } :=
  (moveLink_plain (.inr (.inl hn))).trans (moveCore_into h hn)

/-- R125: a link that returns from WAKE keeps its rest flags and its messages. -/
theorem enter_up_of_wake {p : LP} (h : p.state = .wake) (label : List Byte) (unit : BitVec 4) :
    p.enter .up label unit =
      LP.startRestHold { p with state := .up, timers := { p.timers with wake := none } } := by
  simp only [LP.enter, h]

/-- R121: the sixteenth frame of a set run takes the link to REST. -/
theorem execRestEntered_due {s : State} {l : Link} (hup : LP.state s.lp[l] = .up)
    (hown : (LP.rest s.lp[l]).ownRst = true) (hrun : 16 ≤ (LP.rest s.lp[l]).setRun) :
    exec (.restEntered l) s = .next (linkState s l (fun p => p.enter .rest s.mgu.label s.unit)
      { s.mail with
        stateNotices := updAt s.mail.stateNotices l (· ++ [.rest])
        viewNotices := updAt s.mail.viewNotices l (· ++ [⟨.rest, LP.slotCount s.lp[l]⟩])
        reports := s.mail.reports ++
          [(.lp l, ⟨.restEntered, l.val, LP.slotCount s.lp[l], none⟩)] }) := by
  have hmove := moveLink_running (s := s) (l := l) (new := .rest) (by rw [hup]; decide) rfl
  refine congrArg Host.Outcome.next ((if_pos ⟨hup, hown, hrun⟩).trans ?_)
  rw [hmove]
  rfl

/-- R125: the sixteenth frame of a clear run takes the link from WAKE to UP. -/
theorem execClearRunComplete_due {s : State} {l : Link} (hwake : LP.state s.lp[l] = .wake)
    (hrun : 16 ≤ (LP.rest s.lp[l]).clearRun) :
    exec (.clearRunComplete l) s = .next (linkState s l (fun p => p.enter .up s.mgu.label s.unit)
      { s.mail with
        stateNotices := updAt s.mail.stateNotices l (· ++ [.up])
        viewNotices := updAt s.mail.viewNotices l (· ++ [⟨.up, LP.slotCount s.lp[l]⟩]) }) :=
  congrArg Host.Outcome.next ((if_pos ⟨hwake, hrun⟩).trans
    (moveLink_running (by rw [hwake]; decide) rfl))

theorem restAndWakeMoves : Piece.RestAndWakeMoves := by
  refine fun l s => ⟨fun k => execRestHoldTimerExpiry_due, fun hup hown hrun =>
    ⟨_, execRestEntered_due hup hown hrun, linkState_onlyLink _ _ _ _, ?_⟩, fun hwake hrun =>
    ⟨_, execClearRunComplete_due hwake hrun, linkState_onlyLink _ _ _ _, ?_⟩⟩
  · rw [linkState_lp]
    exact ⟨rfl, hown, rfl, rfl, rfl⟩
  · rw [linkState_lp, enter_up_of_wake hwake]
    refine ⟨rfl, rfl, rfl, rfl, rfl, (startRestHold_restHold_iff _).trans ?_, rfl⟩
    rw [restEligible_iff]
    exact and_iff_right rfl

/-! ## Use notices (R67, R119, R122, R124) -/

section UseNotices

variable {s : State} {l : Link} {used : Bool}

theorem onLp_get (s : State) (l : Link) (f : LP → LP) : (s.onLp l f).lp[l] = f s.lp[l] :=
  updAt_same _ _ _

theorem onLp_onLp (s : State) (l : Link) (f g : LP → LP) :
    (s.onLp l f).onLp l g = s.onLp l fun p => g (f p) := by
  simp only [State.onLp, updAt_updAt]

theorem onLp_congr {f g : LP → LP} (h : f s.lp[l] = g s.lp[l]) : s.onLp l f = s.onLp l g := by
  simp only [State.onLp, updAt_congr h]

theorem state_onLp_used (s : State) (l : Link) (used : Bool) :
    (s.onLp l fun p => { p with rest := { p.rest with used := used } }).lp[l].state =
      LP.state s.lp[l] := by
  rw [onLp_get]

/-- R67: a use notice is taken, and acts where it changes the flag. -/
theorem execUseNotice_taken {rest : List Bool} (hnotice : s.mail.useNotices[l] = used :: rest)
    (hsettled : LP.Settled s.lp[l]) :
    exec (.useNotice l) s = .next
      (if (LP.rest s.lp[l]).used = used then
        s.onMail fun m => { m with useNotices := updAt m.useNotices l fun _ => rest }
      else
        (s.onMail fun m => { m with useNotices := updAt m.useNotices l fun _ => rest }).useChanged l
          used) := by
  change execUseNotice l s = _
  simp only [execUseNotice, settleLink_settled hsettled, hnotice]
  exact (apply_ite Host.Outcome.next _ _ _).symm

/-- R67: the flag is only held where the link is not in UP, and not in REST when it is set. -/
theorem useChanged_held (hup : LP.state s.lp[l] ≠ .up)
    (hrest : used = true → LP.state s.lp[l] ≠ .rest) :
    s.useChanged l used = s.onLp l fun p => { p with rest := { p.rest with used := used } } := by
  unfold State.useChanged
  dsimp only
  rw [state_onLp_used]
  split
  next h => exact absurd h hup
  next h => exact if_neg fun hused => hrest hused h
  all_goals rfl

/-- R119: a notice that sets the flag in UP stops the timer and clears the own RST flag, and with it the
set run. -/
theorem useChanged_up_set (hup : LP.state s.lp[l] = .up) :
    s.useChanged l true = s.onLp l fun p =>
      { p with
        timers := { p.timers with restHold := none }
        rest := { p.rest with
          used := true, ownRst := false
          setRun := if p.rest.ownRst then 0 else p.rest.setRun } } := by
  unfold State.useChanged
  dsimp only
  rw [state_onLp_used, hup]
  refine (onLp_onLp s l _ _).trans (onLp_congr ?_)
  generalize s.lp[l] = p
  cases p.rest.ownRst with
  | true => rfl
  | false => rfl

/-- R119: a notice that clears the flag in UP starts the timer where the link is rest-eligible. -/
theorem useChanged_up_clear (hup : LP.state s.lp[l] = .up) :
    s.useChanged l false = s.onLp l fun p =>
      LP.startRestHold { p with rest := { p.rest with used := false } } := by
  unfold State.useChanged
  dsimp only
  rw [state_onLp_used, hup]
  exact onLp_onLp s l _ _

/-- R122: a notice that sets the flag in REST wakes the link. -/
theorem useChanged_rest_set (hrest : LP.state s.lp[l] = .rest) :
    s.useChanged l true = linkState s l
      (fun p => LP.enter { p with rest := { p.rest with used := true } } .wake s.mgu.label s.unit)
      { s.mail with
        stateNotices := updAt s.mail.stateNotices l (· ++ [.wake])
        viewNotices := updAt s.mail.viewNotices l (· ++ [⟨.wake, LP.slotCount s.lp[l]⟩]) } := by
  unfold State.useChanged
  dsimp only
  rw [state_onLp_used, hrest]
  refine linkState_into (M := s.mail) (new := .wake) ?_ rfl
  rw [hrest]
  decide

theorem useNoticeActs : Piece.UseNoticeActs := by
  intro l s used rest hnotice hsettled
  have changed (h : (LP.rest s.lp[l]).used ≠ used) :=
    (execUseNotice_taken hnotice hsettled).trans (congrArg Host.Outcome.next (if_neg h))
  refine ⟨fun hsame => ?same, fun hused hclear hup => ?set, fun hused hclear hrest => ?wake,
    fun hused hset hup => ?clear, fun hdiff hup hrest => ?held⟩
  case same =>
    exact (execUseNotice_taken hnotice hsettled).trans (congrArg Host.Outcome.next (if_pos hsame))
  case set =>
    subst hused
    rw [changed (by rw [hclear]; decide), useChanged_up_set (s := s.onMail _) hup]
  case wake =>
    subst hused
    rw [changed (by rw [hclear]; decide), useChanged_rest_set (s := s.onMail _) hrest]
    refine ⟨_, rfl, (OnlyLink.onMail l s _).trans (linkState_onlyLink _ _ _ _), ?_⟩
    rw [linkState_lp]
    exact ⟨rfl, rfl, rfl, rfl, rfl⟩
  case clear =>
    subst hused
    rw [changed (by rw [hset]; decide), useChanged_up_clear (s := s.onMail _) hup]
    have heligible := restEligible_iff { s.lp[l] with rest := { LP.rest s.lp[l] with used := false } }
    exact ⟨_, congrArg Host.Outcome.next (onLp_congr rfl),
      fun hmay => if_pos (heligible.mpr ⟨hup, rfl, hmay⟩),
      fun hmay => if_neg fun h =>
        have ⟨_, _, hrests⟩ := heligible.mp h
        hmay hrests⟩
  case held =>
    rw [changed hdiff, useChanged_held (s := s.onMail _) hup hrest]

end UseNotices

/-- Settles O22: each event's guard gives one change of the Link Port, or one move among the running
states, where nothing is due before it. -/
theorem restingAndWaking : Obligations.RestingAndWaking := ⟨restAndWakeMoves, useNoticeActs⟩

end Sys2Proof.LinkRest
end

section
/-! SUPPORT. What a RUNNING recorder does with one input word (R157), by where its region ends and by its
mode. -/

namespace Sys2Proof.Recorders

open Sys2Proof.Machine Sys2Proof.Laws

/-! ## The write position (R157) -/

section Advance

variable {x : Recorder} {start len : Nat}

theorem advance_within (hregion : x.region = some (start, len)) (hpos : x.pos + 1 < start + len) :
    x.advance = { x with pos := x.pos + 1 } := by
  simp only [Recorder.advance, hregion, hpos, if_true]

theorem advance_ring (hregion : x.region = some (start, len)) (hpos : start + len ≤ x.pos + 1)
    (hmode : x.once = false) : x.advance = { x with pos := start, wrapped := true } := by
  simp only [Recorder.advance, hregion, Nat.not_lt.mpr hpos, hmode, Bool.false_eq_true, if_false]

theorem advance_once (hregion : x.region = some (start, len)) (hpos : start + len ≤ x.pos + 1)
    (hmode : x.once = true) :
    x.advance = { x with state := .full, pos := start, wrapped := true } := by
  simp only [Recorder.advance, hregion, Nat.not_lt.mpr hpos, hmode, if_true, if_false]

end Advance

/-! ## One sample (R131, R138, R157) -/

section Record

variable {s : State} {r : Rec} {f : Recorder → Recorder} (w : Sample)

theorem onRecorder_get (s : State) (r : Rec) (f : Recorder → Recorder) :
    (s.onRecorder r f).rcu.recorders[r] = f s.rcu.recorders[r] := updAt_same _ _ _

theorem onRecorder_congr {g : Recorder → Recorder}
    (h : f s.rcu.recorders[r] = g s.rcu.recorders[r]) : s.onRecorder r f = s.onRecorder r g := by
  simp only [State.onRecorder, updAt_congr h]

/-- R157: a recorder that is not FULL after the word has only advanced. -/
theorem record_goesOn (hadvance : Recorder.advance s.rcu.recorders[r] = f s.rcu.recorders[r])
    (hgoes : (f s.rcu.recorders[r]).state ≠ .full) :
    s.record r w =
      (s.toSstFromRcu [.write (Recorder.pos s.rcu.recorders[r]) w]).onRecorder r f := by
  unfold State.record
  dsimp only
  rw [onRecorder_get, onRecorder_congr (s := s.toSstFromRcu _) hadvance]
  exact if_neg (hadvance ▸ hgoes)

/-- R138, R157: a recorder that is FULL after the word says so to the Sample Store and in an event. -/
theorem record_fills (hadvance : Recorder.advance s.rcu.recorders[r] = f s.rcu.recorders[r])
    (hfull : (f s.rcu.recorders[r]).state = .full) :
    s.record r w =
      ((((s.toSstFromRcu [.write (Recorder.pos s.rcu.recorders[r]) w]).onRecorder r f).toSstFromRcu
        [.running r false]).report .rcu .recorderFull r.val 0) := by
  unfold State.record
  dsimp only
  rw [onRecorder_get, onRecorder_congr (s := s.toSstFromRcu _) hadvance]
  exact if_pos (hadvance ▸ hfull)

end Record

/-- R63, R157: the oldest word is taken, and recorded by a RUNNING recorder. -/
theorem execRecorderInputWord_taken {s : State} {r : Rec} {w : Slot} {rest : List Slot}
    (hwords : s.mail.inputWords[r] = w :: rest) :
    exec (.recorderInputWord r) s = .next
      (if Recorder.state s.rcu.recorders[r] = .running then
        (s.onMail fun m => { m with inputWords := updAt m.inputWords r fun _ => rest }).record r w.sample
      else s.onMail fun m => { m with inputWords := updAt m.inputWords r fun _ => rest }) := by
  change execRecorderInputWord r s = _
  simp only [execRecorderInputWord, hwords]
  exact (apply_ite Host.Outcome.next _ _ _).symm

/-- Settles O48: the word is taken in any case; a RUNNING recorder's is written, and the advance is one of
three, of which only the last makes the recorder FULL. -/
theorem recorderTakesItsWord : Obligations.RecorderTakesItsWord := by
  intro s r w rest hwords
  refine ⟨fun hidle => ?ignored, fun start len hrunning hregion => ?recorded⟩
  case ignored =>
    exact (execRecorderInputWord_taken hwords).trans (congrArg Host.Outcome.next (if_neg hidle))
  case recorded =>
    have hgoes : Recorder.state s.rcu.recorders[r] ≠ .full := by
      rw [hrunning]
      decide
    rw [execRecorderInputWord_taken hwords, if_pos hrunning]
    refine ⟨fun hpos => ?within, fun hpos hmode => ?ring, fun hpos hmode => ?once⟩
    case within =>
      rw [record_goesOn (s := s.onMail _) (f := fun y =>
        { y with pos := Recorder.pos s.rcu.recorders[r] + 1 }) _ (advance_within hregion hpos)
        hgoes]
      rfl
    case ring =>
      rw [record_goesOn (s := s.onMail _) (f := fun y => { y with pos := start, wrapped := true }) _
        (advance_ring hregion hpos hmode) hgoes]
      rfl
    case once =>
      rw [record_fills (s := s.onMail _) (f := fun y =>
        { y with state := .full, pos := start, wrapped := true }) _
        (advance_once hregion hpos hmode) rfl]
      simp only [State.report, State.toSstFromRcu, State.onRecorder, State.onMail, List.append_assoc,
        List.cons_append, List.nil_append]

end Sys2Proof.Recorders
end

section
/-! SUPPORT. Indicator lines (R188 to R191): what INDICATOR SET writes, how a pulse starts and ends, when a
generator changes phase, and the pattern a line shows. -/

namespace Sys2Proof.Indicators

open Sys2Proof.Machine Sys2Proof.Laws

/-! ## INDICATOR SET (R191) -/

section Setting

variable {s s' : State} {req : Req}

/-- R191: INDICATOR SET is taken where no counter query is outstanding. -/
theorem execIndicatorSet_taken (h : Handed .evu req s s') (hquery : s.evu.query = none)
    (hk : req.kind = .indicatorSet) :
    exec .indicatorSet s = .next
      (if 3 < octAt req.body 0 then s'.badField .evu req 1
      else if 7 < octAt req.body 1 then s'.badField .evu req 2
      else if 15 < octAt req.body 2 then s'.badField .evu req 3
      else
        (s'.onEvu fun e =>
          { e with
            lines := updAt e.lines (Fin.ofNat 4 (octAt req.body 0)) fun n =>
              n.set (linkOf (octAt req.body 1)) (octAt req.body 2) }).answer .evu req .ok
          (u8 (octAt req.body 0) ++ u8 (octAt req.body 1) ++ u8 (octAt req.body 2))) :=
  congrArg Host.Outcome.next (evuRequest_handed h hquery hk _)

end Setting

theorem linkOf_val (l : Link) : linkOf l.val = l := Fin.ofNat_val_eq_self l

theorem toNat_beq_one (b : Bool) : (b.toNat == 1) = b := by cases b <;> rfl

section Enables

variable (pulse fast slow steady : Bool)

/-- R191: the octet of the four enables, the pulse's highest. -/
def enables : Nat := 8 * pulse.toNat + 4 * fast.toNat + 2 * slow.toNat + steady.toNat

/-- The octet of four enables gives each of them back. -/
theorem enables_bits :
    enables pulse fast slow steady / 8 % 2 = pulse.toNat ∧
    enables pulse fast slow steady / 4 % 2 = fast.toNat ∧
    enables pulse fast slow steady / 2 % 2 = slow.toNat ∧
    enables pulse fast slow steady % 2 = steady.toNat ∧ enables pulse fast slow steady ≤ 15 := by
  unfold enables
  have := pulse.toNat_le
  have := fast.toNat_le
  have := slow.toNat_le
  have := steady.toNat_le
  omega

theorem set_enables (x : IndLine) (l : Link) :
    x.set l (enables pulse fast slow steady) =
      ⟨l, pulse, fast, slow, steady, if x.sel = l then x.pulseTimer else none⟩ := by
  obtain ⟨hpulse, hfast, hslow, hsteady, -⟩ := enables_bits pulse fast slow steady
  simp only [IndLine.set, hpulse, hfast, hslow, hsteady, toNat_beq_one]

theorem enables_le : enables pulse fast slow steady ≤ 15 := by
  obtain ⟨-, -, -, -, hle⟩ := enables_bits pulse fast slow steady
  exact hle

end Enables

theorem indicatorsAreSet : Piece.IndicatorsAreSet := by
  intro s s' req h hquery hk
  rw [execIndicatorSet_taken h hquery hk]
  refine ⟨fun hline => ?line, fun hline hsel => ?sel, fun hline hsel hflags => ?flags,
    fun n l pulse fast slow steady hn hl hflags => ?written⟩
  case line => rw [if_pos hline]
  case sel => rw [if_neg (Nat.not_lt.mpr hline), if_pos hsel]
  case flags => rw [if_neg (Nat.not_lt.mpr hline), if_neg (Nat.not_lt.mpr hsel), if_pos hflags]
  case written =>
    have hline : Fin.ofNat 4 (octAt req.body 0) = n := by rw [hn, Fin.ofNat_val_eq_self]
    have hbits : octAt req.body 2 = enables pulse fast slow steady := hflags
    have hlink : linkOf (octAt req.body 1) = l := by rw [hl, linkOf_val]
    rw [if_neg (by omega), if_neg (by omega),
      if_neg (hbits ▸ Nat.not_lt.mpr (enables_le pulse fast slow steady)), hline, hlink, hn, hl]
    simp only [hbits, set_enables]
    obtain ⟨rest, -, rfl⟩ := h
    rfl

/-! ## Copies, pulses and generators (R66, R188 to R190) -/

section Following

variable {s : State}

theorem execCounterNotice_taken {c : BitVec 32} {rest : List (BitVec 32)}
    (h : s.mail.counterNotices = c :: rest) :
    exec .counterNotice s = .next { s with
      evu := { s.evu with frameCopy := c }, mail := { s.mail with counterNotices := rest } } := by
  change execCounterNotice s = _
  unfold execCounterNotice
  rw [h]
  rfl

theorem execStateNotice_taken {l : Link} {st : LinkState} {rest : List LinkState}
    (h : s.mail.stateNotices[l] = st :: rest) :
    exec (.stateNotice l) s = .next { s with
      evu := { s.evu with linkCopy := updAt s.evu.linkCopy l fun _ => st }
      mail := { s.mail with stateNotices := updAt s.mail.stateNotices l fun _ => rest } } := by
  change execStateNotice l s = _
  unfold execStateNotice
  rw [h]
  rfl

theorem execCompletionReport_taken {l : Link} (h : 0 < s.mail.completions[l]) :
    exec (.completionReport l) s = .next { s with
      evu := { s.evu with lines := s.evu.lines.map fun n => n.startPulse l }
      mail := { s.mail with completions := updAt s.mail.completions l (· - 1) } } :=
  if_pos h

/-- R189: a pulse that has run 50 ms ends. -/
theorem endPulse_due {x : IndLine} {k : Nat} (h : x.pulseTimer = some k) (hdue : 200 ≤ k) :
    x.endPulse = { x with pulseTimer := none } := by
  simp only [IndLine.endPulse, h]
  exact if_pos hdue

/-- R189: a pulse that has not run its time goes on, and without a pulse nothing ends. -/
theorem endPulse_early {x : IndLine} (h : ∀ k, x.pulseTimer = some k → k < 200) : x.endPulse = x := by
  unfold IndLine.endPulse
  split
  next k hk => exact if_neg (Nat.not_le.mpr (h k hk))
  next => rfl

theorem execPulseTimerExpiry_due {n : Fin 4} {k : Nat}
    (h : IndLine.pulseTimer s.evu.lines[n] = some k) (hdue : 200 ≤ k) :
    exec (.pulseTimerExpiry n) s = .next { s with evu := { s.evu with
      lines := updAt s.evu.lines n fun x => { x with pulseTimer := none } } } := by
  change Host.Outcome.next (s.onEvu fun e => { e with lines := updAt e.lines n IndLine.endPulse }) = _
  simp only [State.onEvu, updAt_congr (v := s.evu.lines) (f := IndLine.endPulse)
    (g := fun x => { x with pulseTimer := none }) (endPulse_due h hdue)]

theorem execPulseTimerExpiry_early {n : Fin 4}
    (h : ∀ k, IndLine.pulseTimer s.evu.lines[n] = some k → k < 200) :
    exec (.pulseTimerExpiry n) s = .next s := by
  change Host.Outcome.next (s.onEvu fun e => { e with lines := updAt e.lines n IndLine.endPulse }) = _
  simp only [State.onEvu, updAt_congr (v := s.evu.lines) (f := IndLine.endPulse) (g := fun x => x)
    (endPulse_early h), updAt_id]

/-- R190: a generator changes phase at the end of its period; the time beyond it counts toward the next
(log entry 25). -/
theorem flip_due {g : Generator} {period : Nat} (h : period ≤ g.elapsed) :
    g.flip period = ⟨!g.on, g.elapsed - period⟩ := if_pos h

theorem execBlinkPhase_fast (h : 500 ≤ s.evu.fast.elapsed) :
    exec (.blinkPhase .fast) s = .next { s with
      evu := { s.evu with fast := ⟨!s.evu.fast.on, s.evu.fast.elapsed - 500⟩ } } :=
  congrArg (fun g => Host.Outcome.next (s.onEvu fun e => { e with fast := g }))
    (flip_due (period := Config.fastTicks) h)

theorem execBlinkPhase_slow (h : 2000 ≤ s.evu.slow.elapsed) :
    exec (.blinkPhase .slow) s = .next { s with
      evu := { s.evu with slow := ⟨!s.evu.slow.on, s.evu.slow.elapsed - 2000⟩ } } :=
  congrArg (fun g => Host.Outcome.next (s.onEvu fun e => { e with slow := g }))
    (flip_due (period := Config.slowTicks) h)

end Following

theorem copiesAndLinesFollow : Piece.CopiesAndLinesFollow :=
  fun _ => ⟨fun _ _ => execCounterNotice_taken, fun _ _ _ => execStateNotice_taken,
    fun _ h => ⟨_, execCompletionReport_taken h, fun n => Vector.getElem_map _ n.isLt⟩,
    fun _ => ⟨fun _ => execPulseTimerExpiry_due, execPulseTimerExpiry_early⟩,
    execBlinkPhase_fast, execBlinkPhase_slow⟩

/-! ## The pattern a line shows (R190) -/

section Patterns

variable {e : EVU} {n : Fin 4}

theorem indicatorOn_pulse (hpulse : IndLine.pulse e.lines[n] = true)
    (hruns : IndLine.pulseTimer e.lines[n] ≠ none) : indicatorOn e n = true := by
  have hshows : (IndLine.pulse e.lines[n] && (IndLine.pulseTimer e.lines[n]).isSome) = true := by
    rw [hpulse, Option.isSome_iff_ne_none.mpr hruns]
    rfl
  exact if_pos hshows

/-- R190: what a line without a pulse shows for a link in the given state. -/
def statePattern (e : EVU) (x : IndLine) : LinkState → Bool
  | .train | .wake => x.fast && e.fast.on
  | .listen | .negotiate => x.slow && e.slow.on
  | .up | .rest => x.steady
  | .disabled | .down => false

/-- R190: a line whose pulse is not enabled or does not run shows the pattern of its link's state. -/
theorem indicatorOn_state
    (h : IndLine.pulse e.lines[n] = false ∨ IndLine.pulseTimer e.lines[n] = none) :
    indicatorOn e n = statePattern e e.lines[n] e.linkCopy[IndLine.sel e.lines[n]] := by
  have hquiet : (IndLine.pulse e.lines[n] && (IndLine.pulseTimer e.lines[n]).isSome) = false := by
    rcases h with h | h
    · rw [h, Bool.false_and]
    · rw [h, Option.isSome_none, Bool.and_false]
  unfold indicatorOn
  dsimp only
  rw [hquiet]
  generalize (e.linkCopy[IndLine.sel e.lines[n]] : LinkState) = st
  cases st <;> simp [statePattern, beq_eq_decide]

end Patterns

theorem linesShowTheirPattern : Piece.LinesShowTheirPattern := by
  refine fun e n => ⟨indicatorOn_pulse, fun hquiet => ?_⟩
  have shows {st : LinkState} (h : e.linkCopy[IndLine.sel e.lines[n]] = st) :
      indicatorOn e n = statePattern e e.lines[n] st := h ▸ indicatorOn_state hquiet
  exact ⟨fun h => h.elim shows shows, fun h => h.elim shows shows, fun h => h.elim shows shows,
    fun h => h.elim shows shows⟩

/-- Settles O59: INDICATOR SET, the notices and the timers each write what they say, and the pattern is the
running pulse or a function of the link's state. -/
theorem indicatorLinesFollow : Obligations.IndicatorLinesFollow :=
  ⟨indicatorsAreSet, copiesAndLinesFollow, linesShowTheirPattern⟩

end Sys2Proof.Indicators
end

section
/-! SUPPORT. Sound Link Ports (R85, R108, R109, R111): which changes of one Link Port keep it sound, and that the
shared operations, those of the Link Ports and those of the Management Unit keep every Link Port sound. -/

namespace Sys2Proof.LinkPorts

open Sys2Proof.Machine Sys2Proof.Laws

/-! ## One Link Port -/

/-- A Link Port with the advertisement and configuration of another one, at most its attempts, and no
message that the other does not hold: what nearly every event makes of a Link Port. -/
structure Eased (p q : LP) : Prop where
  advert : q.advert = p.advert
  cfg : q.cfg = p.cfg
  attempts : q.attempts ≤ p.attempts
  txq : q.txq.Sublist p.txq

section OnePort

variable {p q r : LP}

theorem Eased.of_eq (ha : q.advert = p.advert) (hc : q.cfg = p.cfg) (hn : q.attempts = p.attempts)
    (hq : q.txq = p.txq) : Eased p q :=
  ⟨ha, hc, hn.le, hq ▸ List.Sublist.refl _⟩

theorem Eased.trans (h : Eased p q) (k : Eased q r) : Eased p r :=
  ⟨k.advert.trans h.advert, k.cfg.trans h.cfg, k.attempts.trans h.attempts, k.txq.trans h.txq⟩

theorem Eased.sound (h : Eased p q) (hp : p.Sound) : q.Sound where
  least := h.advert ▸ hp.least
  most := by rw [h.advert, h.cfg]; exact hp.most
  threshold := h.cfg ▸ hp.threshold
  attempts := h.cfg ▸ h.attempts.trans_lt hp.attempts
  places := hp.places.sublist (h.txq.map _)

/-- R106, R107: entering a state leaves the configuration and the advertisement, and at most clears the
attempts and the transmit list. -/
theorem eased_enter (p : LP) (new : LinkState) (label : List Byte) (unit : BitVec 4) :
    Eased p (p.enter new label unit) where
  advert := enter_advert p new label unit
  cfg := enter_cfg p new label unit
  attempts := by
    rw [enter_attempts]
    split
    · exact Nat.zero_le _
    · exact le_rfl
  txq := by
    rw [enter_txq]
    split
    · exact List.nil_sublist _
    · exact List.Sublist.refl _

theorem eased_startRestHold (p : LP) : Eased p p.startRestHold := .of_eq rfl rfl rfl rfl

theorem eased_applyRestHold (p : LP) (old : Nat) : Eased p (p.applyRestHold old) := by
  unfold LP.applyRestHold
  split
  · split
    · exact .of_eq rfl rfl rfl rfl
    · split
      · exact .of_eq rfl rfl rfl rfl
      · exact eased_startRestHold p
  · exact .of_eq rfl rfl rfl rfl

theorem eased_judgeListen (p : LP) (sync : Option Sync) : Eased p (p.judgeListen sync) := by
  unfold LP.judgeListen
  split
  · exact .of_eq rfl rfl rfl rfl
  · split
    · exact .of_eq rfl rfl rfl rfl
    · split <;> exact .of_eq rfl rfl rfl rfl

theorem eased_judgeAligned (p : LP) (good : Bool) : Eased p (p.judgeAligned good) :=
  .of_eq rfl rfl rfl rfl

theorem eased_trainFrame (p : LP) (good : Bool) (code : Option ServiceCode) (payload : List Slot) :
    Eased p (p.trainFrame good code payload) := .of_eq rfl rfl rfl rfl

theorem eased_countCode (p : LP) (good : Bool) (code : Option ServiceCode) :
    Eased p (p.countCode good code) := by
  unfold LP.countCode
  split <;> exact .of_eq rfl rfl rfl rfl

theorem eased_badSyncAssembly (p : LP) : Eased p p.badSyncAssembly := by
  unfold LP.badSyncAssembly
  split <;> exact .of_eq rfl rfl rfl rfl

theorem eased_transmit (p : LP) : Eased p p.transmit := by
  unfold LP.transmit
  split <;> exact .of_eq rfl rfl rfl rfl

theorem sound_reset : LP.reset.Sound := ⟨rfl, rfl, by decide, by decide, List.nodup_nil⟩

/-- R88, R117: the reset values are sound whatever stood there. -/
theorem sound_deviceReset (p : LP) : p.deviceReset.Sound :=
  ⟨rfl, rfl, (by decide : 1 ≤ 3 ∧ 3 ≤ 15), (by decide : 0 < 3), List.nodup_nil⟩

theorem diff_self (g : Grades) : g.diff g = ⟨false, false, false⟩ := by
  simp [Grades.diff]

theorem upTo_g16 (g : Grade) : (Grades.upTo g).g16 = true := by cases g <;> rfl

/-- R109: a restored advertisement is sound under every configuration. -/
theorem sound_restored (ht : 1 ≤ p.cfg.threshold ∧ p.cfg.threshold ≤ 15)
    (ha : p.attempts < p.cfg.threshold) (hq : (p.txq.map TxMsg.place).Nodup) :
    LP.Sound { p with advert := Grades.upTo p.cfg.maxGrade, removed := ⟨false, false, false⟩ } :=
  ⟨upTo_g16 _, diff_self _, ht, ha, hq⟩

/-- R108: without the grades from G32 or G64 up, an advertisement still has G16. -/
theorem diff_fromUp_g16 {a : Grades} {g : Grade} (hg : g ≠ .g16) (ha : a.g16 = true) :
    (a.diff (Grades.fromUp g)).g16 = true := by
  cases g with
  | g16 => exact absurd rfl hg
  | g32 => simp [Grades.diff, Grades.fromUp, ha]
  | g64 => simp [Grades.diff, Grades.fromUp, ha]

/-- Taking grades away brings in none above the maximum. -/
theorem diff_diff_none {a b m : Grades} (h : a.diff m = ⟨false, false, false⟩) :
    (a.diff b).diff m = ⟨false, false, false⟩ := by
  simp only [Grades.diff, Grades.mk.injEq] at h ⊢
  obtain ⟨h64, h32, h16⟩ := h
  exact ⟨by rw [Bool.and_right_comm, h64, Bool.false_and],
    by rw [Bool.and_right_comm, h32, Bool.false_and], by rw [Bool.and_right_comm, h16, Bool.false_and]⟩

/-- R85: a message goes only to a place that is empty. -/
theorem sound_accept (hp : p.Sound) {m : TxMsg} (h : p.placeFull m.place = false) :
    LP.Sound { p with txq := p.txq ++ [m] } where
  least := hp.least
  most := hp.most
  threshold := hp.threshold
  attempts := hp.attempts
  places := by
    have hfree : m.place ∉ p.txq.map TxMsg.place := by
      intro hm
      obtain ⟨x, hx, hplace⟩ := List.mem_map.mp hm
      have hfull := (placeFull_iff p m.place).mpr ⟨x, hx, hplace⟩
      rw [h] at hfull
      cases hfull
    rw [List.map_append]
    exact List.nodup_append'.mpr
      ⟨hp.places, List.nodup_singleton _, List.disjoint_singleton.mpr hfree⟩

end OnePort

end Sys2Proof.LinkPorts

/-! ## Every Link Port -/

namespace Sys2Proof.Machine.State.LinksSound

open Sys2Proof.Laws Sys2Proof.LinkPorts

section Operations

variable {s : State} {l : Link} (h : s.LinksSound)

/-- Nothing but the Link Ports decides. -/
theorem of_lp {t : State} (h : s.LinksSound) (e : t.lp = s.lp) : t.LinksSound := fun l => e ▸ h l

/-- One Link Port changed. -/
theorem onLp' {f : LP → LP} (h : ∀ k : Link, k ≠ l → LP.Sound s.lp[k]) (hf : LP.Sound (f s.lp[l])) :
    (s.onLp l f).LinksSound := by
  intro k
  rw [onLp_lp, updAt_get]
  split
  · exact hf
  next hk => exact h k (Ne.symm hk)

include h

theorem onLp {f : LP → LP} (hf : LP.Sound (f s.lp[l])) : (s.onLp l f).LinksSound :=
  onLp' (fun k _ => h k) hf

theorem ease {f : LP → LP} (hf : Eased s.lp[l] (f s.lp[l])) : (s.onLp l f).LinksSound :=
  h.onLp (hf.sound (h l))

theorem onMail {f : Mail → Mail} : (s.onMail f).LinksSound := h

theorem onMgu {f : MguLink → MguLink} : (s.onMgu l f).LinksSound := h

theorem setLpMail {ms : List (Link × LpMsg)} : (s.setLpMail ms).LinksSound := h

theorem report {b : Block} {k : EventKind} {n d : Nat} {stamp : Option (BitVec 32)} :
    (s.report b k n d stamp).LinksSound := h

theorem toMgu {ms : List LpMsg} : (s.toMgu l ms).LinksSound := h

theorem completion : (s.completion l).LinksSound := h

theorem leaveRunning : (s.leaveRunning l).LinksSound :=
  of_lp (h.ease (f := fun p => dropped p) ⟨rfl, rfl, le_rfl, List.nil_sublist _⟩) rfl

theorem moveCore (new : LinkState) : (s.moveCore l new).LinksSound := by
  unfold State.moveCore
  extract_lets old s1 s2 s3
  have h1 : s1.LinksSound := by
    simp only [s1]
    split
    · exact h.leaveRunning
    · exact h
  have h2 : s2.LinksSound := h1.ease (eased_enter _ _ _ _)
  split
  · exact h
  · split
    · exact h2
    · exact h2

theorem moveLink (new : LinkState) : (s.moveLink l new).LinksSound := by
  unfold State.moveLink
  extract_lets p s1 s2
  have h1 : s1.LinksSound := h.moveCore new
  have h2 : s2.LinksSound := h1.ease (.of_eq rfl rfl rfl rfl)
  split
  · split
    · exact h2
    · exact h2.moveCore _
  · exact h1

theorem carryHeldMove : (s.carryHeldMove l).LinksSound := by
  unfold State.carryHeldMove
  extract_lets p s1
  have h1 : s1.LinksSound := h.ease (.of_eq rfl rfl rfl rfl)
  split
  · split
    · exact h1.moveLink _
    · split
      · exact h1.moveLink _
      · exact h1
  · exact h

/-- R109: the advertisement is restored under a configuration that may have changed before. -/
theorem restoreAdvert_onLp {f : LP → LP}
    (hthreshold : 1 ≤ (f s.lp[l]).cfg.threshold ∧ (f s.lp[l]).cfg.threshold ≤ 15)
    (hattempts : (f s.lp[l]).attempts < (f s.lp[l]).cfg.threshold)
    (hplaces : ((f s.lp[l]).txq.map TxMsg.place).Nodup) :
    ((s.onLp l f).restoreAdvert l).LinksSound := by
  have hport : (s.onLp l f).lp[l] = f s.lp[l] := LinkRest.onLp_get s l f
  unfold State.restoreAdvert
  extract_lets p advert s1
  have h1 : s1.LinksSound := by
    simp only [s1, advert, p, LinkRest.onLp_onLp]
    refine h.onLp ?_
    rw [hport]
    exact sound_restored hthreshold hattempts hplaces
  split
  · exact h1
  · exact h1

theorem restoreAdvert : (s.restoreAdvert l).LinksSound := by
  have hid : s.onLp l (fun p => p) = s := by simp only [State.onLp, updAt_id]
  exact hid ▸ h.restoreAdvert_onLp (h l).threshold (h l).attempts (h l).places

theorem restoreExpired : (s.restoreExpired l).LinksSound := by
  unfold State.restoreExpired
  dsimp only
  split
  · split
    · exact (h.ease (.of_eq rfl rfl rfl rfl)).restoreAdvert
    · exact h
  · exact h

theorem resetLp : (s.resetLp l).LinksSound :=
  ((h.ease (.of_eq rfl rfl rfl rfl)).moveLink .down).onLp (sound_deviceReset _)

end Operations

/-- R108: at the threshold the attempts may have passed the bound; the downshift clears them. -/
theorem downshift {s : State} {l : Link}
    (h : (s.onLp l fun p => { p with attempts := 0 }).LinksSound) : (s.downshift l).LinksSound := by
  have hport : (s.onLp l fun p => { p with attempts := 0 }).lp[l] = { s.lp[l] with attempts := 0 } :=
    LinkRest.onLp_get s l _
  have hp : LP.Sound { s.lp[l] with attempts := 0 } := hport ▸ h l
  unfold State.downshift
  dsimp only
  split
  next => exact h
  next hg =>
    refine report (h.onLp ?_)
    rw [hport]
    exact ⟨diff_fromUp_g16 hg hp.least, diff_diff_none hp.most, hp.threshold, hp.attempts, hp.places⟩

section Operations

variable {s : State} {l : Link} (h : s.LinksSound)
include h

/-- R107, R108: below the threshold the counted attempt keeps its bound, at the threshold it is cleared. -/
theorem trainingFailure : (s.trainingFailure l).LinksSound := by
  have hp : LP.Sound s.lp[l] := h l
  unfold State.trainingFailure
  extract_lets s1 s2
  have hport : s1.lp[l] = _ := LinkRest.onLp_get s l _
  have h2 : s2.LinksSound := by
    simp only [s2]
    split
    next =>
      refine downshift ?_
      simp only [s1, LinkRest.onLp_onLp]
      exact h.ease ⟨rfl, rfl, Nat.zero_le _, List.Sublist.refl _⟩
    next hbelow =>
      rw [hport] at hbelow
      exact h.onLp ⟨hp.least, hp.most, hp.threshold, Nat.not_le.mp hbelow, hp.places⟩
  exact h2.moveLink _

/-! ### What is due -/

theorem dueAlignmentAcquired : (s.dueAlignmentAcquired l).LinksSound := by
  unfold State.dueAlignmentAcquired
  dsimp only
  split
  · exact (h.ease (.of_eq rfl rfl rfl rfl)).moveLink _
  · exact h

theorem dueAlignmentLoss : (s.dueAlignmentLoss l).LinksSound := by
  unfold State.dueAlignmentLoss
  dsimp only
  split
  · split
    · exact (h.ease (.of_eq rfl rfl rfl rfl)).report.moveLink _
    · exact h.moveLink _
  · exact h

theorem dueWindowPass : (s.dueWindowPass l).LinksSound := by
  unfold State.dueWindowPass
  dsimp only
  split
  · split
    · exact h.ease (.of_eq rfl rfl rfl rfl)
    · exact h
  · exact h

theorem dueWindowFail : (s.dueWindowFail l).LinksSound := by
  unfold State.dueWindowFail
  dsimp only
  split
  · split
    · exact h.trainingFailure
    · exact h
  · exact h

theorem dueTrainLimit : (s.dueTrainLimit l).LinksSound := by
  unfold State.dueTrainLimit
  dsimp only
  split
  · exact h.trainingFailure
  · exact h

theorem dueRestEntered : (s.dueRestEntered l).LinksSound := by
  unfold State.dueRestEntered
  dsimp only
  split
  · exact h.moveLink .rest
  · exact h

theorem dueClearRunComplete : (s.dueClearRunComplete l).LinksSound := by
  unfold State.dueClearRunComplete
  dsimp only
  split
  · exact h.moveLink .up
  · exact h

theorem dueResponseSent : (s.dueResponseSent l).LinksSound := by
  unfold State.dueResponseSent
  split
  next m rest hq =>
    split
    · exact (h.ease ⟨rfl, rfl, le_rfl, hq ▸ List.sublist_cons_self m rest⟩).toMgu.completion
    · exact h
  next => exact h

theorem settleLink : (s.settleLink l).LinksSound := by
  unfold State.settleLink State.settleFrame
  exact h.dueResponseSent.dueAlignmentAcquired.dueAlignmentLoss.dueWindowPass.dueWindowFail.dueTrainLimit
    |>.dueRestEntered.dueClearRunComplete

/-! ### Frames, use notices and requests -/

theorem agreement : (s.agreement l).LinksSound := by
  unfold State.agreement
  dsimp only
  split
  · split
    · exact (h.ease (.of_eq rfl rfl rfl rfl)).moveLink _
    · split
      · exact h
      · exact (h.ease (.of_eq rfl rfl rfl rfl)).report
  · exact h

theorem asmResult (out : AsmOut) : (s.asmResult l out).LinksSound := by
  cases out with
  | nothing => exact h
  | codeError => exact h.ease (.of_eq rfl rfl rfl rfl)
  | discard => exact h.ease (.of_eq rfl rfl rfl rfl)
  | good msg => exact h

theorem frameNegotiate (w : Word) : (s.frameNegotiate l w).LinksSound := by
  unfold State.frameNegotiate
  extract_lets good s1
  have h1 : s1.LinksSound :=
    h.ease ((eased_judgeAligned _ good).trans (eased_countCode _ _ _))
  split
  · exact (h1.ease (.of_eq rfl rfl rfl rfl)).agreement
  · exact h1

theorem frameTrain (w : Word) (payload : Vector Word 64) : (s.frameTrain l w payload).LinksSound := by
  unfold State.frameTrain
  extract_lets p good s1
  have h1 : s1.LinksSound :=
    h.ease (((eased_trainFrame _ _ _ _).trans (eased_judgeAligned _ good)).trans (eased_countCode _ _ _))
  split
  · exact h1.moveLink .up
  · exact h1

theorem frameRunning (w : Word) (payload : Vector Word 64) :
    (s.frameRunning l w payload).LinksSound := by
  unfold State.frameRunning
  extract_lets p good s1 s2 s3
  have h1 : s1.LinksSound :=
    h.ease (((eased_judgeAligned _ good).trans (eased_countCode _ _ _)).trans (.of_eq rfl rfl rfl rfl))
  have h2 : s2.LinksSound := by
    simp only [s2]
    split
    · exact h1.moveLink _
    · exact h1
  have h3 : s3.LinksSound := h2.ease (.of_eq rfl rfl rfl rfl)
  split
  · split
    · exact (h3.ease (.of_eq rfl rfl rfl rfl)).asmResult _
    · exact h3
  · exact h3.ease (eased_badSyncAssembly _)

theorem useChanged (used : Bool) : (s.useChanged l used).LinksSound := by
  unfold State.useChanged
  extract_lets s1
  have h1 : s1.LinksSound := h.ease (.of_eq rfl rfl rfl rfl)
  split
  · split
    · exact h1.ease (.of_eq rfl rfl rfl rfl)
    · exact h1.ease (eased_startRestHold _)
  · split
    · exact h1.moveLink _
    · exact h1
  all_goals exact h1

theorem requestMove (req : Req) (new : LinkState) : (s.requestMove l req new).1.LinksSound := by
  unfold State.requestMove
  split
  · exact h.ease (.of_eq rfl rfl rfl rfl)
  · exact h.moveLink _

/-- A request taken by its owner. -/
theorem withRequest (b : Block) (which : Req → Bool) {f : Req → State → State}
    (hf : ∀ req t, t.LinksSound → (f req t).LinksSound) : (s.withRequest b which f).LinksSound := by
  unfold State.withRequest
  split
  · split
    · exact hf _ _ h
    · exact h
  · exact h

/-- A reset taken by its block. -/
theorem withReset (b : Block) {f : ResetOrder → State → State}
    (hf : ∀ o t, t.LinksSound → (f o t).LinksSound) : (s.withReset b f).LinksSound := by
  unfold State.withReset
  split
  next o rest _ =>
    have ho := hf o (s.onMail fun m => { m with resets := rest }) h
    dsimp only
    split
    · exact ho
    · exact ho
  next => exact h

/-! ### The Management Unit -/

theorem accept {place : Place} (hfree : LP.placeFull s.lp[l] place = false) (ref : Option Ref)
    (octets : List Byte) : (s.accept l place ref octets).LinksSound :=
  h.onLp (sound_accept (h l) hfree)

theorem carryIfDeferred (d : Option Deferred) : (s.carryIfDeferred l d).LinksSound :=
  of_lp h (by rw [carryIfDeferred_eq])

theorem offer (ref : Ref) (octets : List Byte) (d : Option Deferred) :
    (s.offer l ref octets d).LinksSound := by
  unfold State.offer
  dsimp only
  split
  · exact (onMgu h).carryIfDeferred d
  · split
    · exact h
    next hfree => exact h.accept (Bool.eq_false_iff.mpr hfree) _ _

theorem respond (ip : InProgress) (code : ResultCode) (body : List Byte) (d : Option Deferred) :
    (s.respond l ip code body d).LinksSound :=
  State.LinksSound.offer (s := s.queryEvents) h _ _ _

theorem takeResult (r : Result) : (s.takeResult r).LinksSound := by
  unfold State.takeResult
  split
  · split
    · exact h.respond _ _ _ _
    · exact h
  · exact h

theorem closeAfter (ref : Option Ref) : (s.closeAfter l ref).LinksSound := by
  unfold State.closeAfter
  split
  next c _ =>
    split
    · exact (onMgu h).carryIfDeferred (some c.effect)
    · exact h
  next => exact h

theorem reoffer : (s.reoffer l).LinksSound := by
  unfold State.reoffer
  split
  · exact h.offer _ _ _
  · exact h

theorem placeEmptied (place : Place) (ref : Option Ref) : (s.placeEmptied l place ref).LinksSound := by
  cases place with
  | busy => exact h
  | response => exact (h.closeAfter ref).reoffer

theorem requesterStopped : (s.requesterStopped l).LinksSound := by
  unfold State.requesterStopped
  split
  · split
    · exact h.carryIfDeferred (l := l) (some .reset)
    · exact h
  · exact h

theorem stopLink : (s.stopLink l).LinksSound :=
  ((h.onMgu.carryIfDeferred _).carryIfDeferred _).requesterStopped

theorem answerBusy (code tag : Byte) : (s.answerBusy l code tag).LinksSound := by
  unfold State.answerBusy
  extract_lets s1
  have h1 : s1.LinksSound := h
  split
  next hfree =>
    have hplace : LP.placeFull s1.lp[l] .busy = false := by
      simpa using (Bool.and_eq_true_iff.mp hfree).2
    exact h1.accept hplace _ _
  next => exact h1

theorem takeMessage (octets : List Byte) : (s.takeMessage l octets).LinksSound := by
  unfold State.takeMessage
  extract_lets code tag ip m s1
  have h1 : s1.LinksSound := h
  split
  · exact h1.respond _ _ _ _
  · exact h1

theorem dealMessage (octets : List Byte) (mgr : Bool) : (s.dealMessage l octets mgr).LinksSound := by
  unfold State.dealMessage
  dsimp only
  split
  · exact h
  · split
    · split
      · exact h
      · exact h.answerBusy _ _
    · exact h.takeMessage _

theorem beginReset (req : Req) : (s.beginReset req).LinksSound := by
  have hhanded (bs : List Block) (o : Block → ResetOrder) (t : State) :
      (bs.foldl (fun s b => s.handReset (o b)) t).lp = t.lp := by
    induction bs generalizing t with
    | nil => rfl
    | cons b bs ih => rw [List.foldl_cons, ih]; rfl
  unfold State.beginReset
  dsimp only
  split
  · exact of_lp h (hhanded _ _ _)
  · exact of_lp h (hhanded _ _ _)

theorem takeReset (req : Req) : (s.takeReset req).LinksSound := by
  unfold State.takeReset
  split
  · exact h.takeResult _
  · split
    · exact h
    · exact h.beginReset req

theorem finishReset (r : CurrentReset) : (s.finishReset r).LinksSound := by
  unfold State.finishReset
  extract_lets m s1 effect
  have h1 : s1.LinksSound := h
  split
  · split
    · exact h1.respond _ _ _ _
    · split
      · exact h1
      · exact h1.carryIfDeferred _
  · split
    · exact h1
    · exact h1.carryIfDeferred _

theorem nextReset : s.nextReset.LinksSound := by
  unfold State.nextReset
  split
  · refine beginReset ?_ _
    exact h
  · exact h

end Operations

end Sys2Proof.Machine.State.LinksSound
end

section
/-! SUPPORT. Every step keeps every Link Port sound: command by command, block by block. Only a Link Port's own
events, the Management Unit's offers, the frame boundary and the resets write a Link Port. -/

namespace Sys2Proof.LinkPorts

open Sys2Proof.Machine Sys2Proof.Laws

/-- Whatever next state an outcome names has sound Link Ports. -/
def LinksNext (o : Host.Outcome State Fault Refusal) : Prop := ∀ t, o = .next t → t.LinksSound

theorem linksNext {t : State} (h : t.LinksSound) : LinksNext (.next t) :=
  fun u hu => by injection hu with hu; exact hu ▸ h

theorem linksNext_fault (f : Fault) : LinksNext (.fault f) := fun _ h => nomatch h

theorem linksNext_refused (r : Refusal) : LinksNext (.refused r) := fun _ h => nomatch h

section Commands

variable {s : State} (h : s.LinksSound)
include h

/-! ### Link Ports -/

section LinkPortCommands

variable (l : Link)

theorem execReceivedFrame_links (w : Word) (payload : Vector Word 64) :
    LinksNext (execReceivedFrame l w payload s) := by
  have hs := h.settleLink (l := l)
  unfold execReceivedFrame
  generalize s.settleLink l = u at hs ⊢
  dsimp only
  split
  iterate 2 exact linksNext hs
  · exact linksNext (hs.ease (eased_judgeListen _ _))
  · exact linksNext (hs.frameNegotiate w)
  · exact linksNext (hs.frameTrain w payload)
  all_goals exact linksNext (hs.frameRunning w payload)

theorem execSignalDetect_links : LinksNext (execSignalDetect l s) := by
  have hs := h.settleLink (l := l)
  unfold execSignalDetect
  generalize s.settleLink l = u at hs ⊢
  dsimp only
  split
  · exact linksNext (hs.moveLink _)
  · exact linksNext hs

theorem execSignalLoss_links : LinksNext (execSignalLoss l s) := by
  have hs := h.settleLink (l := l)
  unfold execSignalLoss
  generalize s.settleLink l = u at hs ⊢
  dsimp only
  split
  · exact linksNext hs
  · split
    · exact linksNext (hs.report.moveLink _)
    · exact linksNext (hs.moveLink _)

theorem execNegotiationTimerExpiry_links : LinksNext (execNegotiationTimerExpiry l s) := by
  have hs := h.settleLink (l := l)
  unfold execNegotiationTimerExpiry
  generalize s.settleLink l = u at hs ⊢
  dsimp only
  split
  · split
    · exact linksNext ((hs.ease (.of_eq rfl rfl rfl rfl)).moveLink _)
    · exact linksNext hs
  · exact linksNext hs

theorem execRestHoldTimerExpiry_links : LinksNext (execRestHoldTimerExpiry l s) := by
  have hs := h.settleLink (l := l)
  unfold execRestHoldTimerExpiry
  generalize s.settleLink l = u at hs ⊢
  dsimp only
  split
  · split
    · exact linksNext (hs.ease (.of_eq rfl rfl rfl rfl))
    · exact linksNext hs
  · exact linksNext hs

theorem execWakeTimerExpiry_links : LinksNext (execWakeTimerExpiry l s) := by
  have hs := h.settleLink (l := l)
  unfold execWakeTimerExpiry
  generalize s.settleLink l = u at hs ⊢
  dsimp only
  split
  · split
    · exact linksNext (hs.report.moveLink _)
    · exact linksNext hs
  · exact linksNext hs

theorem execUseNotice_links : LinksNext (execUseNotice l s) := by
  have hs := h.settleLink (l := l)
  unfold execUseNotice
  generalize s.settleLink l = u at hs ⊢
  dsimp only
  split
  next used rest _ =>
    split
    · exact linksNext hs
    · exact linksNext (hs.onMail.useChanged used)
  next => exact linksNext hs

theorem execMessageDiscardReport_links : LinksNext (execMessageDiscardReport l s) := by
  have hs := h.settleLink (l := l)
  unfold execMessageDiscardReport
  generalize s.settleLink l = u at hs ⊢
  dsimp only
  split
  · exact linksNext (hs.onMail.ease (.of_eq rfl rfl rfl rfl))
  · exact linksNext hs

theorem execHeldMove_links : LinksNext (execHeldMove l s) := by
  have hs := h.settleLink (l := l)
  unfold execHeldMove
  generalize s.settleLink l = u at hs ⊢
  dsimp only
  split
  · exact linksNext (hs.onMail.carryHeldMove)
  · exact linksNext hs

omit h in
/-- R111: a LINK SET that passes its checks carries a threshold from 1 to 15. -/
theorem linkSetConfig_threshold {b : List Byte} (hb : linkSetBad b = none) :
    1 ≤ (linkSetConfig b).threshold ∧ (linkSetConfig b).threshold ≤ 15 := by
  unfold linkSetBad at hb
  simp only [linkSetConfig]
  split_ifs at hb
  omega

/-- R109, R111: the advertisement is restored exactly where the maximum grade has changed, so it fits the
configuration set in both cases. -/
theorem execLinkSet_links : LinksNext (execLinkSet l s) := by
  refine linksNext (h.settleLink.withRequest _ _ fun req t ht => ?_)
  split
  · exact ht
  next hgood =>
    extract_lets old cfg changed s1 s2 s3 r
    have hthreshold : 1 ≤ cfg.threshold ∧ cfg.threshold ≤ 15 := linkSetConfig_threshold hgood
    have hp : LP.Sound t.lp[l] := ht l
    have h2 : s2.LinksSound := by
      simp only [s2]
      split
      · exact ht.restoreAdvert_onLp hthreshold hthreshold.1 hp.places
      next hsame =>
        have hgrade : (LP.cfg t.lp[l]).maxGrade = cfg.maxGrade := by
          simpa only [changed, decide_eq_true_eq, ne_eq, not_not] using hsame
        exact ht.onLp ⟨hp.least, hgrade ▸ hp.most, hthreshold, hthreshold.1, hp.places⟩
    have h3 : s3.LinksSound := (h2.ease (eased_applyRestHold _ _)).restoreExpired
    have hr : r.1.LinksSound := by
      simp only [r]
      split
      · exact h3.requestMove _ _
      · exact h3
    exact hr

theorem execLinkRenegotiate_links : LinksNext (execLinkRenegotiate l s) := by
  refine linksNext (h.settleLink.withRequest _ _ fun req t ht => ?_)
  extract_lets s1 r
  have h1 : s1.LinksSound := ht.restoreAdvert.ease ⟨rfl, rfl, Nat.zero_le _, List.Sublist.refl _⟩
  have hr : r.1.LinksSound := by
    simp only [r]
    split
    · exact h1.requestMove _ _
    · exact h1
  exact hr

theorem execPartnerRead_links : LinksNext (execPartnerRead l s) := by
  refine linksNext (h.settleLink.withRequest _ _ fun req t ht => ?_)
  split
  · exact ht
  · exact ht

theorem execCounterQuery_links : LinksNext (execCounterQuery l s) := by
  have hs := h.settleLink (l := l)
  unfold execCounterQuery
  generalize s.settleLink l = u at hs ⊢
  dsimp only
  split
  · split
    · exact linksNext (hs.onMail.ease (.of_eq rfl rfl rfl rfl))
    · exact linksNext hs
  · exact linksNext hs

end LinkPortCommands

/-! ### Management Unit -/

theorem execMessageTaken_links (l : Link) : LinksNext (execMessageTaken l s) := by
  unfold execMessageTaken
  split
  · split
    · exact linksNext (h.setLpMail.dealMessage _ _)
    · exact linksNext h
  · exact linksNext h

theorem execSentReport_links (l : Link) : LinksNext (execSentReport l s) := by
  unfold execSentReport
  split
  · exact linksNext (h.setLpMail.placeEmptied _ _)
  · exact linksNext h

theorem execDiscardReport_links (l : Link) : LinksNext (execDiscardReport l s) := by
  unfold execDiscardReport
  split
  · exact linksNext (h.setLpMail.placeEmptied _ _)
  · exact linksNext h

theorem execStopNotice_links (l : Link) : LinksNext (execStopNotice l s) := by
  unfold execStopNotice
  split
  · exact linksNext (h.setLpMail.stopLink)
  · exact linksNext h

theorem execOwnerResult_links (b : Block) : LinksNext (execOwnerResult b s) := by
  unfold execOwnerResult
  split
  · exact linksNext (h.onMail.takeResult _)
  · exact linksNext h

theorem execNameSet_links : LinksNext (execNameSet s) := by
  refine linksNext (h.withRequest _ _ fun req t ht => ?_)
  split
  · exact ht.takeResult _
  · refine State.LinksSound.takeResult ?_ _
    exact ht

theorem execResetAck_links (b : Block) : LinksNext (execResetAck b s) := by
  unfold execResetAck
  dsimp only
  split
  · split
    · split
      · exact linksNext (h.onMail.finishReset _).nextReset
      · exact linksNext h
    · exact linksNext h
  · exact linksNext h

/-! ### Frame Engine -/

theorem useNotices_links (used : Vector Bool 8) : (s.useNotices used).LinksSound := by
  obtain ⟨v, he, -⟩ := useNotices_eq s used
  exact he ▸ h

theorem adoptOldest_links : s.adoptOldest.LinksSound := by
  unfold State.adoptOldest
  split
  next hand rest _ =>
    obtain ⟨v, used, he, -⟩ := adopt_eq { s with fe := { s.fe with queue := rest } } hand
    rw [he]
    exact h
  next => exact h

/-- R50: a frame boundary writes the frames of a Link Port. -/
theorem computeFrame_links : s.computeFrame.LinksSound := by
  intro l
  have hport : s.computeFrame.lp[l] = { s.lp[l] with
      rx := none, txNow := LP.txNext s.lp[l]
      txNext := transmitFrame s.fe.view s.readSource s.fe.active l } := by
    simp [State.computeFrame]
  rw [hport]
  exact Eased.sound (p := s.lp[l]) (.of_eq rfl rfl rfl rfl) (h l)

theorem execHandOff_links : LinksNext (execHandOff s) := by
  unfold execHandOff
  split <;> exact linksNext h

theorem execLinkViewNotice_links (l : Link) : LinksNext (execLinkViewNotice l s) := by
  unfold execLinkViewNotice
  split <;> exact linksNext h

theorem execActiveTableCopy_links : LinksNext (execActiveTableCopy s) := by
  unfold execActiveTableCopy
  split <;> exact linksNext h

theorem execLinkViewSnapshot_links : LinksNext (execLinkViewSnapshot s) := by
  unfold execLinkViewSnapshot
  split <;> exact linksNext h

theorem execGainAdjustApply_links : LinksNext (execGainAdjustApply s) := by
  unfold execGainAdjustApply
  split
  · split <;> exact linksNext h
  · exact linksNext h

theorem execEntryReadActive_links : LinksNext (execEntryReadActive s) := by
  refine linksNext (h.withRequest _ _ fun req t ht => ?_)
  dsimp only
  split
  · exact ht
  · split <;> exact ht

theorem execClaimAnswer_links : LinksNext (execClaimAnswer s) := by
  unfold execClaimAnswer
  split <;> exact linksNext h

theorem execFeReset_links : LinksNext (execFeReset s) := by
  refine linksNext (h.withReset _ fun o t ht => ?_)
  have he : t.emptyEngine.LinksSound := by
    obtain ⟨v, he, -⟩ := emptyEngine_eq t
    exact he ▸ ht
  generalize t.emptyEngine = u at he ⊢
  dsimp only
  split
  · exact he
  · exact he

/-! ### Route Edit Unit -/

theorem reuRequest_links (k : RequestKind) {f : Req → State → State}
    (hf : ∀ req t, t.LinksSound → (f req t).LinksSound) : (s.reuRequest k f).LinksSound := by
  unfold State.reuRequest
  split
  · exact h.withRequest _ _ hf
  · exact h

theorem gated_links (req : Req) (frozen : Bool) {f : Claim → State → State}
    (hf : ∀ c t, t.LinksSound → (f c t).LinksSound) : (s.gated req frozen f).LinksSound := by
  unfold State.gated
  split
  · exact h
  · exact hf _ _ h
  · exact h

/-- An editing request behind the claim gate. -/
theorem gatedRequest_links (k : RequestKind) (frozen : Bool) {f : Req → Claim → State → State}
    (hf : ∀ req c t, t.LinksSound → (f req c t).LinksSound) :
    LinksNext (.next (s.reuRequest k fun req s => s.gated req frozen (f req))) :=
  linksNext (reuRequest_links h _ fun req _ ht => gated_links ht req _ (hf req))

theorem execEditOpen_links : LinksNext (execEditOpen s) := by
  refine linksNext (reuRequest_links h _ fun req t ht => ?_)
  dsimp only
  split
  · exact ht
  · split <;> exact ht

theorem execCopyAnswer_links : LinksNext (execCopyAnswer s) := by
  unfold execCopyAnswer
  split
  · dsimp only
    split
    · exact linksNext h
    · split <;> exact linksNext h
  · exact linksNext h

theorem execEntryPut_links : LinksNext (execEntryPut s) :=
  gatedRequest_links h _ _ fun req c t ht => by
    dsimp only
    split
    · exact ht
    · split <;> exact ht

theorem execEntryDelete_links : LinksNext (execEntryDelete s) :=
  gatedRequest_links h _ _ fun req c t ht => by
    dsimp only
    split
    · exact ht
    · split <;> exact ht

theorem execEntryReadStaging_links : LinksNext (execEntryReadStaging s) :=
  gatedRequest_links h _ _ fun req c t ht => by
    dsimp only
    split
    · exact ht
    · split <;> exact ht

theorem execSnapshotAnswer_links : LinksNext (execSnapshotAnswer s) := by
  unfold execSnapshotAnswer
  split
  · refine linksNext (gated_links (s := s.endTxn) h _ _ fun c t ht => ?_)
    dsimp only
    split
    · split <;> exact ht
    · exact ht
  · exact linksNext h

theorem execGainAdjust_links : LinksNext (execGainAdjust s) := by
  refine linksNext (reuRequest_links h _ fun req t ht => ?_)
  dsimp only
  split_ifs <;> exact ht

theorem execGainAdjustAnswer_links : LinksNext (execGainAdjustAnswer s) := by
  unfold execGainAdjustAnswer
  split
  · dsimp only
    split <;> exact linksNext h
  · exact linksNext h

theorem answerCommit_links (r : CommitRecord) (adopted : Option (BitVec 32)) :
    (s.answerCommit r adopted).LinksSound := by
  unfold State.answerCommit
  split
  · exact h
  · exact h

theorem takeFate_links (f : Fate) : (s.takeFate f).LinksSound := by
  unfold State.takeFate
  split
  · refine answerCommit_links ?_ _ _
    exact h
  · split
    · split
      · refine answerCommit_links ?_ _ _
        exact h
      · exact h
    · exact h

theorem withFate_links (adopted : Bool) : (s.withFate adopted).LinksSound := by
  unfold State.withFate
  split
  · split
    · exact takeFate_links h.onMail _
    · exact h
  · exact h

theorem execClaimQuery_links : LinksNext (execClaimQuery s) := by
  unfold execClaimQuery
  split <;> exact linksNext h

theorem execHoldTimerExpiry_links : LinksNext (execHoldTimerExpiry s) := by
  unfold execHoldTimerExpiry
  split
  · split
    · split <;> exact linksNext h
    · exact linksNext h
  · exact linksNext h

theorem ownerLost_links (l : Link) : (s.ownerLost l).LinksSound := by
  unfold State.ownerLost
  split
  · split
    · split <;> exact h
    · exact h
  · exact h

theorem execLinkLossNotice_links (l : Link) : LinksNext (execLinkLossNotice l s) := by
  unfold execLinkLossNotice
  split
  · refine linksNext (ownerLost_links ?_ l)
    exact h
  · exact linksNext h

/-! ### Sample Store -/

theorem execMemoryClearComplete_links : LinksNext (execMemoryClearComplete s) := by
  unfold execMemoryClearComplete
  split
  · refine linksNext fun l => ?_
    have hport : (s.lp.map fun p : LP => { p with held := false })[l] = { s.lp[l] with held := false } :=
      Vector.getElem_map _ l.isLt
    rw [hport]
    exact Eased.sound (p := s.lp[l]) (.of_eq rfl rfl rfl rfl) (h l)
  · exact linksNext h

theorem takePlayerRead_links (p : Player) : LinksNext (s.takePlayerRead p) := by
  unfold State.takePlayerRead
  split
  · split
    · exact linksNext_fault _
    · exact linksNext h
  · exact linksNext h

theorem execRecorderWrite_links : LinksNext (execRecorderWrite s) := by
  unfold execRecorderWrite
  split
  · split
    · exact linksNext_fault _
    · exact linksNext h
  · exact linksNext h

theorem execHoldRequest_links : LinksNext (execHoldRequest s) := by
  unfold execHoldRequest
  split
  · dsimp only
    split <;> exact linksNext h
  · exact linksNext h

theorem execReleaseNotice_links : LinksNext (execReleaseNotice s) := by
  unfold execReleaseNotice
  split <;> exact linksNext h

theorem execRegionRequest_links : LinksNext (execRegionRequest s) := by
  unfold execRegionRequest
  split
  · dsimp only
    split <;> exact linksNext h
  · exact linksNext h

theorem execRegionRelease_links : LinksNext (execRegionRelease s) := by
  unfold execRegionRelease
  split <;> exact linksNext h

theorem execRunningNotice_links : LinksNext (execRunningNotice s) := by
  unfold execRunningNotice
  split <;> exact linksNext h

theorem execMemoryWrite_links : LinksNext (execMemoryWrite s) := by
  refine linksNext (h.withRequest _ _ fun req t ht => ?_)
  dsimp only
  split
  · exact ht
  · split
    · exact ht
    · split <;> exact ht

theorem execMemoryRead_links : LinksNext (execMemoryRead s) := by
  refine linksNext (h.withRequest _ _ fun req t ht => ?_)
  dsimp only
  split_ifs <;> exact ht

theorem execClipDefine_links : LinksNext (execClipDefine s) := by
  refine linksNext (h.withRequest _ _ fun req t ht => ?_)
  split
  · exact ht
  · dsimp only
    split_ifs <;> exact ht

theorem execClipDelete_links : LinksNext (execClipDelete s) := by
  refine linksNext (h.withRequest _ _ fun req t ht => ?_)
  dsimp only
  split_ifs <;> exact ht

theorem execClipRead_links : LinksNext (execClipRead s) := by
  refine linksNext (h.withRequest _ _ fun req t ht => ?_)
  dsimp only
  split
  · exact ht
  · split <;> exact ht

/-! ### Player Bank -/

theorem advancePlayer_links (p : Player) : (s.advancePlayer p).LinksSound := by
  unfold State.advancePlayer
  dsimp only
  split
  · exact h
  · split_ifs <;> exact h

theorem takeReadAnswer_links (p : Player) : (s.takeReadAnswer p).LinksSound := by
  unfold State.takeReadAnswer
  split
  · dsimp only
    split
    · refine advancePlayer_links ?_ p
      exact h
    · exact h
  · exact h

omit h in
theorem settleReads_links (ps : List Player) {s : State} (h : s.LinksSound) :
    LinksNext (s.settleReads ps) := by
  induction ps generalizing s with
  | nil => exact linksNext h
  | cons p ps ih =>
    unfold State.settleReads
    split
    next u hu => exact ih (takeReadAnswer_links (takePlayerRead_links h p u hu) p)
    next => exact linksNext_fault _
    next => exact linksNext_refused _

theorem afterReads_links {f : State → State} (hf : ∀ t, t.LinksSound → (f t).LinksSound) :
    LinksNext (s.afterReads f) := by
  intro t ht
  obtain ⟨u, hu, rfl⟩ := afterReads_next ht
  exact hf u (settleReads_links _ h u hu)

/-- A request of the Player Bank, taken after the reads. -/
theorem plbRequest_links (which : Req → Bool) {f : Req → State → State}
    (hf : ∀ req t, t.LinksSound → (f req t).LinksSound) :
    LinksNext (s.afterReads fun s => s.plbRequest which f) := by
  refine afterReads_links h fun t ht => ?_
  unfold State.plbRequest
  split
  · exact ht.withRequest _ _ hf
  · exact ht

theorem place_links (w : PlayWait) (c : Clip) : (s.place w c).LinksSound := by
  unfold State.place
  dsimp only
  split
  · exact h
  · exact h

theorem takeHoldAnswer_links : s.takeHoldAnswer.LinksSound := by
  unfold State.takeHoldAnswer
  split
  · dsimp only
    split
    · exact h
    · exact h
    · refine place_links ?_ _ _
      exact h
    · exact h
  · exact h

theorem stopNow_links (p : Player) : (s.stopNow p).LinksSound := by
  unfold State.stopNow
  split
  · exact h
  · exact h

theorem stopEnd_links (p : Player) : (s.stopEnd p).LinksSound := by
  unfold State.stopEnd
  split
  · exact h
  · exact h

theorem execPlayNow_links : LinksNext (execPlayNow s) :=
  plbRequest_links h _ fun req t ht => by split <;> exact ht

theorem execPlayNext_links : LinksNext (execPlayNext s) :=
  plbRequest_links h _ fun req t ht => by
    split
    · exact ht
    · dsimp only
      split_ifs <;> exact ht

theorem execStopNow_links : LinksNext (execStopNow s) :=
  plbRequest_links h _ fun req t ht => by
    split
    · exact ht
    · exact stopNow_links ht _

theorem execStopEnd_links : LinksNext (execStopEnd s) :=
  plbRequest_links h _ fun req t ht => by
    split
    · exact ht
    · exact stopEnd_links ht _

theorem execPlayerStatus_links : LinksNext (execPlayerStatus s) :=
  plbRequest_links h _ fun req t ht => by split <;> exact ht

theorem execPlbReset_links : LinksNext (execPlbReset s) :=
  afterReads_links h fun _ ht => ht.withReset _ fun _ _ hu => hu

/-! ### Recorder Unit -/

theorem rcuRequest_links (k : RequestKind) {f : Req → State → State}
    (hf : ∀ req t, t.LinksSound → (f req t).LinksSound) : LinksNext (.next (s.rcuRequest k f)) := by
  refine linksNext ?_
  unfold State.rcuRequest
  split
  · exact h.withRequest _ _ hf
  · exact h

theorem record_links (r : Rec) (w : Sample) : (s.record r w).LinksSound := by
  unfold State.record
  dsimp only
  split
  · exact h
  · exact h

theorem execRecorderInputWord_links (r : Rec) : LinksNext (execRecorderInputWord r s) := by
  unfold execRecorderInputWord
  split
  · dsimp only
    split
    · exact linksNext (record_links h.onMail r _)
    · exact linksNext h
  · exact linksNext h

theorem execRecordSetup_links : LinksNext (execRecordSetup s) :=
  rcuRequest_links h _ fun req t ht => by
    split
    · exact ht
    · dsimp only
      split <;> exact ht

theorem execRegionAnswer_links : LinksNext (execRegionAnswer s) := by
  unfold execRegionAnswer
  split
  · dsimp only
    split
    · exact linksNext h
    · split <;> exact linksNext h
  · exact linksNext h

theorem recordStart_links (req : Req) (r : Rec) : (s.recordStart req r).LinksSound := by
  unfold State.recordStart
  split <;> exact h

theorem recordStop_links (r : Rec) : (s.recordStop r).LinksSound := by
  unfold State.recordStop
  split <;> exact h

theorem execRecordStart_links : LinksNext (execRecordStart s) :=
  rcuRequest_links h _ fun req t ht => by
    split
    · exact ht
    · exact recordStart_links ht req _

theorem execRecordStop_links : LinksNext (execRecordStop s) :=
  rcuRequest_links h _ fun req t ht => by
    split
    · exact ht
    · exact recordStop_links ht _

theorem execRecorderStatus_links : LinksNext (execRecorderStatus s) :=
  rcuRequest_links h _ fun req t ht => by split <;> exact ht

theorem routingResetRecorder_links (r : Rec) : (s.routingResetRecorder r).LinksSound := by
  unfold State.routingResetRecorder
  split <;> exact h

theorem deviceResetRecorder_links (r : Rec) : (s.deviceResetRecorder r).LinksSound := by
  unfold State.deviceResetRecorder
  dsimp only
  split
  · exact h
  · exact h

theorem execRcuReset_links : LinksNext (execRcuReset s) := by
  refine linksNext (h.withReset _ fun o t ht => ?_)
  split
  · exact routingResetRecorder_links (routingResetRecorder_links ht 0) 1
  · exact deviceResetRecorder_links (deviceResetRecorder_links ht 0) 1

/-! ### Event Unit -/

theorem evuRequest_links (k : RequestKind) {f : Req → State → State}
    (hf : ∀ req t, t.LinksSound → (f req t).LinksSound) : LinksNext (.next (s.evuRequest k f)) := by
  refine linksNext ?_
  unfold State.evuRequest
  split
  · exact h.withRequest _ _ hf
  · exact h

theorem execEventReport_links (b : Block) : LinksNext (execEventReport b s) := by
  unfold execEventReport
  split <;> exact linksNext h

theorem execEventsRead_links : LinksNext (execEventsRead s) :=
  evuRequest_links h _ fun req t ht => by
    dsimp only
    split <;> exact ht

theorem execCounterNotice_links : LinksNext (execCounterNotice s) := by
  unfold execCounterNotice
  split <;> exact linksNext h

theorem execCountersRead_links : LinksNext (execCountersRead s) :=
  evuRequest_links h _ fun req t ht => by
    dsimp only
    split_ifs <;> exact ht

theorem execCounterAnswer_links : LinksNext (execCounterAnswer s) := by
  unfold execCounterAnswer
  split <;> exact linksNext h

theorem execIndicatorSet_links : LinksNext (execIndicatorSet s) :=
  evuRequest_links h _ fun req t ht => by
    dsimp only
    split_ifs <;> exact ht

theorem execStateNotice_links (l : Link) : LinksNext (execStateNotice l s) := by
  unfold execStateNotice
  split <;> exact linksNext h

theorem execCompletionReport_links (l : Link) : LinksNext (execCompletionReport l s) := by
  unfold execCompletionReport
  split <;> exact linksNext h

theorem execBlinkPhase_links (g : Blink) : LinksNext (execBlinkPhase g s) := by
  cases g <;> exact linksNext h

theorem execEvuReset_links : LinksNext (execEvuReset s) := by
  refine linksNext (h.withReset _ fun o t ht => ?_)
  split <;> exact ht

/-! ### Every command -/

theorem exec_links (i : Instr) : LinksNext (exec i s) := by
  cases i with
  | hardwareReset msel unit =>
    refine linksNext fun l => ?_
    have hport : (State.afterReset msel unit s.sst.mem s.pending).lp[l] = LP.reset :=
      Vector.getElem_replicate l.isLt
    exact hport ▸ sound_reset
  -- a Link Port
  | receivedFrame l service payload => exact execReceivedFrame_links h l service payload
  | alignmentAcquired l => exact linksNext h.dueAlignmentAcquired
  | alignmentLoss l => exact linksNext h.dueAlignmentLoss
  | windowPass l => exact linksNext h.dueWindowPass
  | windowFail l => exact linksNext h.dueWindowFail
  | trainLimit l => exact linksNext h.dueTrainLimit
  | restEntered l => exact linksNext h.dueRestEntered
  | clearRunComplete l => exact linksNext h.dueClearRunComplete
  | responseSent l => exact linksNext h.dueResponseSent
  | signalDetect l => exact execSignalDetect_links h l
  | signalLoss l => exact execSignalLoss_links h l
  | negotiationTimerExpiry l => exact execNegotiationTimerExpiry_links h l
  | restoreTimerExpiry l => exact linksNext h.settleLink.restoreExpired
  | restHoldTimerExpiry l => exact execRestHoldTimerExpiry_links h l
  | wakeTimerExpiry l => exact execWakeTimerExpiry_links h l
  | useNotice l => exact execUseNotice_links h l
  | linkFrameTransmit l => exact linksNext (h.settleLink.ease (eased_transmit _))
  | messageDiscardReport l => exact execMessageDiscardReport_links h l
  | heldMove l => exact execHeldMove_links h l
  | lpReset l => exact linksNext (h.settleLink.withReset _ fun _ _ ht => ht.resetLp)
  | linkSet l => exact execLinkSet_links h l
  | linkStatus l => exact linksNext (h.settleLink.withRequest _ _ fun _ _ ht => ht)
  | linkRenegotiate l => exact execLinkRenegotiate_links h l
  | partnerRead l => exact execPartnerRead_links h l
  | counterQuery l => exact execCounterQuery_links h l
  -- the Management Unit
  | messageTaken l => exact execMessageTaken_links h l
  | sentReport l => exact execSentReport_links h l
  | discardReport l => exact execDiscardReport_links h l
  | stopNotice l => exact execStopNotice_links h l
  | ownerResult b => exact execOwnerResult_links h b
  | eventsWaitingQuery => exact linksNext h
  | identify => exact linksNext (h.withRequest _ _ fun _ _ ht => ht.takeResult _)
  | nameSet => exact execNameSet_links h
  | resetRouting => exact linksNext (h.withRequest _ _ fun req _ ht => ht.takeReset req)
  | resetDevice => exact linksNext (h.withRequest _ _ fun req _ ht => ht.takeReset req)
  | resetAck b => exact execResetAck_links h b
  -- the Frame Engine
  | feFrameBoundary => exact linksNext (computeFrame_links (adoptOldest_links h))
  | handOff => exact execHandOff_links h
  | linkViewNotice l => exact execLinkViewNotice_links h l
  | activeTableCopy => exact execActiveTableCopy_links h
  | linkViewSnapshot => exact execLinkViewSnapshot_links h
  | gainAdjustApply => exact execGainAdjustApply_links h
  | entryReadActive => exact execEntryReadActive_links h
  | tableSummaryActive => exact linksNext (h.withRequest _ _ fun _ _ ht => ht)
  | engineStatus => exact linksNext (h.withRequest _ _ fun _ _ ht => ht)
  | claimAnswer => exact execClaimAnswer_links h
  | feReset => exact execFeReset_links h
  -- the Route Edit Unit
  | editOpen => exact execEditOpen_links h
  | copyAnswer => exact execCopyAnswer_links h
  | entryPut => exact execEntryPut_links h
  | entryDelete => exact execEntryDelete_links h
  | entryReadStaging => exact execEntryReadStaging_links h
  | tableSummaryStaging => exact gatedRequest_links h _ _ fun _ _ _ ht => ht
  | editAbandon => exact gatedRequest_links h _ _ fun _ _ _ ht => ht
  | tableCheck => exact gatedRequest_links h _ _ fun _ _ _ ht => ht
  | tableCommit => exact gatedRequest_links h _ _ fun _ _ _ ht => ht
  | snapshotAnswer => exact execSnapshotAnswer_links h
  | gainAdjust => exact execGainAdjust_links h
  | gainAdjustAnswer => exact execGainAdjustAnswer_links h
  | adoptionNotice => exact linksNext (withFate_links h true)
  | discardNotice => exact linksNext (withFate_links h false)
  | claimQuery => exact execClaimQuery_links h
  | holdTimerExpiry => exact execHoldTimerExpiry_links h
  | linkLossNotice l => exact execLinkLossNotice_links h l
  | reuReset => exact linksNext (h.withReset _ fun _ _ ht => ht)
  -- the Sample Store
  | memoryClearComplete => exact execMemoryClearComplete_links h
  | playerRead p => exact takePlayerRead_links h p
  | recorderWrite => exact execRecorderWrite_links h
  | holdRequest => exact execHoldRequest_links h
  | releaseNotice => exact execReleaseNotice_links h
  | regionRequest => exact execRegionRequest_links h
  | regionRelease => exact execRegionRelease_links h
  | runningNotice => exact execRunningNotice_links h
  | memoryWrite => exact execMemoryWrite_links h
  | memoryRead => exact execMemoryRead_links h
  | clipDefine => exact execClipDefine_links h
  | clipDelete => exact execClipDelete_links h
  | clipRead => exact execClipRead_links h
  -- the Player Bank
  | plbFrameBoundary => exact afterReads_links h fun _ ht => ht
  | playerReadAnswer p => exact linksNext (takeReadAnswer_links h p)
  | holdAnswer => exact afterReads_links h fun _ => takeHoldAnswer_links
  | playNow => exact execPlayNow_links h
  | playNext => exact execPlayNext_links h
  | stopNow => exact execStopNow_links h
  | stopEnd => exact execStopEnd_links h
  | playerStatus => exact execPlayerStatus_links h
  | plbReset => exact execPlbReset_links h
  -- the Recorder Unit
  | recorderInputWord r => exact execRecorderInputWord_links h r
  | recordSetup => exact execRecordSetup_links h
  | regionAnswer => exact execRegionAnswer_links h
  | recordStart => exact execRecordStart_links h
  | recordStop => exact execRecordStop_links h
  | recorderStatus => exact execRecorderStatus_links h
  | rcuReset => exact execRcuReset_links h
  -- the Event Unit
  | eventReport b => exact execEventReport_links h b
  | eventsRead => exact execEventsRead_links h
  | counterNotice => exact execCounterNotice_links h
  | countersRead => exact execCountersRead_links h
  | counterAnswer => exact execCounterAnswer_links h
  | indicatorSet => exact execIndicatorSet_links h
  | stateNotice l => exact execStateNotice_links h l
  | completionReport l => exact execCompletionReport_links h l
  | pulseTimerExpiry n => exact linksNext h
  | blinkPhase g => exact execBlinkPhase_links h g
  | evuReset => exact execEvuReset_links h

theorem tick_links : s.tick.LinksSound := by
  intro l
  have hport : s.tick.lp[l] = LP.tick s.lp[l] := Vector.getElem_map _ l.isLt
  rw [hport]
  exact Eased.sound (p := s.lp[l]) (.of_eq rfl rfl rfl rfl) (h l)

end Commands

/-- Settles O7: a tick moves timers alone, and every command keeps every Link Port sound. -/
theorem stepKeepsTheLinksSound : Obligations.StepKeepsTheLinksSound := by
  intro s t hs hstep
  unfold step at hstep
  split at hstep
  next c rest _ =>
    have hs' : ({ s with pending := rest } : State).LinksSound := hs
    exact exec_links hs' c t hstep
  next => exact linksNext (tick_links hs) t hstep

end Sys2Proof.LinkPorts
end

section
/-! SUPPORT. What is due comes first (log entries 10 and 22): an event of a Link Port looks only at the settled
link, an event of the Player Bank only at the state after the reads, and the sixteenth frame of a run acts
before the event that comes after it. -/

namespace Sys2Proof.DueFirst

open Sys2Proof.Machine Sys2Proof.Laws Sys2Proof.LinkRest

/-! ## Link Ports -/

section Links

variable {s u : State} {l : Link}

theorem ran_cons {c : Instr} {cs : List Instr} {t : State} (h : exec c s = .next u)
    (hrest : Ran cs u t) : Ran (c :: cs) s t := ⟨u, h, hrest⟩

theorem ran_nil (s : State) : Ran [] s s := rfl

/-- The due events, each taken by its own command, settle the link. -/
theorem ran_dueEvents (s : State) (l : Link) : Ran (dueEvents l) s (s.settleLink l) :=
  ran_cons (u := s.dueResponseSent l) rfl <| ran_cons (u := State.dueAlignmentAcquired _ l) rfl <|
  ran_cons (u := State.dueAlignmentLoss _ l) rfl <| ran_cons (u := State.dueWindowPass _ l) rfl <|
  ran_cons (u := State.dueWindowFail _ l) rfl <| ran_cons (u := State.dueTrainLimit _ l) rfl <|
  ran_cons (u := State.dueRestEntered _ l) rfl <| ran_cons (u := State.dueClearRunComplete _ l) rfl <|
  ran_nil _

/-- Every later event begins with what is due, so it does not tell two states apart that settle alike. -/
theorem exec_congr_of_settleLink (h : s.settleLink l = u.settleLink l) {c : Instr}
    (hc : c ∈ laterEvents l) : exec c s = exec c u := by
  simp only [laterEvents, List.mem_cons, List.not_mem_nil, or_false] at hc
  rcases hc with rfl | rfl | rfl | rfl | rfl | rfl | rfl | rfl | rfl | rfl | rfl | rfl | rfl | rfl | rfl | rfl
  · change execSignalDetect l s = execSignalDetect l u
    unfold execSignalDetect
    rw [h]
  · change execSignalLoss l s = execSignalLoss l u
    unfold execSignalLoss
    rw [h]
  · change execNegotiationTimerExpiry l s = execNegotiationTimerExpiry l u
    unfold execNegotiationTimerExpiry
    rw [h]
  · change execRestoreTimerExpiry l s = execRestoreTimerExpiry l u
    unfold execRestoreTimerExpiry
    rw [h]
  · change execRestHoldTimerExpiry l s = execRestHoldTimerExpiry l u
    unfold execRestHoldTimerExpiry
    rw [h]
  · change execWakeTimerExpiry l s = execWakeTimerExpiry l u
    unfold execWakeTimerExpiry
    rw [h]
  · change execUseNotice l s = execUseNotice l u
    unfold execUseNotice
    rw [h]
  · change execLinkFrameTransmit l s = execLinkFrameTransmit l u
    unfold execLinkFrameTransmit
    rw [h]
  · change execMessageDiscardReport l s = execMessageDiscardReport l u
    unfold execMessageDiscardReport
    rw [h]
  · change execHeldMove l s = execHeldMove l u
    unfold execHeldMove
    rw [h]
  · change execLpReset l s = execLpReset l u
    unfold execLpReset
    rw [h]
  · change execLinkSet l s = execLinkSet l u
    unfold execLinkSet
    rw [h]
  · change execLinkStatus l s = execLinkStatus l u
    unfold execLinkStatus
    rw [h]
  · change execLinkRenegotiate l s = execLinkRenegotiate l u
    unfold execLinkRenegotiate
    rw [h]
  · change execPartnerRead l s = execPartnerRead l u
    unfold execPartnerRead
    rw [h]
  · change execCounterQuery l s = execCounterQuery l u
    unfold execCounterQuery
    rw [h]

/-- So does a received frame. -/
theorem receivedFrame_congr_of_settleLink (h : s.settleLink l = u.settleLink l) (w : Word)
    (payload : Vector Word 64) :
    exec (.receivedFrame l w payload) s = exec (.receivedFrame l w payload) u := by
  change execReceivedFrame l w payload s = execReceivedFrame l w payload u
  unfold execReceivedFrame
  rw [h]

/-- Where nothing is due, no due event does anything. -/
theorem dueEvents_settled (h : LP.Settled s.lp[l]) {c : Instr} (hc : c ∈ dueEvents l) :
    exec c s = .next s := by
  have orNot {p q : Prop} (k : p → q) : ¬p ∨ q := (em p).elim (fun hp => .inr (k hp)) .inl
  simp only [dueEvents, List.mem_cons, List.not_mem_nil, or_false] at hc
  rcases hc with rfl | rfl | rfl | rfl | rfl | rfl | rfl | rfl
  · exact congrArg _ (dueResponseSent_none h.sent)
  · exact congrArg _ (dueAlignmentAcquired_none (orNot h.acquired))
  · exact congrArg _ (dueAlignmentLoss_none ((orNot h.aligned).imp_left Bool.eq_false_iff.mpr))
  · exact congrArg _ (dueWindowPass_none (orNot fun ht x hx => (h.window ht x hx).2))
  · exact congrArg _ (dueWindowFail_none (orNot fun ht x hx => (h.window ht x hx).1))
  · exact congrArg _ (dueTrainLimit_none (orNot h.frames))
  · exact congrArg _ (dueRestEntered_none fun ⟨hup, hown, hrun⟩ => hrun.not_gt (h.rest hup hown))
  · exact congrArg _ (dueClearRunComplete_none fun ⟨hwake, hrun⟩ => hrun.not_gt (h.wake hwake))

theorem linkEventsFollowWhatIsDue : Piece.LinkEventsFollowWhatIsDue := by
  refine fun l s => ⟨⟨_, ran_dueEvents s l, fun hsettled => ?_⟩, fun h c => dueEvents_settled h⟩
  have hsame : s.settleLink l = (s.settleLink l).settleLink l := (settleLink_settled hsettled).symm
  exact ⟨fun c => exec_congr_of_settleLink hsame, receivedFrame_congr_of_settleLink hsame⟩

end Links

/-! ## The sixteenth frame (R122, R126) -/

section Sixteenth

variable {s : State} {l : Link}

/-- On a running link without a message sent to its end and without a lost alignment, only the ends of the
two runs can be due. -/
theorem settleLink_running (hrun : (LP.state s.lp[l]).running = true)
    (hsent : ∀ m ∈ (LP.txq s.lp[l]).head?, LP.txSent s.lp[l] < m.octets.length)
    (hbad : (LP.align s.lp[l]).badRun < 4) :
    s.settleLink l = (s.dueRestEntered l).dueClearRunComplete l := by
  have hlisten : LP.state s.lp[l] ≠ .listen := fun h => by rw [h] at hrun; cases hrun
  have htrain : LP.state s.lp[l] ≠ .train := fun h => by rw [h] at hrun; cases hrun
  unfold State.settleLink State.settleFrame
  rw [dueResponseSent_none hsent, dueAlignmentAcquired_none (.inl hlisten),
    dueAlignmentLoss_none (.inr hbad), dueWindowPass_none (.inl htrain),
    dueWindowFail_none (.inl htrain), dueTrainLimit_none (.inl htrain)]

/-- The state in which the sixteenth frame of the set run has taken a link to REST. -/
def rested (s : State) (l : Link) : State :=
  linkState s l (fun p => p.enter .rest s.mgu.label s.unit)
    { s.mail with
      stateNotices := updAt s.mail.stateNotices l (· ++ [.rest])
      viewNotices := updAt s.mail.viewNotices l (· ++ [⟨.rest, LP.slotCount s.lp[l]⟩])
      reports := s.mail.reports ++ [(.lp l, ⟨.restEntered, l.val, LP.slotCount s.lp[l], none⟩)] }

theorem rested_lp (s : State) (l : Link) :
    (rested s l).lp[l] = LP.enter s.lp[l] .rest s.mgu.label s.unit := linkState_lp _ _ _ _

/-- R121: a complete set run with the own RST flag set is settled by entering REST. -/
theorem settleLink_rested (hup : LP.state s.lp[l] = .up) (hown : (LP.rest s.lp[l]).ownRst = true)
    (hrun : 16 ≤ (LP.rest s.lp[l]).setRun)
    (hsent : ∀ m ∈ (LP.txq s.lp[l]).head?, LP.txSent s.lp[l] < m.octets.length)
    (hbad : (LP.align s.lp[l]).badRun < 4) : s.settleLink l = rested s l := by
  have hrest : s.dueRestEntered l = rested s l :=
    Host.Outcome.next.inj (execRestEntered_due hup hown hrun)
  rw [settleLink_running (by rw [hup]; rfl) hsent hbad, hrest]
  refine dueClearRunComplete_none fun ⟨hwake, _⟩ => ?_
  rw [rested_lp] at hwake
  cases hwake

/-- Nothing is due on the link that has entered REST. -/
theorem settled_rested (hsent : ∀ m ∈ (LP.txq s.lp[l]).head?, LP.txSent s.lp[l] < m.octets.length)
    (hbad : (LP.align s.lp[l]).badRun < 4) : LP.Settled (rested s l).lp[l] := by
  rw [rested_lp]
  exact ⟨hsent, nofun, fun _ => hbad, nofun, nofun, nofun, nofun⟩

/-- R125: a complete clear run is settled by the return to UP. -/
theorem settleLink_returned (hwake : LP.state s.lp[l] = .wake) (hrun : 16 ≤ (LP.rest s.lp[l]).clearRun)
    (hsent : ∀ m ∈ (LP.txq s.lp[l]).head?, LP.txSent s.lp[l] < m.octets.length)
    (hbad : (LP.align s.lp[l]).badRun < 4) :
    s.settleLink l = linkState s l (fun p => p.enter .up s.mgu.label s.unit)
      { s.mail with
        stateNotices := updAt s.mail.stateNotices l (· ++ [.up])
        viewNotices := updAt s.mail.viewNotices l (· ++ [⟨.up, LP.slotCount s.lp[l]⟩]) } := by
  rw [settleLink_running (by rw [hwake]; rfl) hsent hbad,
    dueRestEntered_none fun ⟨hup, _⟩ => by rw [hwake] at hup; cases hup]
  exact Host.Outcome.next.inj (execClearRunComplete_due hwake hrun)

/-- R126: no wake timer expires on a link that has left WAKE. -/
theorem execWakeTimerExpiry_elsewhere (h : LP.state (s.settleLink l).lp[l] ≠ .wake) :
    exec (.wakeTimerExpiry l) s = .next (s.settleLink l) := by
  change execWakeTimerExpiry l s = _
  unfold execWakeTimerExpiry
  generalize s.settleLink l = u at h ⊢
  dsimp only
  split
  next hwake _ => exact absurd hwake h
  next => rfl

/-- Notices sent one after another stand in their order. -/
theorem updAt_append_append {α : Type} (v : Vector (List α) 8) (l : Link) (x y : α) :
    updAt (updAt v l (· ++ [x])) l (· ++ [y]) = updAt v l (· ++ [x, y]) := by
  rw [updAt_updAt]
  simp only [List.append_assoc, List.cons_append, List.nil_append]

theorem sixteenthFrameComesFirst : Piece.SixteenthFrameComesFirst := by
  refine fun l s hsent hbad => ⟨fun rest hup hown hrun hunused hnotice => ?rest, fun hwake hrun => ?wake⟩
  case rest =>
    have hsettled : LP.Settled (rested s l).lp[l] := settled_rested hsent hbad
    have hsame : s.settleLink l = (rested s l).settleLink l := by
      rw [settleLink_rested hup hown hrun hsent hbad, settleLink_settled hsettled]
    obtain ⟨-, -, hwakes, -, -⟩ := useNoticeActs l (rested s l) true rest hnotice hsettled
    obtain ⟨t, hexec, honly, hstate, hrest, htimer, htxq, hmail⟩ :=
      hwakes rfl (by rw [rested_lp]; exact hunused) (by rw [rested_lp]; rfl)
    rw [rested_lp] at hrest htxq hmail
    refine ⟨t, ?_, (linkState_onlyLink s l _ _).trans honly, hstate, hrest, htimer, htxq, ?_⟩
    · rw [exec_congr_of_settleLink hsame (by simp [laterEvents]), hexec]
    · rw [hmail]
      simp only [rested, linkState_mail, onMail_mail, updAt_append_append]
      rfl
  case wake =>
    have hsettle := settleLink_returned hwake hrun hsent hbad
    refine ⟨_, execWakeTimerExpiry_elsewhere ?_, ?_⟩
    · rw [hsettle, linkState_lp, enter_state]
      decide
    · rw [hsettle]
      refine ⟨linkState_onlyLink _ _ _ _, ?_⟩
      rw [linkState_lp, enter_up_of_wake hwake]
      exact ⟨rfl, rfl, rfl, rfl⟩

end Sixteenth

/-! ## The Player Bank (R145, R151, R154) -/

section Players

variable {s u : State}

/-- The reads of some players, each taken and answered by its commands, are the reads completed. -/
theorem ran_reads_iff (ps : List Player) (s u : State) :
    Ran (ps.flatMap fun p => [.playerRead p, .playerReadAnswer p]) s u ↔
      s.settleReads ps = .next u := by
  induction ps generalizing s with
  | nil => exact ⟨fun h => congrArg _ h.symm, fun h => (Host.Outcome.next.inj h).symm⟩
  | cons p ps ih =>
    have hread : exec (.playerRead p) s = s.takePlayerRead p := rfl
    rw [List.flatMap_cons]
    simp only [List.cons_append, List.nil_append, Ran, hread, State.settleReads]
    constructor
    · rintro ⟨a, ha, b, hb, hrest⟩
      obtain rfl := Host.Outcome.next.inj hb
      rw [ha]
      exact (ih _).mp hrest
    · intro h
      split at h
      next a ha => exact ⟨a, ha, _, rfl, (ih _).mpr h⟩
      next => cases h
      next => cases h

theorem advancePlayer_playerReads (s : State) (p : Player) :
    (s.advancePlayer p).mail.playerReads = s.mail.playerReads := by
  unfold State.advancePlayer
  dsimp only
  split
  · rfl
  · split_ifs <;> rfl

theorem takeReadAnswer_playerReads (s : State) (p : Player) :
    (s.takeReadAnswer p).mail.playerReads = s.mail.playerReads := by
  unfold State.takeReadAnswer
  split
  · dsimp only
    split
    · exact advancePlayer_playerReads _ _
    · rfl
  · rfl

/-- R129, R131: reads of addresses that exist are completed. -/
theorem settleReads_completes (ps : List Player) (h : ∀ r ∈ s.mail.playerReads, r.addr < 131072) :
    ∃ u, s.settleReads ps = .next u := by
  induction ps generalizing s with
  | nil => exact ⟨s, rfl⟩
  | cons p ps ih =>
    unfold State.settleReads State.takePlayerRead
    cases hfirst : takeFirst (fun r => r.player == p) s.mail.playerReads with
    | none =>
      refine ih ?_
      rw [takeReadAnswer_playerReads]
      exact h
    | some taken =>
      obtain ⟨hmem, -, hrest⟩ := takeFirst_mem hfirst
      simp only [if_neg (Nat.not_le.mpr (show taken.1.addr < Config.memoryWords from h _ hmem))]
      refine ih ?_
      rw [takeReadAnswer_playerReads]
      exact fun r hr => h r (hrest r hr)

theorem playerEventsFollowTheReads : Piece.PlayerEventsFollowTheReads := by
  refine fun s => ⟨fun h => ?_, fun u hran hreads hanswers c hc => ?_⟩
  · obtain ⟨u, hu⟩ := settleReads_completes allEight h
    exact ⟨u, (ran_reads_iff allEight s u).mpr hu⟩
  · have hsettled : s.settleReads allEight = .next u := (ran_reads_iff allEight s u).mp hran
    have same (f : State → State) : s.afterReads f = u.afterReads f :=
      (afterReads_of hsettled f).trans (afterReads_none hreads hanswers f).symm
    simp only [List.mem_cons, List.not_mem_nil, or_false] at hc
    rcases hc with rfl | rfl | rfl | rfl | rfl | rfl | rfl | rfl
    all_goals exact same _

end Players

/-- Settles O14: each event is a function of the settled link or of the state after the reads, and the due
events are what settles. -/
theorem whatIsDueComesFirst : Obligations.WhatIsDueComesFirst :=
  ⟨linkEventsFollowWhatIsDue, sixteenthFrameComesFirst, playerEventsFollowTheReads⟩

end Sys2Proof.DueFirst
end

section
/-! SUPPORT. What a Link Port does for the other blocks: the reads it answers, the orders of the Management Unit
it carries out (R81, R112, R115, R116, R186), and RESET DEVICE (R88, R117, R128). -/

namespace Sys2Proof.LinkOrders

open Sys2Proof.Machine Sys2Proof.Laws Sys2Proof.LinkRest

/-! ## Orders of the Management Unit (R81, R112) -/

section Orders

variable {s : State} {l : Link}

theorem execMessageDiscardReport_taken (hsettled : LP.Settled s.lp[l])
    (horder : 0 < s.mail.discardOrders[l]) :
    exec (.messageDiscardReport l) s = .next ((s.onMail fun m =>
      { m with discardOrders := updAt m.discardOrders l (· - 1) }).onLp l fun p =>
        { p with counters := { p.counters with discarded := satInc p.counters.discarded } }) := by
  change execMessageDiscardReport l s = _
  unfold execMessageDiscardReport
  rw [settleLink_settled hsettled]
  exact if_pos horder

/-- R112, R174: the order is taken from the mail and the held move carried out. -/
theorem execHeldMove_taken (hsettled : LP.Settled s.lp[l]) (horder : 0 < s.mail.moveOrders[l]) :
    exec (.heldMove l) s = .next ((s.onMail fun m =>
      { m with moveOrders := updAt m.moveOrders l (· - 1) }).carryHeldMove l) := by
  change execHeldMove l s = _
  unfold execHeldMove
  rw [settleLink_settled hsettled]
  exact if_pos horder

theorem carryHeldMove_none (h : LP.heldMove s.lp[l] = false) : s.carryHeldMove l = s :=
  if_neg (Bool.eq_false_iff.mp h)

/-- R112: where a held move takes a running link. -/
def heldTarget (p : LP) : LinkState := if p.cfg.enable then .listen else .disabled

theorem heldTarget_running (p : LP) : (heldTarget p).running = false := by
  unfold heldTarget
  split <;> rfl

theorem beyondListen_of_running {st : LinkState} (h : st.running = true) : st.beyondListen = true := by
  cases st <;> first | rfl | cases h

/-- R91, R112: a running link that carries out its held move leaves the running states. -/
theorem carryHeldMove_running (hheld : LP.heldMove s.lp[l] = true)
    (hrun : (LP.state s.lp[l]).running = true) :
    s.carryHeldMove l = linkState s l
      (fun p => (dropped { p with heldMove := false }).enter (heldTarget s.lp[l]) s.mgu.label s.unit)
      (leftMail l s.lp[l] (heldTarget s.lp[l]) s.mail) := by
  have hmove : s.carryHeldMove l =
      (s.onLp l fun p => { p with heldMove := false }).moveLink l (heldTarget s.lp[l]) := by
    refine (if_pos hheld).trans ?_
    cases henable : (LP.cfg s.lp[l]).enable with
    | false =>
      rw [show heldTarget s.lp[l] = .disabled from if_neg (Bool.eq_false_iff.mp henable)]
      exact if_pos rfl
    | true =>
      rw [show heldTarget s.lp[l] = .listen from if_pos henable]
      exact (if_neg (by decide)).trans (if_pos (beyondListen_of_running hrun))
  rw [hmove]
  exact linkState_leave (F := fun p => { p with heldMove := false }) hrun (heldTarget_running _) rfl

/-- R87: a link that leaves the running states holds no message in the state it enters. -/
theorem enter_dropped_txq (p : LP) (new : LinkState) (label : List Byte) (unit : BitVec 4) :
    ((dropped p).enter new label unit).txq = [] := by
  rw [enter_txq]
  split <;> rfl

theorem managementOrdersAreCarriedOut : Piece.ManagementOrdersAreCarriedOut := by
  intro l s hsettled
  refine ⟨execMessageDiscardReport_taken hsettled, fun horder hheld hrun => ?held,
    fun horder hnone => ?none⟩
  case held =>
    have hcarried := carryHeldMove_running (s := s.onMail fun m =>
      { m with moveOrders := updAt m.moveOrders l (· - 1) }) hheld hrun
    refine ⟨_, (execHeldMove_taken hsettled horder).trans (congrArg _ hcarried),
      (OnlyLink.onMail l s _).trans (linkState_onlyLink _ _ _ _), ?_⟩
    rw [linkState_lp, enter_heldMove, enter_state, enter_dropped_txq, enter_cfg]
    exact ⟨rfl, rfl, rfl, rfl, rfl, updAt_same _ _ _, updAt_same _ _ _, rfl⟩
  case none =>
    rw [execHeldMove_taken hsettled horder, carryHeldMove_none (s := s.onMail _) hnone]

end Orders

/-! ## Reads (R115, R116, R186) -/

section Reads

variable {s s' : State} {l : Link} {req : Req}

/-- R202: the link status record has 26 octets. -/
theorem statusOctets_length (p : LP) : p.statusOctets.length = 26 := by
  have hbool (b : Bool) : (uBool b).length = 1 := by cases b <;> rfl
  simp [LP.statusOctets, Counters.octets, u8, u16, hbool]

/-- A request handed to a Link Port leaves the Link Ports as they stand. -/
theorem handed_lp (h : Handed (.lp l) req s s') : s'.lp = s.lp := by
  obtain ⟨rest, -, rfl⟩ := h
  rfl

theorem execLinkStatus_taken (hsettled : LP.Settled s.lp[l]) (h : Handed (.lp l) req s s')
    (hk : req.kind = .linkStatus) :
    exec (.linkStatus l) s = .next (s'.answer (.lp l) req .ok (LP.statusOctets s.lp[l])) := by
  change execLinkStatus l s = _
  unfold execLinkStatus
  rw [settleLink_settled hsettled, kindRequest_handed h hk, handed_lp h]

theorem execPartnerRead_taken (hsettled : LP.Settled s.lp[l]) (h : Handed (.lp l) req s s')
    (hk : req.kind = .partnerRead) :
    exec (.partnerRead l) s = .next (match LP.partner s.lp[l] with
      | some r => s'.answer (.lp l) req .ok r.octets
      | none => s'.answer (.lp l) req .notFound []) := by
  change execPartnerRead l s = _
  unfold execPartnerRead
  rw [settleLink_settled hsettled, kindRequest_handed h hk, handed_lp h] <;> rfl

theorem execCounterQuery_taken (hsettled : LP.Settled s.lp[l]) {clear : Bool}
    (hquery : s.mail.counterQuery = some (l, clear)) :
    exec (.counterQuery l) s = .next ((s.onMail fun m =>
      { m with counterQuery := none, counterAnswer := some (l, LP.counters s.lp[l]) }).onLp l
        fun p => { p with counters := if clear then ⟨0, 0, 0, 0, 0, 0⟩ else p.counters }) := by
  change execCounterQuery l s = _
  unfold execCounterQuery
  rw [settleLink_settled hsettled]
  simp only [hquery, if_true]
  rfl

theorem linkReadsAnswer : Piece.LinkReadsAnswer := by
  refine fun l s hsettled => ⟨fun s' req h => ⟨fun hk =>
    ⟨execLinkStatus_taken hsettled h hk, statusOctets_length _⟩, fun hk => ⟨fun hnone => ?_,
      fun r hsome => ?_⟩⟩, fun clear => execCounterQuery_taken hsettled⟩
  · rw [execPartnerRead_taken hsettled h hk, hnone]
  · rw [execPartnerRead_taken hsettled h hk, hsome]

end Reads

/-- Settles O25: each command takes its order or request from the mail, and reads or writes the one field it
names. -/
theorem linkReadsAndManagementOrders : Obligations.LinkReadsAndManagementOrders :=
  ⟨managementOrdersAreCarriedOut, linkReadsAnswer⟩

/-! ## RESET DEVICE (R88, R117, R128) -/

section Reset

variable {s s' : State} {l : Link}

/-- What a Link Port that goes to DOWN keeps of what RESET DEVICE does not set: no move is held, the used flag
and the receive frame stay, and the restore timer runs from the entry. -/
structure GoneDown (p r : LP) : Prop where
  state : r.state = .down
  heldMove : r.heldMove = false
  used : r.rest.used = p.rest.used
  rx : r.rx = p.rx
  restore : r.timers.restore = if p.state = .down then p.timers.restore else some 0

/-- What a link that takes RESET DEVICE leaves in the mail. -/
structure ResetMail (l : Link) (s : State) (m : Mail) : Prop where
  reports : m.reports = s.mail.reports
  resets : m.resets = s.mail.resets
  acks : m.acks = s.mail.acks
  lost : (LP.state s.lp[l]).running = true →
    m.lossNotices[l] = s.mail.lossNotices[l] + 1 ∧
    m.viewNotices[l] = s.mail.viewNotices[l] ++ [⟨.out, 0⟩]

/-- R88, R91, R117: the link goes to DOWN, from where it stands, and then takes its reset values. -/
theorem resetLp_eq (s : State) (l : Link) : ∃ (down : LP → LP) (m : Mail),
    s.resetLp l = linkState s l (fun p => (down p).deviceReset) m ∧ GoneDown s.lp[l] (down s.lp[l]) ∧
      ResetMail l s m := by
  have hreset : s.resetLp l = ((linkState s l (fun p => { p with heldMove := false }) s.mail).moveLink l
      .down).onLp l LP.deviceReset := rfl
  by_cases hdown : LP.state s.lp[l] = .down
  · rw [linkState_same hdown rfl, linkState_onLp] at hreset
    exact ⟨_, _, hreset, ⟨hdown, rfl, rfl, rfl, (if_pos hdown).symm⟩, rfl, rfl, rfl,
      fun hrun => by rw [hdown] at hrun; cases hrun⟩
  · cases hrun : (LP.state s.lp[l]).running with
    | false =>
      rw [linkState_stopped hdown hrun rfl, linkState_onLp] at hreset
      exact ⟨_, _, hreset, ⟨rfl, rfl, rfl, rfl, (if_neg hdown).symm⟩, rfl, rfl, rfl,
        fun h => by rw [hrun] at h; cases h⟩
    | true =>
      rw [linkState_leave hrun rfl rfl, linkState_onLp] at hreset
      exact ⟨_, _, hreset, ⟨rfl, rfl, rfl, rfl, (if_neg hdown).symm⟩, rfl, rfl, rfl,
        fun _ => ⟨updAt_same _ _ _, updAt_same _ _ _⟩⟩

/-- R177: the acknowledgment goes out where the Management Unit waits for it. -/
theorem execLpReset_taken {o : ResetOrder} (hsettled : LP.Settled s.lp[l]) (hblock : o.block = .lp l)
    (h : HandedReset o s s') :
    exec (.lpReset l) s = .next ((s'.resetLp l).onMail fun m =>
      { m with acks := if o.ack then m.acks ++ [.lp l] else m.acks }) := by
  change execLpReset l s = _
  unfold execLpReset
  rw [settleLink_settled hsettled, ← hblock, withReset_handed h]
  cases o.ack <;> rfl

/-- Settles O24: whatever the state the link goes to DOWN from, the reset values do not depend on it. -/
theorem linkPortReset : Obligations.LinkPortReset := by
  intro l s s' o hsettled hblock h
  obtain ⟨down, m, hreset, hdown, hmail⟩ := resetLp_eq s' l
  have honly : OnlyLink l s s' := by
    obtain ⟨rest, -, rfl⟩ := h
    exact OnlyLink.onMail l s _
  have hport : s'.lp[l] = s.lp[l] ∧ s'.mail = { s.mail with resets := s'.mail.resets } := by
    obtain ⟨rest, -, rfl⟩ := h
    exact ⟨rfl, rfl⟩
  obtain ⟨hlp, hsent⟩ := hport
  have hrest : (down s'.lp[l]).deviceReset.rest = ⟨false, false, 0, 0, (LP.rest s'.lp[l]).used⟩ :=
    congrArg (RestState.mk false false 0 0) hdown.used
  have hframing : (down s'.lp[l]).deviceReset.framing = 16 := by
    have hstate : (down s'.lp[l]).deviceReset.state = .down := hdown.state
    rw [LP.framing, hstate]
  have htimers : (down s'.lp[l]).deviceReset.timers = ⟨none,
      if LP.state s'.lp[l] = .down then (LP.timers s'.lp[l]).restore else some 0, none, none⟩ :=
    congrArg (LinkTimers.mk none · none none) hdown.restore
  refine ⟨_, execLpReset_taken hsettled hblock h, ?_⟩
  rw [hreset, linkState_onMail, linkState_lp, linkState_mail, ← hlp]
  refine ⟨honly.trans (linkState_onlyLink _ _ _ _), hdown.state, rfl, rfl, rfl, rfl, rfl, rfl, rfl, rfl,
    hdown.heldMove, hrest, rfl, rfl, rfl, hframing, rfl, rfl, rfl, rfl, rfl, rfl, hdown.rx, rfl, rfl, htimers,
    ?_, hmail.resets, ?_, fun hrun => ?_⟩
  · rw [hmail.reports, hsent]
  · rw [hmail.acks, hsent]
  · obtain ⟨hloss, hview⟩ := hmail.lost hrun
    rw [hsent] at hloss hview
    exact ⟨hloss, hview⟩

end Reset

end Sys2Proof.LinkOrders
end

section
/-! SUPPORT. What a Link Port sends (R73, R75, R77, R86, R96, R104): the fields of a service word as they are read
back, the payload and the service word by the state of the link, and what sending advances. -/

namespace Sys2Proof.FrameOut

open Sys2Proof.Machine Sys2Proof.Laws Sys2Proof.LinkRest

/-! ## Fields of a service word (R196) -/

section ServiceWords

/-- A field above the last one appended is a field of what it was appended to. -/
theorem extractLsb'_past {v w start len : Nat} {x : BitVec v} {y : BitVec w} {z : BitVec len}
    (h : x.extractLsb' start len = z) : (x ++ y).extractLsb' (w + start) len = z := by
  rw [BitVec.extractLsb'_append_eq_of_le (Nat.le_add_right _ _), Nat.add_sub_cancel_left, h]

theorem getLsbD_past {v w i : Nat} {x : BitVec v} {y : BitVec w} {b : Bool} (h : x.getLsbD i = b) :
    (x ++ y).getLsbD (w + i) = b := by
  rw [BitVec.getLsbD_append, if_neg (by omega), Nat.add_sub_cancel_left, h]

theorem getLsbD_append_ofBool {v : Nat} {x : BitVec v} {b : Bool} :
    (x ++ BitVec.ofBool b).getLsbD 0 = b := by
  rw [BitVec.getLsbD_append, if_pos Nat.zero_lt_one]
  cases b <;> rfl

variable (sync : Sync) (code : ServiceCode) (rdy rst : Bool) (q : Nat) (o1 o2 : Byte)

theorem svcOctet2_serviceWord : svcOctet2 (serviceWord sync code rdy rst q o1 o2) = o2 :=
  BitVec.extractLsb'_append_eq_right

theorem svcOctet1_serviceWord : svcOctet1 (serviceWord sync code rdy rst q o1 o2) = o1 :=
  extractLsb'_past BitVec.extractLsb'_append_eq_right

theorem svcQuarter_serviceWord : svcQuarter (serviceWord sync code rdy rst q o1 o2) = q % 4 :=
  (congrArg BitVec.toNat (extractLsb'_past (extractLsb'_past BitVec.extractLsb'_append_eq_right))).trans
    (BitVec.toNat_ofNat q 2)

theorem svcRst_serviceWord : svcRst (serviceWord sync code rdy rst q o1 o2) = rst :=
  getLsbD_past (getLsbD_past (getLsbD_past getLsbD_append_ofBool))

theorem svcRdy_serviceWord : svcRdy (serviceWord sync code rdy rst q o1 o2) = rdy :=
  getLsbD_past (getLsbD_past (getLsbD_past (getLsbD_past getLsbD_append_ofBool)))

theorem svcCode_serviceWord : svcCode (serviceWord sync code rdy rst q o1 o2) = some code := by
  have hfield : (serviceWord sync code rdy rst q o1 o2).extractLsb' 20 4 = code.value :=
    extractLsb'_past <| extractLsb'_past <| extractLsb'_past <| extractLsb'_past <|
      extractLsb'_past BitVec.extractLsb'_append_eq_right
  rw [svcCode, hfield]
  cases code <;> rfl

theorem svcSync_serviceWord : svcSync (serviceWord sync code rdy rst q o1 o2) = some sync := by
  have hfield : (serviceWord sync code rdy rst q o1 o2).extractLsb' 24 8 = sync.octet :=
    extractLsb'_past <| extractLsb'_past <| extractLsb'_past <| extractLsb'_past <|
      extractLsb'_past BitVec.extractLsb'_append_eq_left
  rw [svcSync, hfield]
  cases sync <;> rfl

end ServiceWords

/-- R77: what a service word carries beside its sync value and its flags. -/
def Carries (w : Word) (code : ServiceCode) (quarter : Nat) (o1 o2 : Byte) : Prop :=
  svcCode w = some code ∧ svcQuarter w = quarter ∧ svcOctet1 w = o1 ∧ svcOctet2 w = o2

/-- R77: the service word that the sync pattern and the flags of a Link Port make of a code, a quarter and two
octets. -/
def flagged (p : LP) (code : ServiceCode) (quarter : Nat) (o1 o2 : Byte) : Word :=
  serviceWord p.nextSync code p.rdy p.rest.ownRst quarter o1 o2

theorem flagged_carries (p : LP) (code : ServiceCode) {quarter : Nat} (o1 o2 : Byte)
    (hq : quarter < 4) : Carries (flagged p code quarter o1 o2) code quarter o1 o2 :=
  ⟨svcCode_serviceWord .., (svcQuarter_serviceWord ..).trans (Nat.mod_eq_of_lt hq),
    svcOctet1_serviceWord .., svcOctet2_serviceWord ..⟩

/-! ## The payload (R75, R104) -/

section Payload

variable {p : LP}

theorem enginePayload_handed {f : List Slot} (h : p.txNow = some f) (hlen : f.length = p.framing) :
    p.enginePayload = f := by
  unfold LP.enginePayload
  rw [h]
  exact if_pos hlen

/-- R75: without a frame written for the framing in force, every slot is sent as 0. -/
theorem enginePayload_missing (h : ∀ f, p.txNow = some f → f.length ≠ p.framing) :
    p.enginePayload = List.replicate p.framing Slot.silent := by
  unfold LP.enginePayload
  split
  next f hf => exact if_neg (h f hf)
  next => rfl

theorem enginePayload_length (p : LP) : p.enginePayload.length = p.framing := by
  unfold LP.enginePayload
  split
  · split
    next hlen => exact hlen
    next => exact List.length_replicate
  · exact List.length_replicate

theorem payloadOut_quiet (h : p.state ∈ [LinkState.down, .listen, .negotiate, .rest]) :
    p.payloadOut = List.replicate p.framing Slot.silent := by
  simp only [List.mem_cons, List.not_mem_nil, or_false] at h
  unfold LP.payloadOut
  rcases h with h | h | h | h <;> rw [h]

theorem payloadOut_train (h : p.state = .train) :
    p.payloadOut = trainingPayload p.nextSync p.framing := by
  unfold LP.payloadOut
  rw [h]

theorem payloadOut_engine (h : p.state ∈ [LinkState.up, .wake]) : p.payloadOut = p.enginePayload := by
  simp only [List.mem_cons, List.not_mem_nil, or_false] at h
  unfold LP.payloadOut
  rcases h with h | h <;> rw [h]

/-- R73: a frame has as many slots as the framing in force. -/
theorem payloadOut_length (h : p.state ≠ .disabled) : p.payloadOut.length = p.framing := by
  cases hstate : p.state with
  | disabled => exact absurd hstate h
  | down | listen | negotiate | rest =>
    rw [payloadOut_quiet (by simp [hstate]), List.length_replicate]
  | train => rw [payloadOut_train hstate, trainingPayload, List.length_map, List.length_range]
  | up | wake => rw [payloadOut_engine (by simp [hstate]), enginePayload_length]

/-- R75: a silent slot is sent as the all-zero word. -/
theorem eq_zero_of_mem_silent {n : Nat} {x : Word}
    (h : x ∈ (List.replicate n Slot.silent).map slotWord) : x = 0 := by
  rw [List.map_replicate] at h
  exact (List.eq_of_mem_replicate h).trans (by decide)

theorem trainingSlot_succ (sync : Sync) (i : Nat) : trainingSlot sync (i + 1) = trainingWord sync i := by
  cases sync <;> rfl

/-- R104: the training payload, slot by slot. -/
theorem trainingPayload_eq (sync : Sync) (n : Nat) :
    trainingPayload sync n = (List.range n).map (trainingWord sync) :=
  List.map_congr_left fun i _ => trainingSlot_succ sync i

end Payload

/-! ## The service word (R77, R86, R96) -/

section Service

variable {p : LP}

theorem serviceOut_fill (h : p.state ∈ [LinkState.down, .listen]) :
    p.serviceOut = flagged p .fill 0 0 0 := by
  simp only [List.mem_cons, List.not_mem_nil, or_false] at h
  unfold LP.serviceOut
  rcases h with h | h <;> rw [h] <;> rfl

theorem serviceOut_train (h : p.state = .train) : p.serviceOut = flagged p .train 0 0 0 := by
  unfold LP.serviceOut
  rw [h]
  rfl

theorem serviceOut_negotiate (h : p.state = .negotiate) :
    p.serviceOut = flagged p .page p.pageTx.quarter ((p.pageNow[2 * p.pageTx.quarter]?).getD 0)
      ((p.pageNow[2 * p.pageTx.quarter + 1]?).getD 0) := by
  unfold LP.serviceOut
  rw [h]
  rfl

theorem serviceOut_idle (h : p.state.running = true) (hq : p.txq = []) :
    p.serviceOut = flagged p .fill 0 0 0 := by
  unfold LP.serviceOut
  cases hstate : p.state <;> rw [hstate] at h
  case up | rest | wake => rw [hq]; rfl
  all_goals cases h

theorem serviceOut_message {m : TxMsg} {more : List TxMsg} (h : p.state.running = true)
    (hq : p.txq = m :: more) :
    p.serviceOut = flagged p (messageWord m.octets p.txSent).1 0 (messageWord m.octets p.txSent).2.1
      (messageWord m.octets p.txSent).2.2.1 := by
  unfold LP.serviceOut
  cases hstate : p.state <;> rw [hstate] at h
  case up | rest | wake => rw [hq]; rfl
  all_goals cases h

/-- R77: whatever it carries, the word has the next sync pattern and the flags of the Link Port. -/
theorem serviceOut_flagged (p : LP) : ∃ code quarter o1 o2, p.serviceOut = flagged p code quarter o1 o2 := by
  cases hstate : p.state with
  | disabled => exact ⟨.fill, 0, 0, 0, by rw [LP.serviceOut, hstate]; rfl⟩
  | down | listen => exact ⟨_, _, _, _, serviceOut_fill (by simp [hstate])⟩
  | negotiate => exact ⟨_, _, _, _, serviceOut_negotiate hstate⟩
  | train => exact ⟨_, _, _, _, serviceOut_train hstate⟩
  | up | rest | wake =>
    have hrun : p.state.running = true := by rw [hstate]; rfl
    cases hq : p.txq with
    | nil => exact ⟨_, _, _, _, serviceOut_idle hrun hq⟩
    | cons m more => exact ⟨_, _, _, _, serviceOut_message hrun hq⟩

/-- R86: the last octet goes alone. -/
theorem messageWord_last {octets : List Byte} {sent : Nat} (h : octets.length = sent + 1) :
    messageWord octets sent = (.msgLast1, (octets[sent]?).getD 0, 0, sent + 1) :=
  if_pos (by omega)

/-- R86: two octets go at a time, the first word of a message marked as such and the last one also. -/
theorem messageWord_pair {octets : List Byte} {sent left : Nat} (h : octets.length = sent + left)
    (hleft : 2 ≤ left) :
    messageWord octets sent =
      (if sent = 0 then .msgFirst else if left = 2 then .msgLast2 else .msgMore,
        (octets[sent]?).getD 0, (octets[sent + 1]?).getD 0, sent + 2) := by
  have hrest : octets.length - sent = left := by omega
  unfold messageWord
  dsimp only
  rw [hrest, if_neg (show left ≠ 1 by omega)]
  by_cases hfirst : sent = 0
  · subst hfirst
    rfl
  · rw [if_neg hfirst, if_neg hfirst]
    split <;> rfl

/-- R96: a page other than a base page with the ACK flag goes out as it was built. -/
theorem startPage_plain {pages : List (List Byte)} {i : Nat} {ack : Bool} (h : i ≠ 0 ∨ ack = false) :
    startPage pages i ack = (pages[i]?).getD [] := by
  refine if_neg fun hand => ?_
  obtain ⟨hi, hack⟩ := Bool.and_eq_true_iff.mp hand
  exact h.elim (fun h => h (of_decide_eq_true hi)) fun h => by rw [h] at hack; cases hack

/-- R96, R197: the base page takes the ACK flag of the moment it starts. -/
theorem startPage_ack {pages : List (List Byte)} {a b : Byte} {more : List Byte}
    (h : pages[0]? = some (a :: b :: more)) :
    startPage pages 0 true = a :: (b ||| 0x20#8) :: more := by
  simp [startPage, h]

theorem nextQuarter_within (h : p.pageTx.quarter < 3) :
    p.nextQuarter = { p.pageTx with quarter := p.pageTx.quarter + 1, now := p.pageNow } := if_pos h

theorem nextQuarter_last (h : p.pageTx.quarter = 3) :
    p.nextQuarter = { p.pageTx with
      quarter := 0
      now := p.pageNow
      index := if p.pageTx.index + 1 < p.pageTx.pages.length then p.pageTx.index + 1 else 0 } :=
  if_neg (by omega)

end Service

/-! ## One frame sent -/

section Sent

variable {s : State} {l : Link} {p : LP}

theorem transmit_quiet (h : p.held = true ∨ p.state = .disabled) :
    p.transmit = { p with line := none } := if_pos h

theorem transmit_sends (hheld : p.held = false) (hstate : p.state ≠ .disabled) :
    p.transmit = { p with
      line := some ⟨p.serviceOut, p.payloadOut.map slotWord⟩
      nextSync := p.nextSync.other
      pageTx := if p.state = .negotiate then p.nextQuarter else p.pageTx
      txSent :=
        if p.state.running then
          match p.txq with
          | [] => p.txSent
          | m :: _ => (messageWord m.octets p.txSent).2.2.2
        else p.txSent } :=
  if_neg fun h => h.elim (fun h => by rw [hheld] at h; cases h) hstate

theorem transmit_state (p : LP) : p.transmit.state = p.state := by
  unfold LP.transmit
  split <;> rfl

theorem transmit_txq (p : LP) : p.transmit.txq = p.txq := by
  unfold LP.transmit
  split <;> rfl

theorem execLinkFrameTransmit_settled (hsettled : LP.Settled s.lp[l]) :
    exec (.linkFrameTransmit l) s = .next (s.onLp l LP.transmit) := by
  change execLinkFrameTransmit l s = _
  unfold execLinkFrameTransmit
  rw [settleLink_settled hsettled]

theorem linkFrameIsSent : Piece.LinkFrameIsSent := by
  intro l s hsettled
  refine ⟨_, execLinkFrameTransmit_settled hsettled, OnlyLink.onLp _ _ _, rfl, ?_⟩
  rw [onLp_get]
  generalize s.lp[l] = p
  refine ⟨transmit_state p, transmit_txq p, fun hquiet => ?_, fun hheld hstate => ?_⟩
  · rw [transmit_quiet hquiet]
  · obtain ⟨code, quarter, o1, o2, hword⟩ := serviceOut_flagged p
    rw [transmit_sends hheld hstate]
    refine ⟨_, rfl, ?_, rfl, ?_, ?_, ?_, fun h x hx => ?_, fun h => ?_, fun h => ⟨fun g hg hlen => ?_,
      fun hmissing x hx => ?_⟩⟩
    · exact (congrArg svcSync hword).trans (svcSync_serviceWord ..)
    · exact (congrArg svcRst hword).trans (svcRst_serviceWord ..)
    · exact (congrArg svcRdy hword).trans (svcRdy_serviceWord ..)
    · exact List.length_map _ |>.trans (payloadOut_length hstate)
    · rw [payloadOut_quiet h] at hx
      exact eq_zero_of_mem_silent hx
    · dsimp only
      rw [payloadOut_train h, trainingPayload_eq, List.map_map]
      rfl
    · dsimp only
      rw [payloadOut_engine h, enginePayload_handed hg hlen]
    · rw [payloadOut_engine h, enginePayload_missing hmissing] at hx
      exact eq_zero_of_mem_silent hx

theorem serviceWordIsSent : Piece.ServiceWordIsSent := by
  intro l s hsettled hheld hstate
  refine ⟨_, ⟨LP.serviceOut s.lp[l], (LP.payloadOut s.lp[l]).map slotWord⟩,
    execLinkFrameTransmit_settled hsettled, ?_⟩
  rw [onLp_get, transmit_sends hheld hstate]
  generalize (s.lp[l] : LP) = p
  dsimp only
  have carries {code : ServiceCode} {q : Nat} {o1 o2 : Byte} (h : p.serviceOut = flagged p code q o1 o2)
      (hq : q < 4) : Carries p.serviceOut code q o1 o2 := h ▸ flagged_carries p code o1 o2 hq
  refine ⟨rfl, fun h => carries (serviceOut_fill h) (by decide),
    fun h => carries (serviceOut_train h) (by decide), fun h q page hq hlt hpage => ?page,
    fun hrun => ⟨fun hnone => ?idle, fun m more left hm hleft => ?message⟩⟩
  case page =>
    have hnow : p.pageNow = page := by
      subst hq
      exact hpage.symm
    subst hq
    rw [if_pos h]
    refine ⟨hnow ▸ carries (serviceOut_negotiate h) hlt, fun hq => hnow ▸ nextQuarter_within hq,
      fun hq => hnow ▸ nextQuarter_last hq, fun i hq hi hplain => ?_, fun a b more hq hi hack hbase => ?_⟩
    · rw [hpage, if_pos hq, hi, startPage_plain hplain]
    · rw [hpage, if_pos hq, hi, hack, startPage_ack hbase]
  case idle =>
    rw [if_pos hrun, hnone]
    exact ⟨carries (serviceOut_idle hrun hnone) (by decide), rfl⟩
  case message =>
    have hword := serviceOut_message hrun hm
    rw [if_pos hrun, hm]
    dsimp only
    refine ⟨fun hlast => ?_, fun hpair => ?_⟩
    · rw [messageWord_last (hlast ▸ hleft)] at hword ⊢
      exact ⟨carries hword (by decide), rfl⟩
    · rw [messageWord_pair hleft hpair] at hword ⊢
      exact ⟨carries hword (by decide), rfl⟩

/-- R86: a message sent to its end leaves its place. -/
theorem sentMessageLeavesItsPlace : Piece.SentMessageLeavesItsPlace := by
  intro l s m rest hq hend
  have hdue : s.dueResponseSent l =
      ((s.onLp l fun p => { p with txq := rest, txSent := 0 }).toMgu l [.sent m.place m.ref]).completion
        l := by
    unfold State.dueResponseSent
    simp only [hq]
    exact if_pos hend
  exact ⟨_, congrArg Host.Outcome.next hdue, rfl, rfl, rfl⟩

end Sent

/-- Settles O23: the frame is read off the state of the link, field by field, and a message leaves its place in
the event after its last octet. -/
theorem framesAndMessagesAreSent : Obligations.FramesAndMessagesAreSent :=
  ⟨linkFrameIsSent, serviceWordIsSent, sentMessageLeavesItsPlace⟩

end Sys2Proof.FrameOut
end

section
/-! SUPPORT. A received frame, sync and code (R78, R80, R81), and a frame in TRAIN (R100, R104 to R107): what is
judged, and the good word with RDY set that brings the link up. -/

namespace Sys2Proof.FrameIn

open Sys2Proof.Machine Sys2Proof.Laws Sys2Proof.LinkRest

/-! ## Sync and code of a frame received while aligned (R78, R80, R81) -/

section Judged

variable {p : LP} {w : Word}

theorem goodSync_iff (p : LP) (w : Word) :
    p.goodSync (svcSync w) = true ↔ svcSync w = some p.align.expected := by
  simp [LP.goodSync]

theorem goodSync_eq_false (h : svcSync w ≠ some p.align.expected) : p.goodSync (svcSync w) = false :=
  Bool.eq_false_iff.mpr fun hgood => h ((goodSync_iff p w).mp hgood)

/-- R80: the alternation of the pattern and the judgement of the word, whatever its payload and octets. -/
def judged (p : LP) (w : Word) : LP :=
  (p.judgeAligned (p.goodSync (svcSync w))).countCode (p.goodSync (svcSync w)) (svcCode w)

theorem judged_good (h : svcSync w = some p.align.expected) :
    judged p w = { p with
      align := { p.align with expected := p.align.expected.other, badRun := 0 }
      counters :=
        if svcCode w = none then { p.counters with codeErrors := satInc p.counters.codeErrors }
        else p.counters } := by
  rw [judged, (goodSync_iff p w).mpr h]
  cases hcode : svcCode w <;> rfl

theorem judged_bad (h : svcSync w ≠ some p.align.expected) (haligned : p.align.badRun < 4) :
    judged p w = { p with
      align := { p.align with expected := p.align.expected.other, badRun := p.align.badRun + 1 }
      counters := { p.counters with serviceErrors := satInc p.counters.serviceErrors } } := by
  have hrun : min (p.align.badRun + 1) 4 = p.align.badRun + 1 := by omega
  rw [judged, goodSync_eq_false h]
  simp [LP.judgeAligned, LP.countCode, hrun]

end Judged

/-! ## Frames by the state of the link (R78) -/

section ByState

variable {s : State} {l : Link} {w : Word} {payload : Vector Word 64}

theorem execReceivedFrame_settled (hsettled : LP.Settled s.lp[l]) :
    exec (.receivedFrame l w payload) s =
      match LP.state s.lp[l] with
      | .disabled | .down => .next s
      | .listen => .next (s.onLp l fun p => p.judgeListen (svcSync w))
      | .negotiate => .next (s.frameNegotiate l w)
      | .train => .next (s.frameTrain l w payload)
      | .up | .rest | .wake => .next (s.frameRunning l w payload) := by
  change execReceivedFrame l w payload s = _
  unfold execReceivedFrame
  rw [settleLink_settled hsettled] <;> rfl

theorem execReceivedFrame_negotiate (hsettled : LP.Settled s.lp[l]) (h : LP.state s.lp[l] = .negotiate) :
    exec (.receivedFrame l w payload) s = .next (s.frameNegotiate l w) := by
  rw [execReceivedFrame_settled hsettled, h]

theorem execReceivedFrame_train (hsettled : LP.Settled s.lp[l]) (h : LP.state s.lp[l] = .train) :
    exec (.receivedFrame l w payload) s = .next (s.frameTrain l w payload) := by
  rw [execReceivedFrame_settled hsettled, h]

theorem execReceivedFrame_running (hsettled : LP.Settled s.lp[l])
    (h : (LP.state s.lp[l]).running = true) :
    exec (.receivedFrame l w payload) s = .next (s.frameRunning l w payload) := by
  rw [execReceivedFrame_settled hsettled]
  cases hstate : LP.state s.lp[l] with
  | up | rest | wake => rfl
  | disabled | down | listen | negotiate | train =>
    rw [hstate] at h
    cases h

end ByState

/-! ## The training window (R104, R105) -/

section Training

/-- A list is the tabulation of a function exactly when no element differs from its value. -/
theorem ne_map_range_iff {α : Type} (xs : List α) (f : Nat → α) :
    xs ≠ (List.range xs.length).map f ↔ ∃ i x, xs[i]? = some x ∧ x ≠ f i := by
  rw [← not_iff_not, not_not]
  push Not
  constructor
  · intro h i x hx
    rw [h] at hx
    simp only [List.getElem?_map, Option.map_eq_some_iff, List.getElem?_eq_some_iff] at hx
    obtain ⟨j, ⟨hj, rfl⟩, rfl⟩ := hx
    rw [List.getElem_range]
  · intro h
    refine List.ext_getElem (by simp) fun i hi _ => ?_
    rw [List.getElem_map, List.getElem_range]
    exact h i _ (List.getElem?_eq_getElem hi)

/-- R105: the model's judgement of a frame is the one of the spec. -/
theorem errorFrame_iff (p : LP) (w : Word) (payload : Vector Word 64) :
    errorFrame (p.goodSync (svcSync w)) (svcCode w) p.align.expected
      (payloadSlots payload p.slotCount) = true ↔ isErrorFrame p w payload := by
  unfold errorFrame isErrorFrame
  rw [Bool.or_eq_true, Bool.or_eq_true, Bool.not_eq_true', ← Bool.not_eq_true, goodSync_iff, bne_iff_ne,
    bne_iff_ne, FrameOut.trainingPayload_eq, ne_map_range_iff, or_assoc]
  rfl

theorem judge_opens {good err : Bool} {code : Option ServiceCode} (hgood : good = true)
    (hcode : code = some .train) : Window.judge none good code err = some ⟨1, err.toNat⟩ := by
  subst hgood hcode
  rfl

theorem judge_closed {good err : Bool} {code : Option ServiceCode}
    (h : good = false ∨ code ≠ some .train) : Window.judge none good code err = none := by
  refine if_neg fun hopens => ?_
  obtain ⟨hgood, hcode⟩ := Bool.and_eq_true_iff.mp hopens
  exact h.elim (fun h => by rw [h] at hgood; cases hgood) fun h => h (by simpa using hcode)

theorem judge_running {y : Window} {good err : Bool} {code : Option ServiceCode} (hjudged : y.judged < 256)
    (herrors : y.errors < 3) :
    Window.judge (some y) good code err = some ⟨y.judged + 1, y.errors + err.toNat⟩ :=
  if_neg (by omega)

end Training

/-! ## Frames in TRAIN (R100, R105 to R107) -/

section Train

variable {s : State} {l : Link} {w : Word} {payload : Vector Word 64}

/-- R105, R107: a Link Port in TRAIN after a frame that has been judged. -/
def trained (p : LP) (w : Word) (payload : Vector Word 64) : LP :=
  judged (p.trainFrame (p.goodSync (svcSync w)) (svcCode w) (payloadSlots payload p.slotCount)) w

theorem frameTrain_eq (s : State) (l : Link) (w : Word) (payload : Vector Word 64) :
    s.frameTrain l w payload =
      if (LP.goodSync s.lp[l] (svcSync w) && LP.rdy s.lp[l] && svcRdy w) = true then
        ((s.onLp l fun p => trained p w payload).moveLink l .up).report (.lp l) .linkUp l.val
          (LP.slotCount s.lp[l])
      else s.onLp l fun p => trained p w payload := by
  have hport : s.onLp l (fun p => trained p w payload) = s.onLp l (fun p =>
      ((p.trainFrame (LP.goodSync s.lp[l] (svcSync w)) (svcCode w)
        (payloadSlots payload (LP.slotCount s.lp[l]))).judgeAligned
          (LP.goodSync s.lp[l] (svcSync w))).countCode (LP.goodSync s.lp[l] (svcSync w)) (svcCode w)) :=
    onLp_congr rfl
  rw [hport]
  rfl

/-- R105: the window after a frame in TRAIN. -/
def windowAfter (p : LP) (w : Word) (payload : Vector Word 64) : Option Window :=
  if p.rdy then p.train.window
  else Window.judge p.train.window (p.goodSync (svcSync w)) (svcCode w)
    (errorFrame (p.goodSync (svcSync w)) (svcCode w) p.align.expected
      (payloadSlots payload p.slotCount))

/-- R80: the judgement of the word neither reads nor writes the record of the training. -/
theorem judging_keeps_train (p : LP) (y : Train) (good : Bool) (code : Option ServiceCode) :
    (LP.judgeAligned { p with train := y } good).countCode good code =
      { (p.judgeAligned good).countCode good code with train := y } := by
  cases good with
  | false => rfl
  | true => cases code <;> rfl

/-- What a frame in TRAIN makes of a Link Port, with the window it leaves. -/
theorem trained_eq (p : LP) (w : Word) (payload : Vector Word 64) :
    trained p w payload = { judged p w with
      train := ⟨p.train.frames + 1, windowAfter p w payload⟩ } :=
  judging_keeps_train p _ _ _

theorem trainingFramesAreJudged : Piece.TrainingFramesAreJudged := by
  intro l s w payload htrain hsettled hstays p
  have hframe : exec (.receivedFrame l w payload) s = .next (s.onLp l fun p => trained p w payload) := by
    rw [execReceivedFrame_train hsettled htrain, frameTrain_eq, if_neg]
    simp only [Bool.and_eq_true, goodSync_iff]
    exact fun ⟨⟨hgood, hrdy⟩, hword⟩ => hstays ⟨hrdy, hgood, hword⟩
  have herror := errorFrame_iff p w payload
  have hclean : ¬isErrorFrame p w payload → errorFrame (p.goodSync (svcSync w)) (svcCode w)
      p.align.expected (payloadSlots payload p.slotCount) = false :=
    fun h => Bool.eq_false_iff.mpr fun he => h (herror.mp he)
  refine ⟨windowAfter p w payload, (judged p w).align.badRun, (judged p w).counters, ?_, fun hrdy => ?_,
    fun hrdy hnone => ⟨fun hgood hcode => ⟨fun herr => ?_, fun herr => ?_⟩, fun hnot => ?_⟩,
    fun y hrdy hy => ⟨fun herr => ?_, fun herr => ?_⟩, fun hgood => ?_, fun hbad => ?_⟩
  · rw [hframe]
    refine congrArg _ (onLp_congr ?_)
    rw [trained_eq]
    by_cases hgood : svcSync w = some p.align.expected
    · rw [judged_good hgood]
    · rw [judged_bad hgood (hsettled.aligned (by rw [htrain]; rfl))]
  · rw [windowAfter, if_pos hrdy]
  · rw [windowAfter, if_neg (Bool.eq_false_iff.mp hrdy), hnone, herror.mpr herr,
      judge_opens ((goodSync_iff p w).mpr hgood) hcode]
    rfl
  · rw [windowAfter, if_neg (Bool.eq_false_iff.mp hrdy), hnone, hclean herr,
      judge_opens ((goodSync_iff p w).mpr hgood) hcode]
    rfl
  · rw [windowAfter, if_neg (Bool.eq_false_iff.mp hrdy), hnone, judge_closed (hnot.imp_left goodSync_eq_false)]
  · obtain ⟨herrors, hjudged⟩ := hsettled.window htrain y hy
    rw [windowAfter, if_neg (Bool.eq_false_iff.mp hrdy), hy, herror.mpr herr,
      judge_running (hjudged hrdy) herrors]
    rfl
  · obtain ⟨herrors, hjudged⟩ := hsettled.window htrain y hy
    rw [windowAfter, if_neg (Bool.eq_false_iff.mp hrdy), hy, hclean herr,
      judge_running (hjudged hrdy) herrors]
    rfl
  · rw [judged_good hgood]
    exact ⟨rfl, rfl⟩
  · rw [judged_bad hbad (hsettled.aligned (by rw [htrain]; rfl))]
    exact ⟨rfl, rfl⟩

/-- R105: the window that passes sets RDY. -/
theorem windowPassSetsReady : Piece.WindowPassSetsReady := by
  intro l s x htrain hrdy hwindow hjudged herrors
  have hdue : s.dueWindowPass l = s.onLp l fun p => { p with rdy := true } := by
    unfold State.dueWindowPass
    simp only [hwindow]
    exact if_pos ⟨htrain, hrdy, hjudged, herrors⟩
  exact congrArg Host.Outcome.next hdue

/-- R106, R119, R120: entering UP from TRAIN. -/
theorem enter_up_of_train {p : LP} (h : p.state = .train) (label : List Byte) (unit : BitVec 4) :
    p.enter .up label unit = LP.startRestHold { p with
      state := .up, attempts := 0, asm := .empty, txq := [], txSent := 0, train := ⟨0, none⟩
      rest := ⟨false, false, 0, 0, p.rest.used⟩, timers := ⟨none, none, none, none⟩ } := by
  simp only [LP.enter, h]

theorem readyWordBringsLinkUp : Piece.ReadyWordBringsLinkUp := by
  intro l s w payload htrain hrdy hsettled hgood hword
  have hport : trained s.lp[l] w payload = { LP.judgeAligned s.lp[l] true with
      counters := (judged s.lp[l] w).counters
      train := ⟨(LP.train s.lp[l]).frames + 1, windowAfter s.lp[l] w payload⟩ } := by
    rw [trained_eq, judged_good hgood]
    rfl
  have hup : s.frameTrain l w payload = _ := (frameTrain_eq s l w payload).trans
    (if_pos (by rw [(goodSync_iff _ w).mpr hgood, hrdy, hword]; rfl))
  have hstate : (trained s.lp[l] w payload).state = .train := by
    rw [hport]
    exact htrain
  rw [linkState_of_onLp, linkState_into (by rw [hstate]; decide) rfl] at hup
  refine ⟨_, (execReceivedFrame_train hsettled htrain).trans (congrArg _ hup),
    (linkState_onlyLink _ _ _ _).thenMail _, ?_⟩
  rw [report_lp, linkState_lp, enter_up_of_train hstate, hport]
  have heligible := restEligible_iff { LP.judgeAligned s.lp[l] true with
    state := .up, rest := ⟨false, false, 0, 0, (LP.rest s.lp[l]).used⟩ }
  refine ⟨rfl, rfl, rfl, rfl, hrdy, rfl, rfl, rfl, rfl, ⟨_, rfl, fun h => if_pos ?_, fun h => if_neg ?_⟩, rfl⟩
  · exact heligible.mpr ⟨rfl, h⟩
  · exact fun hmay => h (heligible.mp hmay).2

end Train

/-- Settles O19: the window follows the frames judged, its pass sets RDY, and a ready link enters UP. -/
theorem trainingBringsLinkUp : Obligations.TrainingBringsLinkUp :=
  ⟨trainingFramesAreJudged, windowPassSetsReady, readyWordBringsLinkUp⟩

end Sys2Proof.FrameIn
end

section
/-! SUPPORT. A frame in NEGOTIATE: the reception of pages (R97, R98), the own ACK flag (R99), and agreement
(R99 to R101, R103). -/

namespace Sys2Proof.PagesIn

open Sys2Proof.Machine Sys2Proof.Laws Sys2Proof.LinkRest Sys2Proof.FrameIn

/-! ## Pages (R97 to R99) -/

section Pages

variable {x : PageRx}

/-- R99: the base page and the next pages it announces are accepted. -/
theorem complete_iff (x : PageRx) : x.complete = true ↔
    ∃ b, x.base = some b ∧ ∀ i : Fin 4, i.val < b.nextCount → x.next[i] ≠ none := by
  unfold PageRx.complete
  cases hbase : x.base with
  | none => simp
  | some b =>
    simp only [List.all_eq_true, List.mem_take_iff_getElem, Vector.length_toList, Vector.getElem_toList,
      Option.some.injEq, exists_eq_left', Option.isSome_iff_ne_none]
    constructor
    · exact fun h i hi => h _ ⟨i.val, by omega, rfl⟩
    · rintro h _ ⟨i, hi, rfl⟩
      exact h ⟨i, by omega⟩ (by simp only; omega)

theorem ackDecided_decideAck (x : PageRx) : AckDecided x.decideAck := complete_iff x

/-- R98: a reception of page 0. -/
theorem baseReceived (x : PageRx) (c : BasePage) (ack : Bool) :
    BaseReceived x c ack (x.baseReception c ack) := by
  constructor
  · intro hlast
    have hrepeated : x.baseReception c ack = _ := if_pos hlast
    rw [hrepeated]
    refine ⟨rfl, fun hsame => if_pos hsame, fun b hb hnew i => ?_, ackDecided_decideAck _⟩
    have hdropped : ¬(x.base = none ∨ x.base = some c) := by
      rw [hb]
      exact fun h => h.elim (nomatch ·) fun h => hnew (Option.some.inj h)
    change (if x.base = none ∨ x.base = some c then x.next else Vector.replicate 4 none)[i] = none
    rw [if_neg hdropped]
    exact Vector.getElem_replicate i.isLt
  · exact fun hlast => if_neg hlast

/-- R97, R98: a reception of a next page. -/
theorem nextReceived (x : PageRx) (i : Fin 4) (chars : List Byte) :
    NextReceived x i chars (x.nextReception i chars) := by
  constructor
  · rintro ⟨b, hb, hfewer⟩
    exact if_pos (by rw [hb]; exact decide_eq_true hfewer)
  · intro hannounced
    have hheard : ¬(x.base.map fun b => decide (b.nextCount < i.val + 1)).getD false = true := by
      cases hb : x.base with
      | none => exact Bool.false_ne_true
      | some b => exact fun h => absurd (hannounced b hb) (Nat.not_le.mpr (of_decide_eq_true h))
    have hpage : x.nextReception i chars = _ := if_neg hheard
    rw [hpage]
    refine ⟨fun hlast => ?_, fun hlast => if_neg hlast⟩
    rw [if_pos hlast]
    exact ⟨rfl, ackDecided_decideAck _⟩

/-- R97, R198: a complete page, by its number. -/
theorem pageReceived (x : PageRx) (os : List Byte) : PageReceived x os (x.page os) := by
  unfold PageReceived PageRx.page
  refine ⟨fun habove => ?_, fun hzero => ?_, fun i hi => ?_⟩
  · split
    iterate 5 omega
    rfl
  · rw [hzero]
    refine ⟨fun hmany => if_pos hmany, fun hfew => ?_⟩
    simp only [if_neg (Nat.not_lt.mpr hfew)]
    exact baseReceived _ _ _
  · rw [hi]
    match i with
    | 0 | 1 | 2 | 3 => exact nextReceived _ _ _

/-- R97: the quarters of a page. -/
theorem pageWordTaken (x : PageRx) (q : Nat) (o1 o2 : Byte) : PageWordTaken x q o1 o2 (x.word q o1 o2) := by
  unfold PageRx.word
  refine ⟨fun h => if_pos h, fun hq hlen => ?_, fun hq hlen => ?_, fun hq hlen => ?_⟩
  · rw [if_neg hq, if_neg hlen]
  · rw [if_neg (by omega), if_pos hlen, if_neg (by omega)]
  · rw [if_neg (by omega), if_pos (by omega), if_pos hq]
    exact pageReceived _ _

end Pages

/-! ## Agreement (R99 to R101, R103) -/

section Agreement

variable {s : State} {l : Link}

theorem agreement_missing (h : (LP.pageRx s.lp[l]).ownAck = false ∨ (LP.pageRx s.lp[l]).partnerAck = false ∨
    (LP.pageRx s.lp[l]).base = none) : s.agreement l = s := by
  unfold State.agreement
  dsimp only
  split
  case h_1 b hflags hbase =>
    obtain ⟨hown, hpartner⟩ := Bool.and_eq_true_iff.mp hflags
    rcases h with h | h | h
    · cases h.symm.trans hown
    · cases h.symm.trans hpartner
    · cases h.symm.trans hbase
  case h_2 => rfl

theorem agreement_judges {b : BasePage} (hown : (LP.pageRx s.lp[l]).ownAck = true)
    (hpartner : (LP.pageRx s.lp[l]).partnerAck = true) (hbase : (LP.pageRx s.lp[l]).base = some b) :
    s.agreement l =
      match ((LP.advert s.lp[l]).inter b.advert).best with
      | some g =>
        (s.onLp l fun p =>
          { p with
            partner := some ⟨b, labelOf b.nextCount p.pageRx.next, g, true⟩
            agreed := some g }).moveLink l .train
      | none =>
        if (LP.pageRx s.lp[l]).failReported = true then s
        else
          (s.onLp l fun p => { p with pageRx := { p.pageRx with failReported := true } }).report
            (.lp l) .negotiationFailed l.val 0 := by
  unfold State.agreement
  dsimp only
  rw [hown, hpartner, hbase]
  rfl

theorem agreementJudged (hstate : LP.state s.lp[l] = .negotiate) : AgreementJudged l s (s.agreement l) := by
  refine ⟨agreement_missing, fun b hown hpartner hbase => ?_⟩
  rw [agreement_judges hown hpartner hbase]
  refine ⟨fun g hg => ?_, fun hg => ?_⟩
  · rw [hg]
    simp only []
    rw [linkState_of_onLp,
      linkState_stopped (by rw [hstate]; decide) (by rw [hstate]; rfl) rfl]
    refine ⟨linkState_onlyLink _ _ _ _, ?_⟩
    rw [linkState_lp]
    exact ⟨rfl, rfl, rfl, rfl, rfl, rfl, rfl, rfl, rfl, rfl, rfl, rfl⟩
  · rw [hg]
    exact ⟨fun hreported => if_pos hreported, fun hfirst => if_neg (Bool.eq_false_iff.mp hfirst)⟩

end Agreement

/-! ## Frames in NEGOTIATE (R78, R97) -/

section Negotiate

variable {s : State} {l : Link} {w : Word}

theorem frameNegotiate_other (h : svcSync w = some (LP.align s.lp[l]).expected → svcCode w ≠ some .page) :
    s.frameNegotiate l w = s.onLp l fun p => judged p w := by
  have hnot : ¬(LP.goodSync s.lp[l] (svcSync w) && svcCode w == some .page) = true := by
    rw [Bool.and_eq_true, goodSync_iff, beq_iff_eq]
    exact fun ⟨hgood, hpage⟩ => h hgood hpage
  have hframe : s.frameNegotiate l w = _ := if_neg hnot
  rw [hframe]
  exact onLp_congr rfl

/-- R78, R80: a good word of a defined code only keeps the alignment. -/
theorem judged_defined {p : LP} (hgood : svcSync w = some p.align.expected) (hcode : svcCode w ≠ none) :
    judged p w =
      { p with align := { p.align with expected := p.align.expected.other, badRun := 0 } } := by
  rw [judged_good hgood, if_neg hcode]

theorem frameNegotiate_page (hgood : svcSync w = some (LP.align s.lp[l]).expected)
    (hpage : svcCode w = some .page) :
    s.frameNegotiate l w = (s.onLp l fun p =>
      { p with
        align := { p.align with expected := p.align.expected.other, badRun := 0 }
        pageRx := p.pageRx.word (svcQuarter w) (svcOctet1 w) (svcOctet2 w) }).agreement l := by
  have htaken : (LP.goodSync s.lp[l] (svcSync w) && svcCode w == some .page) = true := by
    rw [Bool.and_eq_true, goodSync_iff, beq_iff_eq]
    exact ⟨hgood, hpage⟩
  have hframe : s.frameNegotiate l w = _ := if_pos htaken
  have hdefined := judged_defined hgood (by rw [hpage]; nofun)
  rw [hframe, onLp_onLp]
  exact congrArg (fun s => State.agreement s l) (onLp_congr (congrArg (fun p : LP =>
    { p with pageRx := p.pageRx.word (svcQuarter w) (svcOctet1 w) (svcOctet2 w) }) hdefined))

end Negotiate

/-- Settles O20: the judgement of the word, the pages' quarters, and agreement on what they leave. -/
theorem negotiationReceivesPages : Obligations.NegotiationReceivesPages := by
  intro l s w payload hstate hsettled
  rw [execReceivedFrame_negotiate hsettled hstate]
  refine ⟨fun hbad => ?_, fun hgood => ⟨fun hcode => ?_, fun hpage => ?_⟩⟩
  · rw [frameNegotiate_other fun hgood => absurd hgood hbad]
    exact congrArg _ (onLp_congr (judged_bad hbad (hsettled.aligned (by rw [hstate]; rfl))))
  · rw [frameNegotiate_other fun _ => hcode]
    exact congrArg _ (onLp_congr (judged_good hgood))
  · refine ⟨_, _, rfl, pageWordTaken _ _ _ _, ?_⟩
    rw [frameNegotiate_page hgood hpage]
    refine agreementJudged ?_
    rw [onLp_get]
    exact hstate

end Sys2Proof.PagesIn
end

section
/-! SUPPORT. A frame in UP, REST or WAKE: what it leaves of the Link Port and the messages (R76, R80, R84, R120,
R124), and its message word by the table of R82. -/

namespace Sys2Proof.RunningFrame

open Sys2Proof.Machine Sys2Proof.Laws Sys2Proof.LinkRest Sys2Proof.FrameIn Sys2Proof.LinkOrders

/-! ## Message words (R81 to R84) -/

section MessageWords

variable {buf : List Byte} {o1 o2 : Byte}

theorem finishMessage_discard (h : buf.length < 6 ∨ ∀ msg, buf ≠ withCheck msg) :
    finishMessage buf = .discard := by
  unfold finishMessage
  split
  · rfl
  next hlong =>
    refine if_neg fun hcheck => ?_
    have hnone := h.resolve_left hlong
    refine hnone (buf.take (buf.length - 2)) ?_
    rw [withCheck, ← hcheck, List.take_append_drop]

/-- R83: the check of a message stands in the last two octets of its run. -/
theorem finishMessage_good {msg : List Byte} (h : 4 ≤ msg.length) :
    finishMessage (withCheck msg) = .good msg := by
  have hlen : (withCheck msg).length = msg.length + 2 := List.length_append
  unfold finishMessage
  rw [if_neg (by omega), hlen, Nat.add_sub_cancel, withCheck, List.take_left, List.drop_left, if_pos rfl]

/-- R82: the two codes that end a message, with the octets they add. -/
theorem word_last (o1 o2 : Byte) :
    ∀ last ∈ [(ServiceCode.msgLast2, [o1, o2]), (.msgLast1, [o1])],
      Assembly.word .empty last.1 o1 o2 = (.empty, .codeError) ∧
      Assembly.word .skipping last.1 o1 o2 = (.empty, .nothing) ∧
      ∀ buf, Assembly.word (.assembling buf) last.1 o1 o2 =
        if 406 < buf.length + last.2.length then (.skipping, .discard)
        else (.empty, finishMessage (buf ++ last.2)) := by
  simp only [List.forall_mem_cons]
  exact ⟨⟨rfl, rfl, fun _ => rfl⟩, ⟨rfl, rfl, fun _ => rfl⟩, nofun⟩

/-- R82: the codes that leave an assembly as it is. -/
theorem word_other (a : Assembly) (o1 o2 : Byte) :
    ∀ c ∈ [ServiceCode.fill, .page, .train], a.word c o1 o2 = (a, .nothing) := by
  simp only [List.forall_mem_cons]
  cases a with
  | empty | skipping | assembling buf => exact ⟨rfl, rfl, rfl, nofun⟩

/-- R81, R82: a word with good sync on an assembly; an undefined code is a code error. -/
def wordActs (a : Assembly) (code : Option ServiceCode) (o1 o2 : Byte) : Assembly × AsmOut :=
  match code with
  | some code => a.word code o1 o2
  | none => (a, .codeError)

/-- R81, R83: the service counters after a message word. -/
def counted (c : Counters) : AsmOut → Counters
  | .nothing | .good _ => c
  | .codeError => { c with codeErrors := satInc c.codeErrors }
  | .discard => { c with discarded := satInc c.discarded }

/-- R83: the messages after a message word: a good message handed over, with the MGR flag, and reported. -/
def handedOn (m : Mail) (l : Link) (mgr : Bool) : AsmOut → Mail
  | .nothing | .codeError | .discard => m
  | .good msg =>
    { m with
      lpToMgu := m.lpToMgu ++ [(l, .message msg mgr)]
      completions := updAt m.completions l (· + 1) }

/-- R167: the MGR flag of the partner record. -/
def partnerMgr (p : LP) : Bool := (p.partner.map fun r => r.base.mgr).getD false

theorem linkState_asmResult (s : State) (l : Link) (F : LP → LP) (M : Mail) (out : AsmOut) :
    (linkState s l F M).asmResult l out =
      linkState s l (fun p => { F p with counters := counted (F p).counters out })
        (handedOn M l (partnerMgr (F s.lp[l])) out) := by
  cases out with
  | nothing => rfl
  | codeError => exact linkState_onLp _ _ _ _ _
  | discard => exact linkState_onLp _ _ _ _ _
  | good msg =>
    unfold State.asmResult
    rw [linkState_lp]
    rfl

end MessageWords

theorem linkState_congr {s : State} {l : Link} {F G : LP → LP} {M : Mail} (h : F s.lp[l] = G s.lp[l]) :
    linkState s l F M = linkState s l G M := by
  unfold linkState
  rw [updAt_congr h]

/-! ## What a frame leaves (R76, R80, R84, R120, R124) -/

section Frame

variable {s : State} {l : Link} {p : LP} {w : Word} {payload : Vector Word 64}

/-- R124: a good word with RST clear wakes a link in REST. -/
def wakes (p : LP) (w : Word) : Bool := decide (p.state = .rest) && !svcRst w

theorem wakes_iff : wakes p w = true ↔ p.state = .rest ∧ svcRst w = false := by
  simp [wakes]

/-- R76, R80: the frame judged and presented to the Frame Engine. -/
def presented (p : LP) (w : Word) (payload : Vector Word 64) : LP :=
  { judged p w with
    rx := some (receiveFrame (p.goodSync (svcSync w)) payload p.slotCount) }

/-- R120, R124: the rest flags and runs after a good word. -/
def restAfter (p : LP) (w : Word) : RestState :=
  if wakes p w then ⟨false, false, 0, 1, p.rest.used⟩
  else if svcRst w then
    { p.rest with partnerRst := true, setRun := min (p.rest.setRun + 1) 16, clearRun := 0 }
  else { p.rest with partnerRst := false, setRun := 0, clearRun := min (p.rest.clearRun + 1) 16 }

/-- A Link Port after a frame with good sync, before its message word. -/
def heard (p : LP) (w : Word) (payload : Vector Word 64) : LP :=
  { p with
    state := if wakes p w then .wake else p.state
    align := { p.align with expected := p.align.expected.other, badRun := 0 }
    rx := some (payloadSlots payload p.slotCount)
    rest := restAfter p w
    timers := if wakes p w then { p.timers with restHold := none, wake := some 0 } else p.timers
    counters :=
      if svcCode w = none then { p.counters with codeErrors := satInc p.counters.codeErrors }
      else p.counters }

/-- R124: the WAKE notices of a frame that wakes the link; they are the only messages of a frame before its
message word. -/
def heardMail (s : State) (l : Link) (w : Word) : Mail :=
  if wakes s.lp[l] w then
    { s.mail with
      stateNotices := updAt s.mail.stateNotices l (· ++ [.wake])
      viewNotices := updAt s.mail.viewNotices l (· ++ [⟨.wake, LP.slotCount s.lp[l]⟩]) }
  else s.mail

theorem presented_good (hgood : svcSync w = some p.align.expected) :
    presented p w payload = { p with
      align := { p.align with expected := p.align.expected.other, badRun := 0 }
      rx := some (payloadSlots payload p.slotCount)
      counters :=
        if svcCode w = none then { p.counters with codeErrors := satInc p.counters.codeErrors }
        else p.counters } := by
  rw [presented, judged_good hgood, (goodSync_iff p w).mpr hgood]
  rfl

theorem presented_countRst (hgood : svcSync w = some p.align.expected) (h : wakes p w = false) :
    (presented p w payload).countRst true (svcRst w) = heard p w payload := by
  rw [presented_good hgood, heard, restAfter, h]
  rfl

theorem presented_wake_countRst (hgood : svcSync w = some p.align.expected) (h : wakes p w = true)
    (label : List Byte) (unit : BitVec 4) :
    LP.countRst ((presented p w payload).enter .wake label unit) true (svcRst w) = heard p w payload := by
  rw [presented_good hgood, heard, restAfter, h, (wakes_iff.mp h).2]
  rfl

/-- A frame in a running state as it stands before its message word. -/
def hear (s : State) (l : Link) (w : Word) (payload : Vector Word 64) : State :=
  (if LP.state s.lp[l] = .rest ∧ LP.goodSync s.lp[l] (svcSync w) = true ∧ svcRst w = false then
      (s.onLp l fun p => presented p w payload).moveLink l .wake
    else s.onLp l fun p => presented p w payload).onLp l
      fun p => p.countRst (LP.goodSync s.lp[l] (svcSync w)) (svcRst w)

/-- R82: the message word of a frame with good sync. -/
def takeWord (s : State) (l : Link) (w : Word) : State :=
  match svcCode w with
  | some code =>
    (s.onLp l fun p =>
      { p with asm := (LP.asm s.lp[l] |>.word code (svcOctet1 w) (svcOctet2 w)).1 }).asmResult l
        (LP.asm s.lp[l] |>.word code (svcOctet1 w) (svcOctet2 w)).2
  | none => s

theorem frameRunning_eq (s : State) (l : Link) (w : Word) (payload : Vector Word 64) :
    s.frameRunning l w payload =
      if LP.goodSync s.lp[l] (svcSync w) = true then takeWord (hear s l w payload) l w
      else (hear s l w payload).onLp l LP.badSyncAssembly := by
  have hport : s.onLp l (fun p => presented p w payload) = s.onLp l (fun p =>
      { (p.judgeAligned (LP.goodSync s.lp[l] (svcSync w))).countCode (LP.goodSync s.lp[l] (svcSync w))
          (svcCode w) with
        rx := some (receiveFrame (LP.goodSync s.lp[l] (svcSync w)) payload p.slotCount) }) :=
    onLp_congr rfl
  unfold hear
  rw [hport]
  rfl

theorem hear_good (hgood : svcSync w = some (LP.align s.lp[l]).expected) :
    hear s l w payload = linkState s l (fun p => heard p w payload) (heardMail s l w) := by
  unfold hear
  rw [(goodSync_iff _ w).mpr hgood]
  cases hwakes : wakes s.lp[l] w with
  | false =>
    have hstays : ¬(LP.state s.lp[l] = .rest ∧ true = true ∧ svcRst w = false) :=
      fun ⟨hrest, _, hclear⟩ => Bool.eq_false_iff.mp hwakes (wakes_iff.mpr ⟨hrest, hclear⟩)
    rw [if_neg hstays, onLp_onLp, heardMail, hwakes]
    exact onLp_congr (presented_countRst hgood hwakes)
  | true =>
    obtain ⟨hrest, hclear⟩ := wakes_iff.mp hwakes
    have hstate : (presented s.lp[l] w payload).state ≠ .wake := by
      rw [presented_good hgood]
      exact fun h => nomatch hrest.symm.trans h
    have hslots : (presented s.lp[l] w payload).slotCount = LP.slotCount s.lp[l] := by
      rw [presented_good hgood]
      rfl
    rw [if_pos ⟨hrest, rfl, hclear⟩, linkState_of_onLp s l fun p => presented p w payload,
      linkState_into hstate rfl, linkState_onLp, hslots, heardMail, if_pos hwakes]
    exact linkState_congr (presented_wake_countRst hgood hwakes _ _)

/-- A Link Port after a frame with good sync. -/
def received (p : LP) (w : Word) (payload : Vector Word 64) : LP :=
  { heard p w payload with
    asm := (wordActs p.asm (svcCode w) (svcOctet1 w) (svcOctet2 w)).1
    counters := counted p.counters (wordActs p.asm (svcCode w) (svcOctet1 w) (svcOctet2 w)).2 }

/-- The messages after a frame with good sync. -/
def receivedMail (s : State) (l : Link) (w : Word) : Mail :=
  handedOn (heardMail s l w) l (partnerMgr s.lp[l])
    (wordActs (LP.asm s.lp[l]) (svcCode w) (svcOctet1 w) (svcOctet2 w)).2

/-- R81, R83: an undefined code has been counted with the judgement of the word, a defined one acts. -/
theorem takeWord_heard :
    takeWord (linkState s l (fun p => heard p w payload) (heardMail s l w)) l w =
      linkState s l (fun p => received p w payload) (receivedMail s l w) := by
  unfold takeWord
  rw [linkState_lp]
  cases hcode : svcCode w with
  | none =>
    unfold linkState receivedMail received heard
    rw [hcode]
    rfl
  | some code =>
    simp only []
    rw [linkState_onLp, linkState_asmResult]
    unfold receivedMail received heard
    rw [hcode]
    rfl

theorem frameRunning_good (hgood : svcSync w = some (LP.align s.lp[l]).expected) :
    s.frameRunning l w payload = linkState s l (fun p => received p w payload) (receivedMail s l w) := by
  rw [frameRunning_eq, if_pos ((goodSync_iff _ w).mpr hgood), hear_good hgood, takeWord_heard]

/-- R84: bad sync on an assembly. -/
def cutOff (a : Assembly) : Assembly × AsmOut :=
  match a with
  | .assembling _ => (.skipping, .discard)
  | .empty => (.empty, .nothing)
  | .skipping => (.skipping, .nothing)

/-- A Link Port after a frame with bad sync (R76, R80, R84, R120). -/
def missed (p : LP) : LP :=
  { p with
    align := { p.align with expected := p.align.expected.other, badRun := p.align.badRun + 1 }
    rx := some (List.replicate p.slotCount ⟨0, .subst⟩)
    rest := { p.rest with setRun := 0, clearRun := 0 }
    asm := (cutOff p.asm).1
    counters := { p.counters with
      serviceErrors := satInc p.counters.serviceErrors
      discarded := (counted p.counters (cutOff p.asm).2).discarded } }

theorem presented_bad (hbad : svcSync w ≠ some p.align.expected) (haligned : p.align.badRun < 4) :
    ((presented p w payload).countRst false (svcRst w)).badSyncAssembly = missed p := by
  rw [presented, judged_bad hbad haligned, goodSync_eq_false hbad]
  unfold LP.badSyncAssembly LP.countRst missed
  cases hasm : p.asm <;> rfl

theorem frameRunning_bad (hbad : svcSync w ≠ some (LP.align s.lp[l]).expected)
    (haligned : (LP.align s.lp[l]).badRun < 4) : s.frameRunning l w payload = s.onLp l missed := by
  have hnot := goodSync_eq_false hbad
  rw [frameRunning_eq, if_neg (Bool.eq_false_iff.mp hnot), hear, if_neg fun h => Bool.eq_false_iff.mp hnot h.2.1,
    hnot, onLp_onLp, onLp_onLp]
  exact onLp_congr (presented_bad hbad haligned)

end Frame

/-! ## The pieces (R76, R82, R120) -/

section Pieces

variable {s : State} {l : Link} {w : Word}

theorem receivedMail_reports : (receivedMail s l w).reports = s.mail.reports := by
  have hheard : (heardMail s l w).reports = s.mail.reports := by
    unfold heardMail
    split <;> rfl
  unfold receivedMail
  rw [← hheard]
  cases (wordActs (LP.asm s.lp[l]) (svcCode w) (svcOctet1 w) (svcOctet2 w)).2 <;> rfl

/-- R188: a message handed over changes no notice. -/
theorem receivedMail_notices :
    (receivedMail s l w).stateNotices = (heardMail s l w).stateNotices ∧
    (receivedMail s l w).viewNotices = (heardMail s l w).viewNotices := by
  unfold receivedMail
  cases (wordActs (LP.asm s.lp[l]) (svcCode w) (svcOctet1 w) (svcOctet2 w)).2 <;> exact ⟨rfl, rfl⟩

theorem heardMail_handed :
    (heardMail s l w).lpToMgu = s.mail.lpToMgu ∧ (heardMail s l w).completions = s.mail.completions := by
  unfold heardMail
  split <;> exact ⟨rfl, rfl⟩

theorem restAfter_partnerRst (p : LP) (w : Word) : (restAfter p w).partnerRst = svcRst w := by
  unfold restAfter
  split
  next hwakes => exact (wakes_iff.mp hwakes).2.symm
  next =>
    cases svcRst w <;> rfl

theorem runningFrameIsPresented : Piece.RunningFrameIsPresented := by
  intro l s w payload hrunning hsettled
  rw [execReceivedFrame_running hsettled hrunning]
  by_cases hgood : svcSync w = some (LP.align s.lp[l]).expected
  · rw [frameRunning_good hgood]
    refine ⟨_, rfl, linkState_onlyLink _ _ _ _, ?_⟩
    rw [linkState_lp]
    refine ⟨rfl, rfl, rfl, fun _ => ⟨rfl, rfl, restAfter_partnerRst _ _, ?_⟩, fun hbad => absurd hgood hbad⟩
    exact if_congr wakes_iff rfl rfl
  · rw [frameRunning_bad hgood (hsettled.aligned (beyondListen_of_running hrunning))]
    refine ⟨_, rfl, OnlyLink.onLp _ _ _, ?_⟩
    rw [onLp_get]
    refine ⟨rfl, rfl, rfl, fun hsync => absurd hsync hgood, fun _ =>
      ⟨rfl, rfl, rfl, rfl, rfl, rfl, rfl, rfl, fun buf hbuf => ?_, fun hidle => ?_⟩⟩
    · simp only [missed, hbuf]
      exact ⟨rfl, rfl⟩
    · cases hasm : LP.asm s.lp[l] with
      | assembling buf => exact absurd hasm (hidle buf)
      | empty | skipping =>
        simp only [missed, hasm]
        exact ⟨rfl, rfl⟩

theorem restFlagIsCounted : Piece.RestFlagIsCounted := by
  intro l s w payload hrunning hsettled
  rw [execReceivedFrame_running hsettled hrunning]
  by_cases hgood : svcSync w = some (LP.align s.lp[l]).expected
  · rw [frameRunning_good hgood]
    refine ⟨_, rfl, receivedMail_reports, fun hbad => absurd hgood hbad, fun _ => ?_⟩
    obtain ⟨hstates, hviews⟩ := receivedMail_notices (s := s) (l := l) (w := w)
    rw [linkState_lp, linkState_mail, hstates, hviews]
    unfold received heard heardMail restAfter
    refine ⟨fun hset => ?_, fun hclear hstate => ?_, fun hclear hstate => ?_⟩
    · have hstays : wakes s.lp[l] w = false :=
        Bool.eq_false_iff.mpr fun h => Bool.false_ne_true ((wakes_iff.mp h).2.symm.trans hset)
      rw [hstays, hset]
      exact ⟨⟨rfl, rfl, rfl, rfl⟩, rfl⟩
    · have hstays : wakes s.lp[l] w = false := Bool.eq_false_iff.mpr fun h => hstate (wakes_iff.mp h).1
      rw [hstays, hclear]
      exact ⟨⟨rfl, rfl, rfl, rfl⟩, rfl⟩
    · rw [wakes_iff.mpr ⟨hstate, hclear⟩]
      exact ⟨rfl, rfl, rfl, rfl, rfl⟩
  · rw [frameRunning_bad hgood (hsettled.aligned (beyondListen_of_running hrunning))]
    refine ⟨_, rfl, rfl, fun _ => ?_, fun hsync => absurd hsync hgood⟩
    rw [onLp_get]
    exact ⟨⟨rfl, rfl, rfl, rfl⟩, rfl⟩

/-- R82: what a word makes of the assembly and of the message, where it hands none over. -/
theorem assemblyLeft {payload : Vector Word 64} {a : Assembly} {out : AsmOut}
    (hword : wordActs (LP.asm s.lp[l]) (svcCode w) (svcOctet1 w) (svcOctet2 w) = (a, out))
    (hout : out = .nothing ∨ out = .codeError ∨ out = .discard) :
    AssemblyLeft l s (linkState s l (fun p => received p w payload) (receivedMail s l w)) a
      (decide (out = .codeError)) (decide (out = .discard)) := by
  obtain ⟨hhanded, hcompleted⟩ := heardMail_handed (s := s) (l := l) (w := w)
  unfold AssemblyLeft
  rw [linkState_lp, linkState_mail, ← hhanded, ← hcompleted]
  unfold received receivedMail
  rw [hword]
  rcases hout with rfl | rfl | rfl <;> exact ⟨rfl, rfl, rfl, rfl⟩

theorem messageHandedOver {payload : Vector Word 64} {msg : List Byte}
    (hword : wordActs (LP.asm s.lp[l]) (svcCode w) (svcOctet1 w) (svcOctet2 w) = (.empty, .good msg)) :
    MessageHandedOver l s (linkState s l (fun p => received p w payload) (receivedMail s l w)) msg := by
  obtain ⟨hhanded, hcompleted⟩ := heardMail_handed (s := s) (l := l) (w := w)
  unfold MessageHandedOver
  rw [linkState_lp, linkState_mail, ← hhanded, ← hcompleted]
  unfold received receivedMail
  rw [hword]
  exact ⟨rfl, rfl, rfl, rfl⟩

theorem messageWordsAreAssembled : Piece.MessageWordsAreAssembled := by
  intro l s w payload hrunning hsettled hgood o1 o2 a
  have hrow : ∀ {c : ServiceCode} {x : Assembly} {r : Assembly × AsmOut}, svcCode w = some c → a = x →
      x.word c o1 o2 = r → wordActs (LP.asm s.lp[l]) (svcCode w) (svcOctet1 w) (svcOctet2 w) = r := by
    rintro c x r hcode rfl hr
    rw [hcode]
    exact hr
  rw [execReceivedFrame_running hsettled hrunning, frameRunning_good hgood]
  refine ⟨_, rfl, linkState_onlyLink _ _ _ _, receivedMail_reports, fun hcode => ?_, fun c hc hcode => ?_,
    fun hcode => ⟨fun ha => ?_, fun buf ha => ?_⟩,
    fun hcode => ⟨fun ha => ?_, fun ha => ?_, fun buf ha => ⟨fun hfits => ?_, fun hover => ?_⟩⟩,
    fun last hlast hcode => ?_, fun hcode => ⟨fun ha => ?_, fun buf ha => ?_⟩⟩
  · exact assemblyLeft (out := .codeError) (by rw [hcode]; rfl) (.inr (.inl rfl))
  · exact assemblyLeft (out := .nothing) (hrow hcode rfl (word_other a o1 o2 c hc)) (.inl rfl)
  · rcases ha with ha | ha <;> exact assemblyLeft (out := .nothing) (hrow hcode ha rfl) (.inl rfl)
  · exact assemblyLeft (out := .discard) (hrow hcode ha rfl) (.inr (.inr rfl))
  · exact assemblyLeft (out := .codeError) (hrow hcode ha rfl) (.inr (.inl rfl))
  · exact assemblyLeft (out := .nothing) (hrow hcode ha rfl) (.inl rfl)
  · exact assemblyLeft (out := .nothing) (hrow hcode ha (if_neg (Nat.not_lt.mpr hfits))) (.inl rfl)
  · exact assemblyLeft (out := .discard) (hrow hcode ha (if_pos hover)) (.inr (.inr rfl))
  · obtain ⟨hempty, hskipping, hassembling⟩ := word_last o1 o2 last hlast
    refine ⟨fun ha => ?_, fun ha => ?_, fun buf ha => ⟨fun hover => ?_, fun hfits => ⟨fun hwrong => ?_,
      fun msg hlen hcheck => ?_⟩⟩⟩
    · exact assemblyLeft (out := .codeError) (hrow hcode ha hempty) (.inr (.inl rfl))
    · exact assemblyLeft (out := .nothing) (hrow hcode ha hskipping) (.inl rfl)
    · exact assemblyLeft (out := .discard) (hrow hcode ha ((hassembling buf).trans (if_pos hover)))
        (.inr (.inr rfl))
    · refine assemblyLeft (out := .discard) (hrow hcode ha ?_) (.inr (.inr rfl))
      rw [hassembling, if_neg (Nat.not_lt.mpr hfits), finishMessage_discard]
      rwa [List.length_append]
    · refine messageHandedOver (hrow hcode ha ?_)
      rw [hassembling, if_neg (Nat.not_lt.mpr hfits), hcheck, finishMessage_good hlen]
  · rcases ha with ha | ha <;> exact assemblyLeft (out := .nothing) (hrow hcode ha rfl) (.inl rfl)
  · exact assemblyLeft (out := .discard) (hrow hcode ha rfl) (.inr (.inr rfl))

end Pieces

/-- Settles O21: the frame is judged, presented and its RST flag counted, and its message word acts by the table. -/
theorem runningFrameIsReceived : Obligations.RunningFrameIsReceived :=
  ⟨runningFrameIsPresented, restFlagIsCounted, messageWordsAreAssembled⟩

end Sys2Proof.RunningFrame
end

section
/-! SUPPORT. Hardware reset (R49, R71, R88, R93, R117, R143, R164, R165, R181, R192): each block at its reset
values, and every invariant in a state right after reset. -/

namespace Sys2Proof.ResetValues

open Sys2Proof.Machine Sys2Proof.Laws

/-! ## Reset values -/

/-- Every element of a vector that repeats one value is that value. -/
theorem replicate_get {α : Type} {n : Nat} (x : α) (i : Fin n) : (Vector.replicate n x)[i] = x :=
  Vector.getElem_replicate i.isLt

/-- R191: line n selects link n, and is otherwise as every line is. -/
theorem defaults_get (n : Fin 4) : IndLine.defaults[n] = IndLine.default (Fin.ofNat 8 n.val) := by
  fin_cases n <;> rfl

theorem hardwareResetValues : Piece.HardwareResetValues := by
  intro msel unit s
  refine ⟨_, rfl, rfl, rfl, rfl, rfl, rfl, fun l => ?lp, replicate_get _, rfl, rfl, rfl, rfl, rfl, rfl, rfl, rfl,
    fun l => ⟨replicate_get _ l, replicate_get _ l⟩, fun id => ⟨replicate_get _ id, replicate_get _ id⟩,
    fun r => ⟨replicate_get _ r, replicate_get _ r⟩, replicate_get _, rfl, rfl, rfl, rfl,
    replicate_get _, defaults_get⟩
  have hport : (State.afterReset msel unit s.sst.mem s.pending).lp[l] = LP.reset := replicate_get _ l
  rw [hport]
  exact ⟨rfl, rfl, rfl, rfl, rfl, rfl, rfl, rfl, rfl, rfl, rfl, rfl, rfl, rfl, rfl, rfl⟩

/-! ## Every invariant holds after reset -/

section Invariants

/-- R182, R192: the one record, START, has the number below the counter. -/
theorem eventList_reset : EVU.reset.Sound := by
  refine ⟨by decide, fun i h => ?_⟩
  obtain rfl : i = 0 := Nat.lt_one_iff.mp h
  rfl

theorem store_reset {mem : Table Sample} (h : Memory.wf mem = true) : (SST.reset mem).Sound where
  memory := h
  clip id c hclip := by cases (replicate_get none id).symm.trans hclip
  held id hheld := absurd (hheld.trans_eq (replicate_get 0 id)) (Nat.lt_irrefl 0)
  clear r g _ _ hregion := by cases (replicate_get none r).symm.trans hregion
  apart g _ hregion := by cases (replicate_get none (0 : Fin 2)).symm.trans hregion

theorem player_idle : PlayerState.idle.Sound :=
  ⟨Nat.zero_le 4, nofun, nofun, fun _ => ⟨rfl, rfl, rfl⟩⟩

theorem recorder_idle : Recorder.idle.Sound := ⟨iff_of_true rfl rfl, nofun⟩

/-- R144: no player has a place in its queue. -/
theorem places_reset : PLB.reset.places = [] := by decide

variable {msel : Bool} {unit : BitVec 4} {mem : Table Sample} {pending : List Instr}

/-- R49, R71: the empty active table is admitted, and no other table stands anywhere. -/
theorem routingSound_afterReset : (State.afterReset msel unit mem pending).RoutingSound where
  active := RouteTable.admitted_nil
  queued := nofun
  handed := nofun
  copied := nofun
  staged := nofun
  claimed := nofun
  pended := nofun
  adjusted := nofun
  asked := nofun

/-- R143, R164, R165: memory is the caller's, and nothing plays, records or is on its way. -/
theorem audioSound_afterReset (h : Memory.wf mem = true) :
    (State.afterReset msel unit mem pending).AudioSound where
  store := store_reset h
  player p := (replicate_get PlayerState.idle p).symm ▸ player_idle
  waiting := nofun
  granted := nofun
  reads := nofun
  recorder r := (replicate_get Recorder.idle r).symm ▸ recorder_idle
  setup := nofun
  sent := nofun

theorem linksSound_afterReset : (State.afterReset msel unit mem pending).LinksSound := fun l =>
  (replicate_get LP.reset l).symm ▸ LinkPorts.sound_reset

/-- R136, R164: no clip is held, and no place, release or answer counts as a hold. -/
theorem holdsTied_afterReset : (State.afterReset msel unit mem pending).HoldsTied where
  count id := (replicate_get 0 id).trans (by
    change 0 = (PLB.reset.places.countP fun q => q.id == id) + 0 + 0
    rw [places_reset]
    rfl)
  record q hq := by
    change q ∈ PLB.reset.places at hq
    rw [places_reset] at hq
    cases hq
  granted := nofun
  asked _ := rfl
  answered h := absurd rfl h

/-- R137, R165: neither recorder has a region, and the Sample Store records none. -/
theorem regionsTied_afterReset : (State.afterReset msel unit mem pending).RegionsTied where
  asked := rfl
  answered h := absurd rfl h
  own r _ := by
    have hrecorder : (State.afterReset msel unit mem pending).rcu.recorders[r] = Recorder.idle :=
      replicate_get _ r
    rw [hrecorder]
    exact replicate_get none r
  wanted := nofun
  aborted := nofun

theorem sound_afterReset (h : Memory.wf mem = true) :
    (State.afterReset msel unit mem pending).evu.Sound ∧
      (State.afterReset msel unit mem pending).RoutingSound ∧
      (State.afterReset msel unit mem pending).AudioSound ∧
      (State.afterReset msel unit mem pending).LinksSound ∧
      (State.afterReset msel unit mem pending).BlocksTied :=
  ⟨eventList_reset, routingSound_afterReset, audioSound_afterReset h, linksSound_afterReset,
    holdsTied_afterReset, regionsTied_afterReset⟩

end Invariants

theorem resetIsSound : Piece.ResetIsSound := by
  refine ⟨sound_afterReset rfl, fun msel unit s t hwf hreset => ?_⟩
  obtain rfl := Host.Outcome.next.inj hreset
  exact sound_afterReset hwf

/-- Settles O3: reset builds one state from the straps, the memory and the queue, and that state is sound where
the memory is. -/
theorem resetLeavesTheResetValues : Obligations.ResetLeavesTheResetValues :=
  ⟨hardwareResetValues, resetIsSound⟩

end Sys2Proof.ResetValues
end

section
/-! SUPPORT. The end of the memory clear (R93, R130), a player's read and a recorder's write (R131). -/

namespace Sys2Proof.MemoryWords

open Sys2Proof.Machine Sys2Proof.Laws

variable {s : State}

/-- R93, R130: the clear ends with every word 0 and every hold ended. -/
theorem execMemoryClearComplete_runs (h : s.sst.clear ≠ none) :
    exec .memoryClearComplete s = .next { s with
      sst := { s.sst with mem := [], clear := none }
      lp := s.lp.map fun p => { p with held := false } } :=
  if_pos (Option.isSome_iff_ne_none.mpr h)

theorem execMemoryClearComplete_none (h : s.sst.clear = none) : exec .memoryClearComplete s = .next s :=
  if_neg (by rw [h]; decide)

theorem read_nil (a : Nat) : Memory.read [] a = 0 := rfl

/-- R131: a read of an address that exists is answered with its word. -/
theorem execPlayerRead_answers {p : Player} {r : PlayerRead} {rest : List PlayerRead}
    (h : Oldest (fun x => x.player == p) s.mail.playerReads r rest) (haddr : r.addr < 131072) :
    exec (.playerRead p) s = .next { s with mail := { s.mail with
      playerReads := rest
      readAnswers := s.mail.readAnswers ++ [⟨p, r.frame, Memory.read s.sst.mem r.addr⟩] } } := by
  change s.takePlayerRead p = _
  simp only [State.takePlayerRead, takeFirst_eq_some.mpr h]
  exact if_neg (Nat.not_le.mpr haddr)

/-- R131: a write to an address that exists writes its word. -/
theorem execRecorderWrite_writes {a : Nat} {w : Sample} {rest : List RcuMsg}
    (h : s.mail.rcuToSst = .write a w :: rest) (haddr : a < 131072) :
    exec .recorderWrite s = .next { s with
      sst := { s.sst with mem := Memory.write s.sst.mem a w }
      mail := { s.mail with rcuToSst := rest } } := by
  change execRecorderWrite s = _
  simp only [execRecorderWrite, State.dropRcu, State.onMail, h, List.tail_cons]
  exact if_neg (Nat.not_le.mpr haddr)

/-- Settles O40: the memory that the clear leaves lists no word, and the one word written is read back. -/
theorem memoryIsClearedReadAndWritten : Obligations.MemoryIsClearedReadAndWritten := by
  intro s
  refine ⟨fun hclear => ⟨_, execMemoryClearComplete_runs hclear, rfl, read_nil, rfl, fun l => ?_, rfl⟩,
    execMemoryClearComplete_none, fun p r rest => execPlayerRead_answers, fun a w rest hwrite haddr =>
    ⟨_, execRecorderWrite_writes hwrite haddr, rfl, fun hwf b => read_write hwf⟩⟩
  exact Vector.getElem_map _ l.isLt

end Sys2Proof.MemoryWords
end

section
/-! SUPPORT. The advertisement restored (R109, R110), and the signal reports and timers of a link that is not
running (R90, R102, R110). -/

namespace Sys2Proof.LinkRestore

open Sys2Proof.Machine Sys2Proof.Laws

/-! ## The advertisement (R109, R110) -/

section Restore

variable {s : State} {l : Link} {F : LP → LP} {M : Mail}

/-- R109: a Link Port with every grade up to the maximum grade advertised. -/
def restored (p : LP) : LP :=
  { p with advert := Grades.upTo p.cfg.maxGrade, removed := ⟨false, false, false⟩ }

/-- R109: the event of a restored advertisement, where it changed. -/
def restoreReports (l : Link) (p : LP) : List (Block × Report) :=
  if p.advert = Grades.upTo p.cfg.maxGrade then []
  else [(.lp l, ⟨.advertRestored, l.val, p.cfg.maxGrade.slots, none⟩)]

theorem bestSlots_upTo (g : Grade) : (Grades.upTo g).bestSlots = g.slots := by cases g <;> rfl

/-- R110: the restore timer of a Link Port in DOWN has run its time. -/
def Spent (p : LP) : Prop :=
  p.state = .down ∧ ∃ k, p.timers.restore = some k ∧ p.cfg.restoreTime * 4000 ≤ k

/-- R110: the restore timer done with, and the advertisement restored. -/
def restoredInDown (p : LP) : LP := restored { p with timers := { p.timers with restore := none } }

theorem linkState_restoreAdvert :
    (linkState s l F M).restoreAdvert l = linkState s l (fun p => restored (F p))
      { M with reports := M.reports ++ restoreReports l (F s.lp[l]) } := by
  unfold State.restoreAdvert
  dsimp only
  rw [linkState_lp, linkState_onLp, bestSlots_upTo]
  have hport : linkState s l (fun p => { F p with
      advert := Grades.upTo (F s.lp[l]).cfg.maxGrade, removed := ⟨false, false, false⟩ }) M =
      linkState s l (fun p => restored (F p)) M := RunningFrame.linkState_congr rfl
  rw [hport]
  unfold restoreReports
  split
  · rw [List.append_nil]
  · rfl

theorem linkState_restoreExpired_spent (h : Spent (F s.lp[l])) :
    (linkState s l F M).restoreExpired l = linkState s l (fun p => restoredInDown (F p))
      { M with reports := M.reports ++ restoreReports l (F s.lp[l]) } := by
  obtain ⟨hdown, k, htimer, hdue⟩ := h
  unfold State.restoreExpired
  dsimp only
  rw [linkState_lp, linkState_onLp, hdown, htimer]
  exact (if_pos hdue).trans linkState_restoreAdvert

theorem linkState_restoreExpired_none (h : ¬Spent (F s.lp[l])) :
    (linkState s l F M).restoreExpired l = linkState s l F M := by
  unfold State.restoreExpired
  dsimp only
  rw [linkState_lp]
  split
  next k hdown htimer => exact if_neg fun hdue => h ⟨hdown, k, htimer, hdue⟩
  next => rfl

/-- R110: the restore timer at its time, nothing being due before it. -/
theorem execRestoreTimerExpiry_spent (hsettled : LP.Settled s.lp[l]) (h : Spent s.lp[l]) :
    exec (.restoreTimerExpiry l) s = .next (linkState s l restoredInDown
      { s.mail with reports := s.mail.reports ++ restoreReports l s.lp[l] }) := by
  change Host.Outcome.next ((s.settleLink l).restoreExpired l) = _
  rw [settleLink_settled hsettled]
  have hexpired := linkState_restoreExpired_spent (F := fun p => p) (M := s.mail) h
  rw [linkState_id] at hexpired
  rw [hexpired]

theorem restoreTimerRestores : Piece.RestoreTimerRestores := by
  intro l s k hsettled hdown htimer hdue
  refine ⟨_, execRestoreTimerExpiry_spent hsettled ⟨hdown, k, htimer, hdue⟩, rfl, fun hsame => ?_,
    fun hdiff => ?_⟩
  · rw [linkState_mail, restoreReports, if_pos hsame, List.append_nil]
  · rw [linkState_mail, restoreReports, if_neg hdiff]

end Restore

/-! ## Signal reports and the negotiation timer (R90, R93, R102) -/

section Signal

variable {s : State} {l : Link}

/-- The state in which a link has moved between two stopped states. -/
def movedStopped (s : State) (l : Link) (F : LP → LP) (new : LinkState) : State :=
  linkState s l (fun p => (F p).enter new s.mgu.label s.unit)
    { s.mail with stateNotices := updAt s.mail.stateNotices l (· ++ [new]) }

theorem moveLink_stopped {new : LinkState} (h : LP.state s.lp[l] ≠ new)
    (ho : (LP.state s.lp[l]).running = false) (hn : new.running = false) :
    s.moveLink l new = movedStopped s l (fun p => p) new :=
  (moveLink_plain (.inl ho)).trans (moveCore_stopped h ho hn)

theorem execSignalDetect_settled (hsettled : LP.Settled s.lp[l]) :
    exec (.signalDetect l) s =
      if LP.state s.lp[l] = .down ∧ LP.held s.lp[l] = false then .next (s.moveLink l .listen)
      else .next s := by
  change execSignalDetect l s = _
  unfold execSignalDetect
  rw [settleLink_settled hsettled]

theorem execSignalDetect_free (hsettled : LP.Settled s.lp[l]) (hdown : LP.state s.lp[l] = .down)
    (hfree : LP.held s.lp[l] = false) :
    exec (.signalDetect l) s = .next (movedStopped s l (fun p => p) .listen) := by
  rw [execSignalDetect_settled hsettled, if_pos ⟨hdown, hfree⟩,
    moveLink_stopped (by rw [hdown]; decide) (by rw [hdown]; rfl) rfl]

theorem execSignalLoss_settled (hsettled : LP.Settled s.lp[l]) :
    exec (.signalLoss l) s =
      if LP.state s.lp[l] = .disabled ∨ LP.state s.lp[l] = .down then .next s
      else if (LP.state s.lp[l]).running then
        .next ((s.report (.lp l) .linkDown l.val (LP.slotCount s.lp[l])).moveLink l .down)
      else .next (s.moveLink l .down) := by
  change execSignalLoss l s = _
  unfold execSignalLoss
  rw [settleLink_settled hsettled]

theorem execSignalLoss_stopped (hsettled : LP.Settled s.lp[l])
    (hstate : LP.state s.lp[l] ∈ [LinkState.listen, .negotiate, .train]) :
    exec (.signalLoss l) s = .next (movedStopped s l (fun p => p) .down) := by
  obtain ⟨hon, hdown, hrun⟩ : LP.state s.lp[l] ≠ .disabled ∧ LP.state s.lp[l] ≠ .down ∧
      (LP.state s.lp[l]).running = false := by
    simp only [List.mem_cons, List.not_mem_nil, or_false] at hstate
    rcases hstate with h | h | h <;> rw [h] <;> decide
  rw [execSignalLoss_settled hsettled, if_neg (not_or.mpr ⟨hon, hdown⟩),
    if_neg (Bool.eq_false_iff.mp hrun), moveLink_stopped hdown hrun rfl]

theorem signalMovesStoppedLinks : Piece.SignalMovesStoppedLinks := by
  refine fun l s hsettled => ⟨fun hdown hfree => ⟨_, execSignalDetect_free hsettled hdown hfree,
    linkState_onlyLink _ _ _ _, ?detected⟩, fun hheld => ?held, fun hstate =>
    ⟨_, execSignalLoss_stopped hsettled hstate, linkState_onlyLink _ _ _ _, ?lost⟩, fun hstate => ?off⟩
  case detected =>
    rw [movedStopped, linkState_lp]
    exact ⟨rfl, rfl, rfl, rfl, rfl⟩
  case held =>
    rw [execSignalDetect_settled hsettled]
    exact if_neg fun ⟨_, hfree⟩ => by rw [hheld] at hfree; cases hfree
  case lost =>
    rw [movedStopped, linkState_lp]
    exact ⟨rfl, rfl, rfl, rfl⟩
  case off =>
    rw [execSignalLoss_settled hsettled]
    exact if_pos (by simpa only [List.mem_cons, List.not_mem_nil, or_false] using hstate)

/-- R102, R114: the negotiation timer at its time. -/
theorem execNegotiationTimerExpiry_due {k : Nat} (hsettled : LP.Settled s.lp[l])
    (hstate : LP.state s.lp[l] = .negotiate) (htimer : (LP.timers s.lp[l]).neg = some k)
    (hdue : 2000 ≤ k) :
    exec (.negotiationTimerExpiry l) s = .next
      (movedStopped s l (fun p => { p with negTimeouts := satInc p.negTimeouts }) .listen) := by
  change execNegotiationTimerExpiry l s = _
  unfold execNegotiationTimerExpiry
  rw [settleLink_settled hsettled]
  dsimp only
  split
  next t _ htime =>
    obtain rfl := Option.some.inj (htime.symm.trans htimer)
    refine (if_pos hdue).trans (congrArg Host.Outcome.next ?_)
    rw [linkState_of_onLp]
    exact linkState_stopped (by rw [hstate]; decide) (by rw [hstate]; rfl) rfl
  next h => exact absurd htimer (h k hstate)

theorem negotiationTimesOut : Piece.NegotiationTimesOut := by
  intro l s k hsettled hstate htimer hdue
  refine ⟨_, execNegotiationTimerExpiry_due hsettled hstate htimer hdue, linkState_onlyLink _ _ _ _, ?_⟩
  rw [movedStopped, linkState_lp]
  exact ⟨rfl, rfl, rfl, rfl, rfl, rfl⟩

end Signal

/-- Settles O17: signal reports and the negotiation timer are moves between stopped states, and the restore timer
restores the advertisement in DOWN. -/
theorem stoppedLinksMoveBySignalAndTimer : Obligations.StoppedLinksMoveBySignalAndTimer :=
  ⟨signalMovesStoppedLinks, negotiationTimesOut, restoreTimerRestores⟩

end Sys2Proof.LinkRestore
end

section
/-! SUPPORT. What takes a link out (R90 to R92, R112, R126): the three losses of a running link, with and without
a held move, and alignment loss before UP. -/

namespace Sys2Proof.LinkLosses

open Sys2Proof.Machine Sys2Proof.Laws Sys2Proof.LinkOrders Sys2Proof.LinkRestore

/-! ## Entering LISTEN, DOWN or DISABLED (R79, R92, R93, R103) -/

section Out

variable {p q : LP} {new : LinkState}

/-- A Link Port that has entered one of the states in which nothing is negotiated or trained. -/
structure WentOut (new : LinkState) (p q : LP) : Prop where
  state : q.state = new
  rdy : q.rdy = false
  asm : q.asm = .empty
  train : q.train = ⟨0, none⟩
  pageRx : q.pageRx = PageRx.empty
  txFrames : q.txNow = none ∧ q.txNext = none
  framing : new ≠ .disabled → q.framing = 16
  afresh : q.align.acqRun = 0 ∧ q.align.prev = none ∧ q.align.badRun = 0
  rest : q.rest = ⟨false, false, 0, 0, p.rest.used⟩
  timers : q.timers = ⟨none, if new = .down then some 0 else none, none, none⟩
  stale : q.partner = p.partner.map fun r => { r with current := false }
  cfg : q.cfg = p.cfg
  advert : q.advert = p.advert
  attempts : q.attempts = p.attempts
  removed : q.removed = p.removed
  rx : q.rx = p.rx
  txq : q.txq = p.txq
  counters : q.counters = p.counters

theorem wentOut_enter (p : LP) (hout : new ∈ [LinkState.disabled, .down, .listen]) (label : List Byte)
    (unit : BitVec 4) : WentOut new p (p.enter new label unit) := by
  simp only [List.mem_cons, List.not_mem_nil, or_false] at hout
  rcases hout with rfl | rfl | rfl
  · exact ⟨rfl, rfl, rfl, rfl, rfl, ⟨rfl, rfl⟩, fun h => absurd rfl h, ⟨rfl, rfl, rfl⟩, rfl, rfl, rfl,
      rfl, rfl, rfl, rfl, rfl, rfl, rfl⟩
  · exact ⟨rfl, rfl, rfl, rfl, rfl, ⟨rfl, rfl⟩, fun _ => rfl, ⟨rfl, rfl, rfl⟩, rfl, rfl, rfl,
      rfl, rfl, rfl, rfl, rfl, rfl, rfl⟩
  · exact ⟨rfl, rfl, rfl, rfl, rfl, ⟨rfl, rfl⟩, fun _ => rfl, ⟨rfl, rfl, rfl⟩, rfl, rfl, rfl,
      rfl, rfl, rfl, rfl, rfl, rfl, rfl⟩

/-- A move held or not says nothing of the state entered. -/
theorem WentOut.moveDone (h : WentOut new p q) : WentOut new p { q with heldMove := false } where
  state := h.state
  rdy := h.rdy
  asm := h.asm
  train := h.train
  pageRx := h.pageRx
  txFrames := h.txFrames
  framing := h.framing
  afresh := h.afresh
  rest := h.rest
  timers := h.timers
  stale := h.stale
  cfg := h.cfg
  advert := h.advert
  attempts := h.attempts
  removed := h.removed
  rx := h.rx
  txq := h.txq
  counters := h.counters

end Out

/-! ## The three losses (R80, R90, R126) -/

section Losses

variable {l : Link} {s : State} {c : Instr} {new : LinkState} {kind : EventKind} {losses : Nat}

/-- R80, R90, R126: the command that takes a running link out to a stopped state, with the kind of the event it
reports and the alignment losses the link has then counted. -/
inductive Loss (l : Link) (p : LP) : Instr → LinkState → EventKind → Nat → Prop
  | alignment (hbad : 4 ≤ p.align.badRun) :
    Loss l p (.alignmentLoss l) .listen .linkLost (satInc p.counters.alignLosses)
  | signal (hsettled : p.Settled) : Loss l p (.signalLoss l) .down .linkDown p.counters.alignLosses
  | wake {k : Nat} (hsettled : p.Settled) (hwake : p.state = .wake) (htimer : p.timers.wake = some k)
    (hdue : 400 ≤ k) : Loss l p (.wakeTimerExpiry l) .listen .wakeFailed p.counters.alignLosses

theorem Loss.out {p : LP} (h : Loss l p c new kind losses) :
    new ∈ [LinkState.disabled, .down, .listen] ∧ new.running = false ∧ new ≠ .disabled := by
  cases h <;> decide

/-- A Link Port with a count of alignment losses. -/
def withLosses (losses : Nat) (p : LP) : LP :=
  { p with counters := { p.counters with alignLosses := losses } }

/-- The mail with the one event of a loss. -/
def lossReported (l : Link) (p : LP) (kind : EventKind) (m : Mail) : Mail :=
  { m with reports := m.reports ++ [(.lp l, ⟨kind, l.val, p.slotCount, none⟩)] }

/-- Each loss reports its event, counts what it counts, and moves the link. -/
theorem exec_loss (hrun : (LP.state s.lp[l]).running = true) (h : Loss l s.lp[l] c new kind losses) :
    exec c s = .next
      ((linkState s l (withLosses losses) (lossReported l s.lp[l] kind s.mail)).moveLink l new) := by
  have hreport (k : EventKind) : s.report (.lp l) k l.val (LP.slotCount s.lp[l]) =
      linkState s l (withLosses (LP.counters s.lp[l]).alignLosses) (lossReported l s.lp[l] k s.mail) :=
    (linkState_of_onMail s l _).trans (RunningFrame.linkState_congr rfl)
  cases h with
  | alignment hbad =>
    refine congrArg Host.Outcome.next ((if_pos ⟨beyondListen_of_running hrun, hbad⟩).trans ?_)
    exact congrArg (State.moveLink · l .listen) (if_pos hrun)
  | signal hsettled =>
    have hon : ¬(LP.state s.lp[l] = .disabled ∨ LP.state s.lp[l] = .down) := by
      rintro (h | h) <;> rw [h] at hrun <;> cases hrun
    rw [execSignalLoss_settled hsettled, if_neg hon, if_pos hrun, hreport]
  | wake hsettled hwake htimer hdue =>
    change execWakeTimerExpiry l s = _
    unfold execWakeTimerExpiry
    rw [settleLink_settled hsettled]
    dsimp only
    split
    next t _ htime =>
      obtain rfl := Option.some.inj (htime.symm.trans htimer)
      exact (if_pos hdue).trans (by rw [hreport])
    next h => exact absurd htimer (h _ hwake)

/-- A Link Port that a loss takes out, before it enters its stopped state. -/
def lossPort (losses : Nat) (p : LP) : LP := dropped (withLosses losses p)

/-- R84, R87: a loss drops the transmit list and the assembly, and counts itself and a message in assembly. -/
structure LossKeeps (losses : Nat) (p q : LP) : Prop where
  rest : q.rest = p.rest
  partner : q.partner = p.partner
  cfg : q.cfg = p.cfg
  advert : q.advert = p.advert
  attempts : q.attempts = p.attempts
  removed : q.removed = p.removed
  rx : q.rx = p.rx
  txq : q.txq = []
  counted : ∀ buf, p.asm = .assembling buf → q.counters.discarded = satInc p.counters.discarded
  uncounted : (∀ buf, p.asm ≠ .assembling buf) → q.counters.discarded = p.counters.discarded
  losses : q.counters.alignLosses = losses

theorem lossKeeps_lossPort (losses : Nat) (p : LP) : LossKeeps losses p (lossPort losses p) := by
  have hcounters : (lossPort losses p).counters = match p.asm with
      | .assembling _ =>
        { p.counters with alignLosses := losses, discarded := satInc p.counters.discarded }
      | .empty | .skipping => { p.counters with alignLosses := losses } := rfl
  refine ⟨rfl, rfl, rfl, rfl, rfl, rfl, rfl, rfl, fun buf h => ?_, fun h => ?_, ?_⟩
  · rw [hcounters, h]
  · rw [hcounters]
    cases hasm : p.asm with
    | assembling buf => exact absurd hasm (h buf)
    | empty | skipping => rfl
  · rw [hcounters]
    cases p.asm <;> rfl

/-- The Link Port `q` has been taken out of the running states by a loss, into the state `new`. -/
def TakenOut (losses : Nat) (new : LinkState) (p q : LP) : Prop :=
  ∃ r, LossKeeps losses p r ∧ WentOut new r q

/-- R91: a loss without a held move takes the link to its stopped state, and the neighbours are told. -/
theorem exec_loss_free (hrun : (LP.state s.lp[l]).running = true) (hnone : LP.heldMove s.lp[l] = false)
    (h : Loss l s.lp[l] c new kind losses) :
    ∃ F : LP → LP, exec c s = .next
        (linkState s l F (leftMail l s.lp[l] new (lossReported l s.lp[l] kind s.mail))) ∧
      TakenOut losses new s.lp[l] (F s.lp[l]) := by
  obtain ⟨hout, hstopped, -⟩ := h.out
  exact ⟨_, (exec_loss hrun h).trans (congrArg _ (linkState_leave hrun hstopped hnone)),
    lossPort losses s.lp[l], lossKeeps_lossPort _ _, wentOut_enter _ hout _ _⟩

theorem exec_loss_leaves (hrun : (LP.state s.lp[l]).running = true) (hnone : LP.heldMove s.lp[l] = false)
    (h : Loss l s.lp[l] c new kind losses) :
    ∃ t, exec c s = .next t ∧ LeftRunning l s t new kind ∧
      (LP.counters t.lp[l]).alignLosses = losses := by
  obtain ⟨F, hexec, r, hkept, hout⟩ := exec_loss_free hrun hnone h
  obtain ⟨-, -, hon⟩ := h.out
  refine ⟨_, hexec, ?_, by rw [linkState_lp, hout.counters, hkept.losses]⟩
  constructor
  case frame => exact linkState_onlyLink _ _ _ _
  case mail => rfl
  all_goals rw [linkState_lp]
  case state => exact hout.state
  case emptied => exact ⟨hout.txq.trans hkept.txq, hout.asm, hout.rdy⟩
  case counted => exact fun buf hbuf => by rw [hout.counters, hkept.counted buf hbuf]
  case uncounted => exact fun hbuf => by rw [hout.counters, hkept.uncounted hbuf]
  case framing => exact hout.framing hon
  case frames => exact ⟨hout.rx.trans hkept.rx, hout.txFrames⟩
  case afresh => exact hout.afresh
  case rest => rw [hout.rest, hkept.rest]
  case timers => exact hout.timers
  case stale => rw [hout.stale, hkept.partner]
  case kept =>
    exact ⟨hout.cfg.trans hkept.cfg, hout.advert.trans hkept.advert,
      hout.attempts.trans hkept.attempts, hout.removed.trans hkept.removed⟩

theorem runningLinkIsLost : Piece.RunningLinkIsLost := by
  refine fun l s hrun hnone => ⟨fun hbad => exec_loss_leaves hrun hnone (.alignment hbad),
    fun hsettled => ?_, fun k hsettled hwake htimer hdue =>
    exec_loss_leaves hrun hnone (.wake hsettled hwake htimer hdue)⟩
  obtain ⟨t, hexec, hleft, hcount⟩ := exec_loss_leaves hrun hnone (.signal hsettled)
  exact ⟨t, hexec, hleft, hleft.timers, hcount⟩

end Losses

/-! ## A held move follows (R112) -/

section Held

variable {l : Link} {s : State} {c : Instr} {new : LinkState} {kind : EventKind} {losses : Nat}

/-- R112: where a loss leaves a link that holds a move. -/
def heldEnd (p : LP) (new : LinkState) : LinkState := if p.cfg.enable then new else .disabled

/-- R112: entering DISABLED after the state of the loss adds nothing to what the Link Port keeps. -/
theorem WentOut.disabled {p q : LP} (h : WentOut new p q) (label : List Byte) (unit : BitVec 4) :
    WentOut .disabled p (q.enter .disabled label unit) := by
  have hout := wentOut_enter (new := .disabled) q (by decide) label unit
  have hstale := hout.stale
  have hrest := hout.rest
  rw [h.rest] at hrest
  rw [h.stale, Option.map_map] at hstale
  exact { hout with
    rest := hrest
    stale := hstale
    cfg := hout.cfg.trans h.cfg
    advert := hout.advert.trans h.advert
    attempts := hout.attempts.trans h.attempts
    removed := hout.removed.trans h.removed
    rx := hout.rx.trans h.rx
    txq := hout.txq.trans h.txq
    counters := hout.counters.trans h.counters }

/-- R91, R112: the loss, then the held move, with one loss notice and one view notice. -/
theorem exec_loss_held (hrun : (LP.state s.lp[l]).running = true) (hheld : LP.heldMove s.lp[l] = true)
    (h : Loss l s.lp[l] c new kind losses) :
    ∃ (F : LP → LP) (m : Mail), exec c s = .next (linkState s l F m) ∧
      TakenOut losses (heldEnd s.lp[l] new) s.lp[l] (F s.lp[l]) ∧ LP.heldMove (F s.lp[l]) = false ∧
      m.lossNotices = updAt s.mail.lossNotices l (· + 1) ∧
      m.viewNotices = updAt s.mail.viewNotices l (· ++ [⟨.out, 0⟩]) := by
  obtain ⟨hout, hstopped, hon⟩ := h.out
  have hexec := exec_loss hrun h
  have hkept := lossKeeps_lossPort losses s.lp[l]
  have hwent := (wentOut_enter (lossPort losses s.lp[l]) hout s.mgu.label s.unit).moveDone
  cases henable : (LP.cfg s.lp[l]).enable with
  | true =>
    rw [linkState_leave_enabled hrun hstopped hheld henable] at hexec
    rw [show heldEnd s.lp[l] new = new from if_pos henable]
    exact ⟨_, _, hexec, ⟨_, hkept, hwent⟩, rfl, rfl, rfl⟩
  | false =>
    rw [linkState_leave_disabled hrun hstopped hon hheld henable] at hexec
    rw [show heldEnd s.lp[l] new = .disabled from if_neg (Bool.eq_false_iff.mp henable)]
    exact ⟨_, _, hexec, ⟨_, hkept, hwent.disabled _ _⟩, rfl, rfl, rfl⟩

theorem heldEnd_eq_down (p : LP) :
    heldEnd p new = .down ↔ p.cfg.enable = true ∧ new = .down := by
  unfold heldEnd
  split
  next h => exact (and_iff_right h).symm
  next h => exact iff_of_false nofun fun hdown => h hdown.1

theorem heldMoveFollowsTheLoss : Piece.HeldMoveFollowsTheLoss := by
  intro l s c new hrun hheld hloss
  obtain ⟨kind, losses, h⟩ : ∃ kind losses, Loss l s.lp[l] c new kind losses := by
    rcases hloss with ⟨rfl, rfl, hbad⟩ | ⟨rfl, rfl, hsettled⟩ |
      ⟨rfl, rfl, hsettled, hwake, k, htimer, hdue⟩
    · exact ⟨_, _, .alignment hbad⟩
    · exact ⟨_, _, .signal hsettled⟩
    · exact ⟨_, _, .wake hsettled hwake htimer hdue⟩
  obtain ⟨F, m, hexec, ⟨r, hkept, hout⟩, hdone, hlost, hview⟩ := exec_loss_held hrun hheld h
  obtain ⟨-, -, hon⟩ := h.out
  refine ⟨_, hexec, linkState_onlyLink _ _ _ _, ?_⟩
  rw [linkState_lp]
  refine ⟨hdone, hout.state, hout.txq.trans hkept.txq, hout.cfg.trans hkept.cfg,
    fun henable => hout.framing ?_, hout.asm, hout.rdy, by rw [hout.rest, hkept.rest], ?_,
    fun buf hbuf => by rw [hout.counters, hkept.counted buf hbuf], hlost, hview⟩
  · rw [heldEnd, if_pos henable]
    exact hon
  · simp only [hout.timers, heldEnd_eq_down]

end Held

/-! ## Alignment loss before UP (R92) -/

/-- R92: NEGOTIATE and TRAIN lose alignment without an event and without a count. -/
theorem exec_alignmentLoss_stopped {l : Link} {s : State}
    (hstate : LP.state s.lp[l] ∈ [LinkState.negotiate, .train]) (hbad : 4 ≤ (LP.align s.lp[l]).badRun) :
    exec (.alignmentLoss l) s = .next (movedStopped s l (fun p => p) .listen) := by
  obtain ⟨hbeyond, hrun, hmoves⟩ : (LP.state s.lp[l]).beyondListen = true ∧
      (LP.state s.lp[l]).running = false ∧ LP.state s.lp[l] ≠ .listen := by
    simp only [List.mem_cons, List.not_mem_nil, or_false] at hstate
    rcases hstate with h | h <;> rw [h] <;> decide
  refine congrArg Host.Outcome.next ((if_pos ⟨hbeyond, hbad⟩).trans ?_)
  refine (congrArg (State.moveLink · l .listen) (if_neg (Bool.eq_false_iff.mp hrun))).trans ?_
  exact moveLink_stopped hmoves hrun rfl

theorem stoppedLinkLosesAlignment : Piece.StoppedLinkLosesAlignment := by
  intro l s hstate hbad
  have hout := wentOut_enter (new := .listen) s.lp[l] (by decide) s.mgu.label s.unit
  obtain ⟨hrun, hprev, hbadRun⟩ := hout.afresh
  refine ⟨_, exec_alignmentLoss_stopped hstate hbad, linkState_onlyLink _ _ _ _, ?_⟩
  rw [movedStopped, linkState_lp]
  exact ⟨hout.state, hrun, hprev, hbadRun, hout.timers, hout.train, hout.rdy, hout.pageRx,
    hout.framing nofun, hout.attempts, hout.advert, hout.counters, hout.stale, rfl⟩

/-- Settles O16: each loss is one move out of the running states, which a held move follows, and before UP
alignment loss is a move between stopped states. -/
theorem linkIsLostAndHeldMoveFollows : Obligations.LinkIsLostAndHeldMoveFollows :=
  ⟨runningLinkIsLost, heldMoveFollowsTheLoss, stoppedLinkLosesAlignment⟩

end Sys2Proof.LinkLosses
end

section
/-! SUPPORT. Training failures (R107, R108): what one counts, what it takes out of the advertisement, what it
reports, and the way back to NEGOTIATE. -/

namespace Sys2Proof.LinkTraining

open Sys2Proof.Machine Sys2Proof.Laws

section Failure

variable {l : Link} {s : State} {F : LP → LP} {M : Mail}

/-- A Link Port that counts one training failure more, with the given attempts, grades and downshifts. -/
def failedWith (attempts : Nat) (advert removed : Grades) (downshifts : Nat) (p : LP) : LP :=
  { p with
    attempts := attempts, advert := advert, removed := removed
    counters := { p.counters with
      trainFailures := satInc p.counters.trainFailures, downshifts := downshifts } }

/-- R108: the attempts, the grades, the downshifts and the events that a training failure leaves. -/
structure FailureCounted (l : Link) (p : LP) (attempts : Nat) (advert removed : Grades) (downshifts : Nat)
    (events : List (Block × Report)) : Prop where
  below : p.attempts + 1 < p.cfg.threshold → attempts = p.attempts + 1 ∧ advert = p.advert ∧
    downshifts = p.counters.downshifts ∧ events = []
  cleared : p.cfg.threshold ≤ p.attempts + 1 → attempts = 0
  lowered : p.cfg.threshold ≤ p.attempts + 1 → ∀ g, p.agreed = some g → g ≠ .g16 →
    advert = p.advert.diff (Grades.fromUp g) ∧
    removed = p.removed.union (p.advert.inter (Grades.fromUp g)) ∧
    downshifts = satInc p.counters.downshifts ∧
    events = [(.lp l, ⟨.downshift, l.val,
      g.slots * 256 + (p.advert.diff (Grades.fromUp g)).bestSlots, none⟩)]
  least : p.cfg.threshold ≤ p.attempts + 1 → p.agreed = some .g16 → advert = p.advert ∧
    downshifts = p.counters.downshifts ∧ events = [(.lp l, ⟨.trainFailing, l.val, 16, none⟩)]

/-- R108: the downshift of an agreed grade above G16. -/
theorem linkState_downshift {g : Grade} (hg : g ≠ .g16) (hagreed : (F s.lp[l]).agreed = some g) :
    (linkState s l F M).downshift l = linkState s l
      (fun p => { F p with
        attempts := 0
        advert := (F p).advert.diff (Grades.fromUp g)
        removed := (F p).removed.union ((F p).advert.inter (Grades.fromUp g))
        counters := { (F p).counters with downshifts := satInc (F p).counters.downshifts } })
      { M with reports := M.reports ++ [(.lp l, ⟨.downshift, l.val,
        g.slots * 256 + ((F s.lp[l]).advert.diff (Grades.fromUp g)).bestSlots, none⟩)] } := by
  unfold State.downshift
  dsimp only
  rw [linkState_lp, linkState_onLp, hagreed]
  split
  next h => exact absurd h hg
  next =>
    rw [linkState_onLp]
    exact congrArg (State.report · _ _ _ _) (RunningFrame.linkState_congr rfl)

/-- R108: G16 stays, and TRAIN_FAILING is reported. -/
theorem linkState_downshift_g16 (hagreed : (F s.lp[l]).agreed.getD .g16 = .g16) :
    (linkState s l F M).downshift l = linkState s l (fun p => { F p with attempts := 0 })
      { M with reports := M.reports ++ [(.lp l, ⟨.trainFailing, l.val, 16, none⟩)] } := by
  unfold State.downshift
  dsimp only
  rw [linkState_lp, linkState_onLp, hagreed]
  rfl

/-- R107: a failed link goes back to NEGOTIATE. -/
theorem failed_moves {attempts : Nat} {advert removed : Grades} {downshifts : Nat}
    (htrain : LP.state s.lp[l] = .train)
    (hport : F s.lp[l] = failedWith attempts advert removed downshifts s.lp[l]) :
    (linkState s l F M).moveLink l .negotiate = linkState s l
      (fun p => (failedWith attempts advert removed downshifts p).enter .negotiate s.mgu.label s.unit)
      { M with stateNotices := updAt M.stateNotices l (· ++ [.negotiate]) } := by
  have hstate : (failedWith attempts advert removed downshifts s.lp[l]).state = .train := htrain
  rw [RunningFrame.linkState_congr hport]
  exact linkState_stopped (by rw [hstate]; decide) (by rw [hstate]; rfl) rfl

/-- R107, R108: what a training failure does, below the threshold and at it. -/
theorem trainingFailure_eq (htrain : LP.state s.lp[l] = .train) :
    ∃ attempts advert removed downshifts events,
      s.trainingFailure l = linkState s l
        (fun p => (failedWith attempts advert removed downshifts p).enter .negotiate s.mgu.label s.unit)
        { s.mail with
          reports := s.mail.reports ++ events
          stateNotices := updAt s.mail.stateNotices l (· ++ [.negotiate]) } ∧
      FailureCounted l s.lp[l] attempts advert removed downshifts events := by
  unfold State.trainingFailure
  dsimp only
  rw [linkState_of_onLp, linkState_lp]
  split
  next hat =>
    have hat' : ¬LP.attempts s.lp[l] + 1 < (LP.cfg s.lp[l]).threshold := Nat.not_lt.mpr hat
    by_cases hleast : (LP.agreed s.lp[l]).getD .g16 = .g16
    · rw [linkState_downshift_g16 hleast]
      refine ⟨0, _, _, _, _, failed_moves htrain rfl, fun h => absurd h hat', fun _ => rfl, fun _ g hg hne => ?_,
        fun _ _ => ⟨rfl, rfl, rfl⟩⟩
      rw [hg] at hleast
      exact absurd hleast hne
    · obtain ⟨g, hg⟩ : ∃ g, LP.agreed s.lp[l] = some g := by
        cases hagreed : LP.agreed s.lp[l] with
        | none => exact absurd (by rw [hagreed]; rfl) hleast
        | some g => exact ⟨g, rfl⟩
      have hne : g ≠ .g16 := by
        rw [hg] at hleast
        exact hleast
      rw [linkState_downshift hne hg]
      refine ⟨0, _, _, _, _, failed_moves htrain rfl, fun h => absurd h hat', fun _ => rfl, fun _ g' hg' _ => ?_,
        fun _ hg' => ?_⟩
      · obtain rfl := Option.some.inj (hg.symm.trans hg')
        exact ⟨rfl, rfl, rfl, rfl⟩
      · exact absurd (Option.some.inj (hg.symm.trans hg')) hne
  next hbelow =>
    refine ⟨_, _, LP.removed s.lp[l], _, [], ?_, fun _ => ⟨rfl, rfl, rfl, rfl⟩, fun h => absurd h hbelow,
      fun h => absurd h hbelow, fun h => absurd h hbelow⟩
    rw [List.append_nil]
    exact failed_moves htrain rfl

/-- R105, R107: a failed window and the 512th frame are each a training failure. -/
theorem exec_trainingFailure {c : Instr} (htrain : LP.state s.lp[l] = .train)
    (h : (c = .windowFail l ∧ (∃ w, (LP.train s.lp[l]).window = some w ∧ 3 ≤ w.errors)) ∨
      (c = .trainLimit l ∧ 512 ≤ (LP.train s.lp[l]).frames)) :
    exec c s = .next (s.trainingFailure l) := by
  rcases h with ⟨rfl, w, hwindow, herrors⟩ | ⟨rfl, hframes⟩
  · have hdue : s.dueWindowFail l = s.trainingFailure l := by
      unfold State.dueWindowFail
      simp only [hwindow]
      exact if_pos ⟨htrain, herrors⟩
    exact congrArg Host.Outcome.next hdue
  · exact congrArg Host.Outcome.next (if_pos ⟨htrain, hframes⟩)

end Failure

/-- Settles O18: both failures count the same, and the way back to NEGOTIATE keeps what was counted. -/
theorem trainingFailureDownshifts : Obligations.TrainingFailureDownshifts := by
  intro l s c htrain hfails
  obtain ⟨attempts, advert, removed, downshifts, events, hfailure, hcounted⟩ := trainingFailure_eq htrain
  refine ⟨_, (exec_trainingFailure htrain hfails).trans (congrArg _ hfailure), linkState_onlyLink _ _ _ _, ?_⟩
  rw [linkState_lp, linkState_mail]
  refine ⟨rfl, rfl, rfl, rfl, rfl, rfl, rfl, rfl, fun hbelow => ?_, fun hat =>
    ⟨hcounted.cleared hat, fun g hg hne => ?_, fun hg => ?_⟩⟩
  · obtain ⟨hattempts, hadvert, hdownshifts, rfl⟩ := hcounted.below hbelow
    exact ⟨hattempts, hadvert, hdownshifts, by rw [List.append_nil]⟩
  · obtain ⟨hadvert, hremoved, hdownshifts, rfl⟩ := hcounted.lowered hat g hg hne
    exact ⟨hadvert, hremoved, hdownshifts, rfl⟩
  · obtain ⟨hadvert, hdownshifts, rfl⟩ := hcounted.least hat hg
    exact ⟨hadvert, hdownshifts, rfl⟩

end Sys2Proof.LinkTraining
end

section
/-! SUPPORT. The two requests that change a link (R109 to R113, R127): the move a request asks for, made or held,
and the configuration that LINK SET puts in force. -/

namespace Sys2Proof.LinkSettings

open Sys2Proof.Machine Sys2Proof.Laws Sys2Proof.LinkRest Sys2Proof.LinkRestore

/-! ## Moves to a stopped state (R91, R92, R102) -/

section Arrivals

variable {l : Link} {s : State} {F : LP → LP} {M : Mail} {new : LinkState}

/-- A Link Port in the stopped state it was to move to: its configuration, attempts and grades are kept, a restore
timer done with does not start again, and it is the same where it stood there before. -/
structure Arrived (new : LinkState) (p q : LP) : Prop where
  state : q.state = new
  cfg : q.cfg = p.cfg
  attempts : q.attempts = p.attempts
  advert : q.advert = p.advert
  removed : q.removed = p.removed
  restore : p.state = .down → p.timers.restore = none → q.timers.restore = none
  stayed : p.state = new → q = p

theorem arrived_same {p : LP} (h : p.state = new) : Arrived new p p :=
  ⟨h, rfl, rfl, rfl, rfl, fun _ h => h, fun _ => rfl⟩

/-- The restore timer runs in DOWN alone. -/
theorem enter_restore (p : LP) (hn : new.running = false) (hd : new ≠ .down) (label : List Byte)
    (unit : BitVec 4) : (p.enter new label unit).timers.restore = none := by
  cases new with
  | down => exact absurd rfl hd
  | disabled | listen | negotiate | train => rfl
  | up | rest | wake => cases hn

theorem enter_attempts_stopped (p : LP) (hn : new.running = false) (label : List Byte) (unit : BitVec 4) :
    (p.enter new label unit).attempts = p.attempts :=
  (enter_attempts _ _ _ _).trans (if_neg fun h => by rw [h.1] at hn; cases hn)

/-- Entering a stopped state, as the link stood or with what leaving the running states has dropped. -/
theorem arrived_enter {p r : LP} (hr : r = p ∨ r = dropped p) (hmoves : p.state ≠ new)
    (hn : new.running = false) (label : List Byte) (unit : BitVec 4) :
    Arrived new p (r.enter new label unit) where
  state := enter_state _ _ _ _
  cfg := (enter_cfg _ _ _ _).trans (by rcases hr with rfl | rfl <;> rfl)
  attempts := (enter_attempts_stopped _ hn _ _).trans (by rcases hr with rfl | rfl <;> rfl)
  advert := (enter_advert _ _ _ _).trans (by rcases hr with rfl | rfl <;> rfl)
  removed := (enter_removed _ _ _ _).trans (by rcases hr with rfl | rfl <;> rfl)
  restore hdown _ := enter_restore _ hn (fun h => hmoves (hdown.trans h.symm)) _ _
  stayed h := absurd h hmoves

/-- A move to a stopped state, no move being held where the link is running. -/
theorem moveLink_arrives (hn : new.running = false)
    (hnone : (F s.lp[l]).state.running = true → (F s.lp[l]).heldMove = false) :
    ∃ (G : LP → LP) (n : Mail), (linkState s l F M).moveLink l new = linkState s l G n ∧
      Arrived new (F s.lp[l]) (G s.lp[l]) ∧ n.results = M.results ∧ n.reports = M.reports := by
  by_cases hsame : (F s.lp[l]).state = new
  · exact ⟨_, _, linkState_same hsame hn, arrived_same hsame, rfl, rfl⟩
  · cases hrun : (F s.lp[l]).state.running with
    | true =>
      exact ⟨_, _, linkState_leave hrun hn (hnone hrun), arrived_enter (.inr rfl) hsame hn _ _, rfl, rfl⟩
    | false => exact ⟨_, _, linkState_stopped hsame hrun hn, arrived_enter (.inl rfl) hsame hn _ _, rfl, rfl⟩

end Arrivals

/-! ## The move a request asks for (R112) -/

section Asked

variable {l : Link} {s : State} {F : LP → LP} {M : Mail} {req : Req} {target : Option LinkState}

/-- R112: the move a request asks for, if any, with what its response defers. -/
def askMove (s : State) (l : Link) (req : Req) (target : Option LinkState) : State × Option Deferred :=
  match target with
  | some new => s.requestMove l req new
  | none => (s, none)

/-- What a request that may ask for a move leaves of the Link Port, the messages and its response. -/
structure MoveAsked (l : Link) (req : Req) (target : Option LinkState) (p q : LP) (m n : Mail)
    (d : Option Deferred) : Prop where
  cfg : q.cfg = p.cfg
  attempts : q.attempts = p.attempts
  advert : q.advert = p.advert
  removed : q.removed = p.removed
  results : n.results = m.results
  reports : n.reports = m.reports
  held : moveIsHeld p l req → q.state = p.state ∧ q.heldMove = (p.heldMove || target.isSome) ∧
    d = if req.ref.link = l ∧ target.isSome = true then some .heldMove else none
  made : ¬moveIsHeld p l req → d = none ∧ q.state = target.getD p.state
  stayed : q.state = p.state → q.rest = p.rest ∧ q.timers = p.timers
  restore : p.state = .down → p.timers.restore = none → q.timers.restore = none

/-- R112: a move that is held waits in the Link Port, which stays where it is. -/
theorem requestMove_held {new : LinkState} (h : moveIsHeld (F s.lp[l]) l req) :
    (linkState s l F M).requestMove l req new =
      (linkState s l (fun p => { F p with heldMove := true }) M,
        if req.ref.link = l then some .heldMove else none) := by
  unfold State.requestMove
  rw [linkState_lp, linkState_onLp]
  exact if_pos h

theorem requestMove_made {new : LinkState} (h : ¬moveIsHeld (F s.lp[l]) l req) :
    (linkState s l F M).requestMove l req new = ((linkState s l F M).moveLink l new, none) := by
  unfold State.requestMove
  rw [linkState_lp]
  exact if_neg h

/-- R111 to R113: the moves that requests ask for go to stopped states, and are made or held. -/
theorem askMove_linkState (s : State) (l : Link) (F : LP → LP) (M : Mail) (req : Req)
    (hn : ∀ new, target = some new → new.running = false) :
    ∃ (G : LP → LP) (n : Mail) (d : Option Deferred),
      askMove (linkState s l F M) l req target = (linkState s l G n, d) ∧
      MoveAsked l req target (F s.lp[l]) (G s.lp[l]) M n d := by
  cases target with
  | none =>
    exact ⟨F, M, none, rfl, rfl, rfl, rfl, rfl, rfl, rfl,
      fun _ => ⟨rfl, (Bool.or_false _).symm, (if_neg fun h => by cases h.2).symm⟩, fun _ => ⟨rfl, rfl⟩,
      fun _ => ⟨rfl, rfl⟩, fun _ h => h⟩
  | some new =>
    by_cases hheld : moveIsHeld (F s.lp[l]) l req
    · refine ⟨_, _, _, requestMove_held hheld, rfl, rfl, rfl, rfl, rfl, rfl,
        fun _ => ⟨rfl, (Bool.or_true _).symm, ?_⟩, fun h => absurd hheld h, fun _ => ⟨rfl, rfl⟩,
        fun _ h => h⟩
      simp only [Option.isSome_some, and_true]
    · have hnone (hrun : (F s.lp[l]).state.running = true) : (F s.lp[l]).heldMove = false :=
        Bool.eq_false_iff.mpr fun h => hheld ⟨hrun, .inr h⟩
      obtain ⟨G, n, hmove, harrived, hresults, hreports⟩ := moveLink_arrives (M := M) (hn new rfl) hnone
      refine ⟨G, n, none, (requestMove_made hheld).trans (congrArg (·, none) hmove), harrived.cfg,
        harrived.attempts, harrived.advert, harrived.removed, hresults, hreports, fun h => absurd h hheld,
        fun _ => ⟨rfl, harrived.state⟩, fun h => ?_, harrived.restore⟩
      rw [harrived.stayed (h.symm.trans harrived.state)]
      exact ⟨rfl, rfl⟩

end Asked

/-! ## A new rest hold (R127) -/

section RestHold

variable {p : LP} {old : Nat}

theorem applyRestHold_elsewhere (h : p.state ≠ .up) : p.applyRestHold old = p := if_neg h

/-- R120, R127: the own RST clears with its set run, and a clear one keeps it. -/
theorem clearOwnRst (x : RestState) :
    (if x.ownRst then { x with ownRst := false, setRun := 0 } else x) =
      { x with ownRst := false, setRun := if x.ownRst then 0 else x.setRun } := by
  obtain ⟨own, partner, setRun, clearRun, used⟩ := x
  cases own with
  | true => rfl
  | false => rfl

/-- R127: without a rest hold the timer stops and the own RST clears. -/
theorem applyRestHold_zero (hup : p.state = .up) (hzero : p.cfg.restHold = 0) :
    p.applyRestHold old = { p with
      timers := { p.timers with restHold := none }
      rest := { p.rest with ownRst := false, setRun := if p.rest.ownRst then 0 else p.rest.setRun } } := by
  refine (if_pos hup).trans ((if_pos hzero).trans ?_)
  rw [clearOwnRst]

theorem applyRestHold_kept (hup : p.state = .up) (hhold : 0 < p.cfg.restHold)
    (h : p.rest.ownRst = true ∨ old = p.cfg.restHold) : p.applyRestHold old = p :=
  (if_pos hup).trans ((if_neg hhold.ne').trans (if_pos h))

theorem applyRestHold_new (hup : p.state = .up) (hhold : 0 < p.cfg.restHold)
    (hown : p.rest.ownRst = false) (hdiff : old ≠ p.cfg.restHold) : p.applyRestHold old = p.startRestHold :=
  (if_pos hup).trans ((if_neg hhold.ne').trans (if_neg (by rw [hown]; exact not_or.mpr ⟨nofun, hdiff⟩)))

/-- R118, R119: the rest hold timer of a link in UP with a rest hold. -/
theorem startRestHold_timer (hup : p.state = .up) (hhold : 0 < p.cfg.restHold) :
    p.startRestHold.timers.restHold =
      if p.rest.used = false ∧ (p.partner.map fun r => r.base.rcap) = some true then some 0 else none := by
  rw [startRestHold_restHold]
  refine if_congr ((restEligible_iff p).trans ?_) rfl rfl
  simp only [hup, mayRest, hhold, true_and, Option.map_eq_some_iff]

end RestHold

/-! ## LINK SET (R110, R111, R127) -/

section Configuration

variable {l : Link} {s : State} {M : Mail} {cfg : LinkConfig}

/-- R109, R111: LINK SET puts its values in force, and restores the advertisement of a changed maximum grade. -/
def regrade (s : State) (l : Link) (cfg : LinkConfig) : State :=
  let changed := decide ((LP.cfg s.lp[l]).maxGrade ≠ cfg.maxGrade)
  let s := s.onLp l fun p => { p with cfg := cfg, attempts := 0 }
  if changed then s.restoreAdvert l else s

/-- R110, R111, R127: what LINK SET does before its move. -/
def configure (s : State) (l : Link) (cfg : LinkConfig) : State :=
  ((regrade s l cfg).onLp l fun p => p.applyRestHold (LP.cfg s.lp[l]).restHold).restoreExpired l

/-- R111: the configuration in force, and the advertisement of a changed maximum grade. -/
def regraded (cfg : LinkConfig) (p : LP) : LP :=
  { p with
    cfg := cfg, attempts := 0
    advert := if p.cfg.maxGrade = cfg.maxGrade then p.advert else Grades.upTo cfg.maxGrade
    removed := if p.cfg.maxGrade = cfg.maxGrade then p.removed else ⟨false, false, false⟩ }

/-- R109, R111: the event of a changed maximum grade. -/
def regradeReports (l : Link) (cfg : LinkConfig) (p : LP) : List (Block × Report) :=
  if p.cfg.maxGrade = cfg.maxGrade then [] else restoreReports l { p with cfg := cfg, attempts := 0 }

/-- What LINK SET leaves of a Link Port before its move, with the events it has reported. -/
structure Configured (l : Link) (cfg : LinkConfig) (p q : LP) (events : List (Block × Report)) : Prop where
  state : q.state = p.state
  heldMove : q.heldMove = p.heldMove
  inForce : q.cfg = cfg
  attempts : q.attempts = 0
  regraded : cfg.maxGrade ≠ p.cfg.maxGrade →
    q.advert = Grades.upTo cfg.maxGrade ∧ q.removed = ⟨false, false, false⟩
  noHold : p.state = .up → cfg.restHold = 0 → q.timers.restHold = none ∧
    q.rest = { p.rest with ownRst := false, setRun := if p.rest.ownRst then 0 else p.rest.setRun }
  hold : p.state = .up → 0 < cfg.restHold → q.rest = p.rest ∧
    (p.rest.ownRst = true ∨ cfg.restHold = p.cfg.restHold → q.timers.restHold = p.timers.restHold) ∧
    (p.rest.ownRst = false → cfg.restHold ≠ p.cfg.restHold → q.timers.restHold =
      if p.rest.used = false ∧ (p.partner.map fun r => r.base.rcap) = some true then some 0 else none)
  spent : ∀ k, p.state = .down → p.timers.restore = some k → cfg.restoreTime * 4000 ≤ k →
    q.advert = Grades.upTo cfg.maxGrade ∧ q.removed = ⟨false, false, false⟩ ∧ q.timers.restore = none ∧
    events = if p.advert = Grades.upTo cfg.maxGrade then []
      else [(.lp l, ⟨.advertRestored, l.val, cfg.maxGrade.slots, none⟩)]
  unspent : ∀ k, p.state = .down → p.timers.restore = some k → k < cfg.restoreTime * 4000 →
    cfg.maxGrade = p.cfg.maxGrade → q.advert = p.advert ∧ q.removed = p.removed ∧ events = []

theorem regraded_advert {p : LP} (h : cfg.maxGrade ≠ p.cfg.maxGrade) :
    (regraded cfg p).advert = Grades.upTo cfg.maxGrade ∧ (regraded cfg p).removed = ⟨false, false, false⟩ :=
  ⟨if_neg h.symm, if_neg h.symm⟩

theorem regraded_same {p : LP} (h : cfg.maxGrade = p.cfg.maxGrade) :
    (regraded cfg p).advert = p.advert ∧ (regraded cfg p).removed = p.removed :=
  ⟨if_pos h.symm, if_pos h.symm⟩

/-- R109: a restore after a changed maximum grade has nothing more to report, so the event comes once. -/
theorem reports_once (p : LP) : regradeReports l cfg p ++ restoreReports l (regraded cfg p) =
    if p.advert = Grades.upTo cfg.maxGrade then []
    else [(.lp l, ⟨.advertRestored, l.val, cfg.maxGrade.slots, none⟩)] := by
  by_cases hsame : p.cfg.maxGrade = cfg.maxGrade
  · have hadvert : (regraded cfg p).advert = p.advert := if_pos hsame
    rw [regradeReports, if_pos hsame, List.nil_append, restoreReports, hadvert]
    rfl
  · have hadvert : (regraded cfg p).advert = Grades.upTo (regraded cfg p).cfg.maxGrade := if_neg hsame
    rw [regradeReports, if_neg hsame, restoreReports, restoreReports, if_pos hadvert, List.append_nil]

/-- R127: in UP the new rest hold acts; the restore timer does not run there. -/
theorem configured_up {p : LP} {events : List (Block × Report)} (hup : p.state = .up) :
    Configured l cfg p ((regraded cfg p).applyRestHold p.cfg.restHold) events := by
  have hdown {P : Prop} (h : p.state = .down) : P := by rw [hup] at h; cases h
  have hup' : (regraded cfg p).state = .up := hup
  rcases Nat.eq_zero_or_pos cfg.restHold with hzero | hhold
  · rw [applyRestHold_zero hup' hzero]
    exact ⟨rfl, rfl, rfl, rfl, regraded_advert, fun _ _ => ⟨rfl, rfl⟩,
      fun _ h => absurd hzero h.ne', fun _ => hdown, fun _ => hdown⟩
  · have hnone {P : Prop} (h : cfg.restHold = 0) : P := absurd h hhold.ne'
    by_cases hkept : p.rest.ownRst = true ∨ p.cfg.restHold = cfg.restHold
    · rw [applyRestHold_kept hup' hhold hkept]
      refine ⟨rfl, rfl, rfl, rfl, regraded_advert, fun _ => hnone, fun _ _ => ⟨rfl, fun _ => rfl,
        fun hown hdiff => ?_⟩, fun _ => hdown, fun _ => hdown⟩
      rcases hkept with h | h
      · rw [hown] at h
        cases h
      · exact absurd h.symm hdiff
    · obtain ⟨hown, hdiff⟩ := not_or.mp hkept
      rw [applyRestHold_new hup' hhold (Bool.eq_false_iff.mpr hown) hdiff]
      refine ⟨rfl, rfl, rfl, rfl, regraded_advert, fun _ => hnone, fun _ _ => ⟨rfl, fun h => ?_,
        fun _ _ => startRestHold_timer hup' hhold⟩, fun _ => hdown, fun _ => hdown⟩
      exact absurd (h.imp_right Eq.symm) hkept

/-- R110: in DOWN a restore time already spent restores the advertisement at once. -/
theorem configured_spent {p : LP} (h : Spent (regraded cfg p)) :
    Configured l cfg p (restoredInDown (regraded cfg p))
      (regradeReports l cfg p ++ restoreReports l (regraded cfg p)) := by
  obtain ⟨hstate, k, htimer, hdue⟩ := h
  have hup {P : Prop} (h : p.state = .up) : P := by cases hstate.symm.trans h
  refine ⟨rfl, rfl, rfl, rfl, fun _ => ⟨rfl, rfl⟩, hup, hup,
    fun _ _ _ _ => ⟨rfl, rfl, rfl, reports_once p⟩, fun j _ hj hearly => ?_⟩
  obtain rfl := Option.some.inj (htimer.symm.trans hj)
  exact absurd hdue (Nat.not_le.mpr hearly)

/-- R111: elsewhere LINK SET does no more than put its values in force. -/
theorem configured_elsewhere {p : LP} (hup : p.state ≠ .up) (h : ¬Spent (regraded cfg p)) :
    Configured l cfg p (regraded cfg p) (regradeReports l cfg p) := by
  refine ⟨rfl, rfl, rfl, rfl, regraded_advert, fun h => absurd h hup, fun h => absurd h hup,
    fun k hdown htimer hdue => absurd ⟨hdown, k, htimer, hdue⟩ h, fun k _ _ _ hsame => ?_⟩
  obtain ⟨hadvert, hremoved⟩ := regraded_same hsame
  exact ⟨hadvert, hremoved, if_pos hsame.symm⟩

theorem regrade_eq (s : State) (l : Link) (cfg : LinkConfig) :
    regrade s l cfg = linkState s l (regraded cfg)
      { s.mail with reports := s.mail.reports ++ regradeReports l cfg s.lp[l] } := by
  unfold regrade
  dsimp only
  rw [linkState_of_onLp, linkState_restoreAdvert]
  by_cases hsame : (LP.cfg s.lp[l]).maxGrade = cfg.maxGrade
  · rw [if_neg (by rw [decide_eq_true_eq]; exact not_not.mpr hsame), regradeReports, if_pos hsame,
      List.append_nil]
    exact RunningFrame.linkState_congr (by rw [regraded, if_pos hsame, if_pos hsame])
  · rw [if_pos (decide_eq_true hsame), regradeReports, if_neg hsame]
    exact RunningFrame.linkState_congr (by rw [regraded, if_neg hsame, if_neg hsame]; rfl)

/-- R110, R111, R127: LINK SET puts its values in force, and they act at once. -/
theorem configure_eq (s : State) (l : Link) (cfg : LinkConfig) :
    ∃ (F : LP → LP) (events : List (Block × Report)),
      configure s l cfg = linkState s l F { s.mail with reports := s.mail.reports ++ events } ∧
      Configured l cfg s.lp[l] (F s.lp[l]) events := by
  rw [configure, regrade_eq, linkState_onLp]
  by_cases hup : LP.state s.lp[l] = .up
  · refine ⟨_, _, linkState_restoreExpired_none ?_, configured_up hup⟩
    rintro ⟨hdown, -⟩
    rw [(configured_up (l := l) (events := []) hup).state, hup] at hdown
    cases hdown
  · have hport : linkState s l (fun p => (regraded cfg p).applyRestHold (LP.cfg s.lp[l]).restHold) =
        linkState s l (regraded cfg) :=
      funext fun M => RunningFrame.linkState_congr (applyRestHold_elsewhere hup)
    rw [hport]
    by_cases hspent : Spent (regraded cfg s.lp[l])
    · rw [linkState_restoreExpired_spent hspent]
      exact ⟨_, _, by rw [List.append_assoc], configured_spent hspent⟩
    · exact ⟨_, _, linkState_restoreExpired_none hspent, configured_elsewhere hup hspent⟩

end Configuration

section LinkSet

variable {l : Link} {s s' : State} {req : Req}

/-- R111: the fields are checked in their order. -/
theorem linkSetBad_body (x e g h t r1 r2 : Byte) : linkSetBad [x, e, g, h, t, r1, r2] =
    if 1 < e.toNat then some 2 else if 2 < g.toNat then some 3
    else if h.toNat = 0 ∨ 15 < h.toNat then some 4 else if t.toNat = 0 then some 5
    else if 60000 < r1.toNat * 256 + r2.toNat then some 6 else none := rfl

theorem ofCode_le {n : Nat} {grade : Grade} (h : Grade.ofCode n = some grade) : n ≤ 2 := by
  unfold Grade.ofCode at h
  split at h
  case h_4 => cases h
  all_goals decide

theorem linkSetConfig_body {x e g h t r1 r2 : Byte} {grade : Grade} (hgrade : Grade.ofCode g.toNat = some grade) :
    linkSetConfig [x, e, g, h, t, r1, r2] =
      ⟨e.toNat == 1, grade, h.toNat, t.toNat, r1.toNat * 256 + r2.toNat⟩ :=
  congrArg (fun o : Option Grade => LinkConfig.mk (e.toNat == 1) (o.getD .g16) h.toNat t.toNat
    (r1.toNat * 256 + r2.toNat)) hgrade

/-- R111: the table's moves go to stopped states. -/
theorem linkSetMove_stopped {cfg : LinkConfig} {st new : LinkState} {changed : Bool}
    (h : linkSetMove cfg st changed = some new) : new.running = false := by
  unfold linkSetMove at h
  split_ifs at h <;> (obtain rfl := Option.some.inj h; rfl)

/-- R111: a field out of range is answered, and nothing changes. -/
theorem execLinkSet_bad (hsettled : LP.Settled s.lp[l]) (h : Handed (.lp l) req s s')
    (hk : req.kind = .linkSet) {field : Nat} (hbad : linkSetBad req.body = some field) :
    exec (.linkSet l) s = .next (s'.badField (.lp l) req field) := by
  change execLinkSet l s = _
  unfold execLinkSet
  rw [settleLink_settled hsettled, kindRequest_handed h hk, hbad]

/-- R111, R112: with every field in range the configuration is put in force and the move asked for. -/
theorem execLinkSet_good (hsettled : LP.Settled s.lp[l]) (h : Handed (.lp l) req s s')
    (hk : req.kind = .linkSet) (hgood : linkSetBad req.body = none) :
    exec (.linkSet l) s = .next
      (let t := configure s' l (linkSetConfig req.body)
      let r := askMove t l req (linkSetMove (linkSetConfig req.body) t.lp[l].state
        (decide ((LP.cfg s.lp[l]).maxGrade ≠ (linkSetConfig req.body).maxGrade)))
      r.1.answer (.lp l) req .ok (u8 l.val) r.2) := by
  change execLinkSet l s = _
  unfold execLinkSet
  rw [settleLink_settled hsettled, kindRequest_handed h hk, hgood, ← LinkOrders.handed_lp h]
  rfl

/-- A move is held alike for two Link Ports in one state, with a held move in both or in neither. -/
theorem moveIsHeld_congr {p q : LP} (hstate : q.state = p.state) (hheld : q.heldMove = p.heldMove) :
    moveIsHeld q l req ↔ moveIsHeld p l req := by
  unfold moveIsHeld
  rw [hstate, hheld]

/-- R110 to R112, R127: LINK SET with every field in range configures the link, and then its move is made or
held. -/
theorem execLinkSet_configures {cfg : LinkConfig} (hsettled : LP.Settled s.lp[l])
    (h : Handed (.lp l) req s s') (hk : req.kind = .linkSet) (hgood : linkSetBad req.body = none)
    (hcfg : linkSetConfig req.body = cfg) :
    ∃ (F G : LP → LP) (events : List (Block × Report)) (n : Mail) (d : Option Deferred),
      exec (.linkSet l) s = .next ((linkState s l G n).answer (.lp l) req .ok (u8 l.val) d) ∧
      Configured l cfg s.lp[l] (F s.lp[l]) events ∧
      MoveAsked l req
        (linkSetMove cfg (LP.state s.lp[l]) (decide ((LP.cfg s.lp[l]).maxGrade ≠ cfg.maxGrade)))
        (F s.lp[l]) (G s.lp[l]) { s'.mail with reports := s.mail.reports ++ events } n d := by
  have hexec := execLinkSet_good hsettled h hk hgood
  obtain ⟨rest, -, rfl⟩ := h
  rw [hcfg] at hexec
  obtain ⟨F, events, hconfigure, hconfigured⟩ := configure_eq (s.onMail fun m => { m with reqs := rest }) l cfg
  have hstate : (F s.lp[l]).state = LP.state s.lp[l] := hconfigured.state
  rw [hconfigure] at hexec
  dsimp only at hexec
  rw [linkState_lp] at hexec
  obtain ⟨G, n, d, hask, hasked⟩ := askMove_linkState (s.onMail fun m => { m with reqs := rest }) l F
    { s.mail with reqs := rest, reports := s.mail.reports ++ events } req
    (target := linkSetMove cfg (LP.state s.lp[l]) (decide ((LP.cfg s.lp[l]).maxGrade ≠ cfg.maxGrade)))
    fun new => linkSetMove_stopped
  exact ⟨F, G, events, n, d, hexec.trans (congrArg
    (fun r : State × Option Deferred => Host.Outcome.next (r.1.answer (.lp l) req .ok (u8 l.val) r.2))
    ((congrArg (fun st => askMove _ l req (linkSetMove cfg st _)) hstate).trans hask)), hconfigured, hasked⟩

/-- R111: the first field out of range, for each field and the fields before it in range. -/
theorem linkSetBad_cases (x e g h t r1 r2 : Byte) :
    (1 < e.toNat → linkSetBad [x, e, g, h, t, r1, r2] = some 2) ∧
    (e.toNat ≤ 1 → 2 < g.toNat → linkSetBad [x, e, g, h, t, r1, r2] = some 3) ∧
    (e.toNat ≤ 1 → g.toNat ≤ 2 → h.toNat = 0 ∨ 15 < h.toNat →
      linkSetBad [x, e, g, h, t, r1, r2] = some 4) ∧
    (e.toNat ≤ 1 → g.toNat ≤ 2 → 1 ≤ h.toNat → h.toNat ≤ 15 →
      (t.toNat = 0 → linkSetBad [x, e, g, h, t, r1, r2] = some 5) ∧
      (1 ≤ t.toNat → 60000 < r1.toNat * 256 + r2.toNat →
        linkSetBad [x, e, g, h, t, r1, r2] = some 6) ∧
      (1 ≤ t.toNat → r1.toNat * 256 + r2.toNat ≤ 60000 →
        linkSetBad [x, e, g, h, t, r1, r2] = none)) := by
  rw [linkSetBad_body]
  refine ⟨fun he => if_pos he, fun he hg => ?_, fun he hg hh => ?_, fun he hg hlow hhigh => ?_⟩
  · rw [if_neg he.not_gt, if_pos hg]
  · rw [if_neg he.not_gt, if_neg hg.not_gt, if_pos hh]
  · rw [if_neg he.not_gt, if_neg hg.not_gt, if_neg (by omega)]
    refine ⟨fun ht => if_pos ht, fun ht hr => ?_, fun ht hr => ?_⟩
    · rw [if_neg (Nat.one_le_iff_ne_zero.mp ht), if_pos hr]
    · rw [if_neg (Nat.one_le_iff_ne_zero.mp ht), if_neg hr.not_gt]

theorem linkSetConfigures : Piece.LinkSetConfigures := by
  intro l s s' req x e g h t r1 r2 hsettled hhanded hk hbody
  obtain ⟨hbad2, hbad3, hbad4, hlater⟩ := linkSetBad_cases x e g h t r1 r2
  rw [← hbody] at hbad2 hbad3 hbad4 hlater
  have hbad {field : Nat} (hfield : linkSetBad req.body = some field) :=
    execLinkSet_bad hsettled hhanded hk hfield
  refine ⟨fun he => hbad (hbad2 he), fun he hg => hbad (hbad3 he hg), fun he hg hh => hbad (hbad4 he hg hh),
    fun he hg hlow hhigh ht => ?_, fun he hg hlow hhigh ht hr => ?_,
    fun grade hold hgrade he hlow hhigh ht hhold hr => ?_⟩
  · obtain ⟨hbad5, -, -⟩ := hlater he hg hlow hhigh
    exact hbad (hbad5 ht)
  · obtain ⟨-, hbad6, -⟩ := hlater he hg hlow hhigh
    exact hbad (hbad6 ht hr)
  · subst hhold
    obtain ⟨-, -, hgood⟩ := hlater he (ofCode_le hgrade) hlow hhigh
    obtain ⟨F, G, events, n, d, hexec, hconf, hask⟩ := execLinkSet_configures hsettled hhanded hk
      (hgood ht hr) ((congrArg linkSetConfig hbody).trans (linkSetConfig_body hgrade))
    have hstay (hup : LP.state s.lp[l] = .up) (hsame : LP.state (G s.lp[l]) = .up) :
        LP.rest (G s.lp[l]) = LP.rest (F s.lp[l]) ∧ LP.timers (G s.lp[l]) = LP.timers (F s.lp[l]) :=
      hask.stayed (hsame.trans (hconf.state.trans hup).symm)
    have hcfg : LP.cfg (G s.lp[l]) = _ := hask.cfg.trans hconf.inForce
    have hsent : s'.mail.results = s.mail.results := by
      obtain ⟨-, hmail⟩ := handed_eq hhanded
      rw [hmail]
    have hheld_iff := moveIsHeld_congr (l := l) (req := req) hconf.state hconf.heldMove
    refine ⟨_, d, hexec, (linkState_onlyLink s l G n).thenMail _, ?_⟩
    rw [answer_lp, linkState_lp, answer_mail, linkState_mail]
    refine ⟨hcfg, hask.attempts.trans hconf.attempts, fun hdiff => ?grade, ?results,
      ⟨fun hmade => ?made, fun hheld => ?held⟩, fun hup hsame => ?rest, fun k hdown htimer =>
      ⟨fun hspent => ?spent, fun hrunning hsame => ?unspent⟩⟩
    case grade =>
      obtain ⟨hadvert, hremoved⟩ := hconf.regraded hdiff
      exact ⟨hask.advert.trans hadvert, hask.removed.trans hremoved⟩
    case results => exact congrArg (· ++ _) (hask.results.trans hsent)
    case made =>
      obtain ⟨hnone, hstate⟩ := hask.made (hheld_iff.not.mpr hmade)
      rw [hcfg]
      exact ⟨hnone, by rw [hstate, hconf.state]⟩
    case held =>
      obtain ⟨hstate, hheldMove, hdeferred⟩ := hask.held (hheld_iff.mpr hheld)
      rw [hcfg]
      exact ⟨hstate.trans hconf.state, by rw [hheldMove, hconf.heldMove], hdeferred⟩
    case rest =>
      obtain ⟨hrest, htimers⟩ := hstay hup hsame
      rw [hrest, htimers]
      exact ⟨hconf.noHold hup, hconf.hold hup⟩
    case spent =>
      obtain ⟨hadvert, hremoved, hrestore, hevents⟩ := hconf.spent k hdown htimer hspent
      exact ⟨hask.advert.trans hadvert, hask.removed.trans hremoved,
        hask.restore (hconf.state.trans hdown) hrestore, hask.reports.trans (congrArg _ hevents)⟩
    case unspent =>
      obtain ⟨hadvert, hremoved, hevents⟩ := hconf.unspent k hdown htimer hrunning hsame
      refine ⟨hask.advert.trans hadvert, hask.removed.trans hremoved, hask.reports.trans ?_⟩
      rw [hevents, List.append_nil]

end LinkSet

/-! ## LINK RENEGOTIATE (R112, R113) -/

section Renegotiate

variable {l : Link} {s s' : State} {req : Req}

/-- R113: the advertisement restored and the attempt counter cleared. -/
def renegotiated (p : LP) : LP := { restored p with attempts := 0 }

/-- R113: the move that LINK RENEGOTIATE asks for. -/
def renegotiateMove (st : LinkState) : Option LinkState := if st.beyondListen then some .listen else none

theorem renegotiateMove_stopped {st new : LinkState} (h : renegotiateMove st = some new) :
    new.running = false := by
  unfold renegotiateMove at h
  split_ifs at h
  obtain rfl := Option.some.inj h
  rfl

/-- R112, R113: LINK RENEGOTIATE restores the advertisement, and then its move is made or held. -/
theorem execLinkRenegotiate_restores (hsettled : LP.Settled s.lp[l]) (h : Handed (.lp l) req s s')
    (hk : req.kind = .linkRenegotiate) :
    ∃ (G : LP → LP) (m n : Mail) (d : Option Deferred),
      exec (.linkRenegotiate l) s = .next ((linkState s l G n).answer (.lp l) req .ok (u8 l.val) d) ∧
      m.results = s.mail.results ∧
      MoveAsked l req (renegotiateMove (LP.state s.lp[l])) (renegotiated s.lp[l]) (G s.lp[l]) m n d := by
  have hexec : exec (.linkRenegotiate l) s = .next
      (let t := (s'.restoreAdvert l).onLp l fun p => { p with attempts := 0 }
      let r := askMove t l req (renegotiateMove t.lp[l].state)
      r.1.answer (.lp l) req .ok (u8 l.val) r.2) := by
    change execLinkRenegotiate l s = _
    unfold execLinkRenegotiate
    rw [settleLink_settled hsettled, kindRequest_handed h hk]
    unfold renegotiateMove
    dsimp only
    split <;> rfl
  obtain ⟨rest, -, rfl⟩ := h
  have hrestored := linkState_restoreAdvert (s := s) (l := l) (F := fun p => p)
    (M := { s.mail with reqs := rest })
  rw [← linkState_of_onMail s l fun m => { m with reqs := rest }] at hrestored
  dsimp only at hexec
  rw [hrestored, linkState_onLp, linkState_lp] at hexec
  obtain ⟨G, n, d, hask, hasked⟩ := askMove_linkState s l renegotiated
    { s.mail with reqs := rest, reports := s.mail.reports ++ restoreReports l s.lp[l] } req
    (target := renegotiateMove (LP.state s.lp[l])) fun new => renegotiateMove_stopped
  refine ⟨G, _, n, d, hexec.trans (congrArg
    (fun r : State × Option Deferred => Host.Outcome.next (r.1.answer (.lp l) req .ok (u8 l.val) r.2))
    hask), ?_, hasked⟩
  rfl

theorem linkRenegotiates : Piece.LinkRenegotiates := by
  intro l s s' req hsettled hhanded hk
  obtain ⟨G, m, n, d, hexec, hsent, hask⟩ := execLinkRenegotiate_restores hsettled hhanded hk
  refine ⟨_, d, hexec, (linkState_onlyLink s l G n).thenMail _, ?_⟩
  rw [answer_lp, linkState_lp, answer_mail, linkState_mail]
  refine ⟨hask.advert, hask.removed, hask.attempts, congrArg (· ++ _) (hask.results.trans hsent),
    fun hlow => ?stays, fun hbeyond hmade => ?made, fun hheld => ?held⟩
  case stays =>
    have hfree : ¬moveIsHeld s.lp[l] l req := fun ⟨hrun, _⟩ => by
      rw [LinkOrders.beyondListen_of_running hrun] at hlow
      cases hlow
    obtain ⟨hnone, hstate⟩ := hask.made hfree
    rw [renegotiateMove, if_neg (Bool.eq_false_iff.mp hlow)] at hstate
    exact ⟨hnone, hstate⟩
  case made =>
    obtain ⟨hnone, hstate⟩ := hask.made hmade
    rw [renegotiateMove, if_pos hbeyond] at hstate
    exact ⟨hnone, hstate⟩
  case held =>
    obtain ⟨hrun, -⟩ := id hheld
    obtain ⟨hstate, hheldMove, hdeferred⟩ := hask.held hheld
    rw [renegotiateMove, if_pos (LinkOrders.beyondListen_of_running hrun)] at hheldMove hdeferred
    simp only [Option.isSome_some, and_true] at hdeferred
    exact ⟨hdeferred, hstate, hheldMove.trans (Bool.or_true _)⟩

end Renegotiate

/-- Settles O26: each request changes the Link Port by its fields, and then its move to a stopped state is made
or held. -/
theorem linkSetAndRenegotiate : Obligations.LinkSetAndRenegotiate := ⟨linkSetConfigures, linkRenegotiates⟩

end Sys2Proof.LinkSettings
end

section
/-! SUPPORT. Which part of the state the audio blocks hold (Sample Store, Player Bank, Recorder Unit and the
messages between them), and that every other block's commands complete and leave it alone. -/

namespace Sys2Proof.AudioBlocks

open Sys2Proof.Machine Sys2Proof.Laws

/-- What `State.AudioSound` and `State.BlocksTied` speak of: the three blocks that store, play and record,
and what is on its way between them. -/
structure AudioPart where
  store : SST
  bank : PLB
  recorders : RCU
  plbToSst : List PlbMsg
  playerReads : List PlayerRead
  holdAnswer : Option (Option Clip)
  rcuToSst : List RcuMsg
  regionAnswer : Option RegionAnswer

/-- The audio part of a state. -/
def audio (s : State) : AudioPart :=
  ⟨s.sst, s.plb, s.rcu, s.mail.plbToSst, s.mail.playerReads, s.mail.holdAnswer, s.mail.rcuToSst,
    s.mail.regionAnswer⟩

/-! ## The shared operations -/

section Shared

variable (s : State)

@[simp] theorem audio_onLp (l : Link) (f : LP → LP) : audio (s.onLp l f) = audio s := rfl

@[simp] theorem audio_onMgu (l : Link) (f : MguLink → MguLink) : audio (s.onMgu l f) = audio s := rfl

@[simp] theorem audio_onEvu (f : EVU → EVU) : audio (s.onEvu f) = audio s := rfl

@[simp] theorem audio_setClaim (c : Option Claim) : audio (s.setClaim c) = audio s := rfl

@[simp] theorem audio_askFe (t : Txn) (a : Ask) : audio (s.askFe t a) = audio s := rfl

@[simp] theorem audio_endTxn : audio s.endTxn = audio s := rfl

@[simp] theorem audio_answerReu (a : FeAnswer) : audio (s.answerReu a) = audio s := rfl

@[simp] theorem audio_report (b : Block) (k : EventKind) (n d : Nat) (st : Option (BitVec 32)) :
    audio (s.report b k n d st) = audio s := rfl

@[simp] theorem audio_stateNotice (l : Link) (x : LinkState) :
    audio (s.stateNotice l x) = audio s := rfl

@[simp] theorem audio_completion (l : Link) : audio (s.completion l) = audio s := rfl

@[simp] theorem audio_viewNotice (l : Link) (v : View) : audio (s.viewNotice l v) = audio s := rfl

@[simp] theorem audio_toMgu (l : Link) (ms : List LpMsg) : audio (s.toMgu l ms) = audio s := rfl

@[simp] theorem audio_counterNotice (c : BitVec 32) : audio (s.counterNotice c) = audio s := rfl

@[simp] theorem audio_setLpMail (ms : List (Link × LpMsg)) : audio (s.setLpMail ms) = audio s := rfl

@[simp] theorem audio_orderDiscard (l : Link) : audio (s.orderDiscard l) = audio s := rfl

@[simp] theorem audio_ackReset (b : Block) : audio (s.ackReset b) = audio s := rfl

@[simp] theorem audio_handReset (o : ResetOrder) : audio (s.handReset o) = audio s := rfl

@[simp] theorem audio_answer (b : Block) (req : Req) (code : ResultCode) (body : List Byte)
    (d : Option Deferred) : audio (s.answer b req code body d) = audio s := rfl

@[simp] theorem audio_badField (b : Block) (req : Req) (field : Nat) :
    audio (s.badField b req field) = audio s := rfl

/-- Messages other than those of the audio blocks may come and go. -/
@[simp] theorem audio_onMail (f : Mail → Mail) (hp : ∀ m, (f m).plbToSst = m.plbToSst)
    (hr : ∀ m, (f m).playerReads = m.playerReads) (hh : ∀ m, (f m).holdAnswer = m.holdAnswer)
    (hu : ∀ m, (f m).rcuToSst = m.rcuToSst) (ha : ∀ m, (f m).regionAnswer = m.regionAnswer) :
    audio (s.onMail f) = audio s := by
  simp [audio, hp, hr, hh, hu, ha]

/-- The branches of an `if` that agree on the audio part. -/
@[simp] theorem audio_ite (c : Prop) {_ : Decidable c} (a b : State) :
    audio (if c then a else b) = if c then audio a else audio b := apply_ite _ _ _ _

/-- A request taken by its owner. -/
theorem audio_withRequest (b : Block) (which : Req → Bool) (f : Req → State → State)
    (h : ∀ req t, audio (f req t) = audio t) : audio (s.withRequest b which f) = audio s := by
  unfold State.withRequest
  split
  · simp [h]
  · rfl

/-- A reset taken by its block. -/
theorem audio_withReset (b : Block) (f : ResetOrder → State → State)
    (h : ∀ o t, audio (f o t) = audio t) : audio (s.withReset b f) = audio s := by
  unfold State.withReset
  split
  · simp [h]
  · rfl

theorem audio_evuRequest (k : RequestKind) (f : Req → State → State)
    (h : ∀ req t, audio (f req t) = audio t) : audio (s.evuRequest k f) = audio s := by
  unfold State.evuRequest
  split
  · exact audio_withRequest _ _ _ _ h
  · rfl

theorem audio_reuRequest (k : RequestKind) (f : Req → State → State)
    (h : ∀ req t, audio (f req t) = audio t) : audio (s.reuRequest k f) = audio s := by
  unfold State.reuRequest
  split
  · exact audio_withRequest _ _ _ _ h
  · rfl

theorem audio_gated (req : Req) (frozen : Bool) (f : Claim → State → State)
    (h : ∀ c t, audio (f c t) = audio t) : audio (s.gated req frozen f) = audio s := by
  unfold State.gated
  split
  · rfl
  · exact h _ _
  · rfl

/-- An editing request behind the claim gate. -/
theorem audio_gatedRequest (k : RequestKind) (frozen : Bool) (f : Req → Claim → State → State)
    (h : ∀ req c t, audio (f req c t) = audio t) :
    audio (s.reuRequest k fun req s => s.gated req frozen (f req)) = audio s :=
  audio_reuRequest s k _ fun req t => audio_gated t req frozen (f req) (h req)

end Shared

/-! ## Link Ports -/

section LinkPorts

variable (s : State) (l : Link)

@[simp] theorem audio_leaveRunning : audio (s.leaveRunning l) = audio s := rfl

@[simp] theorem audio_moveCore (new : LinkState) : audio (s.moveCore l new) = audio s := by
  simp [State.moveCore]

@[simp] theorem audio_moveLink (new : LinkState) : audio (s.moveLink l new) = audio s := by
  simp [State.moveLink]

@[simp] theorem audio_carryHeldMove : audio (s.carryHeldMove l) = audio s := by
  simp [State.carryHeldMove]

@[simp] theorem audio_restoreAdvert : audio (s.restoreAdvert l) = audio s := by
  simp [State.restoreAdvert]

@[simp] theorem audio_restoreExpired : audio (s.restoreExpired l) = audio s := by
  unfold State.restoreExpired
  dsimp only
  split <;> simp

@[simp] theorem audio_downshift : audio (s.downshift l) = audio s := by
  unfold State.downshift
  dsimp only
  split <;> simp

@[simp] theorem audio_trainingFailure : audio (s.trainingFailure l) = audio s := by
  simp [State.trainingFailure]

@[simp] theorem audio_resetLp : audio (s.resetLp l) = audio s := by
  simp [State.resetLp]

@[simp] theorem audio_dueAlignmentAcquired : audio (s.dueAlignmentAcquired l) = audio s := by
  simp [State.dueAlignmentAcquired]

@[simp] theorem audio_dueAlignmentLoss : audio (s.dueAlignmentLoss l) = audio s := by
  simp [State.dueAlignmentLoss]

@[simp] theorem audio_dueWindowPass : audio (s.dueWindowPass l) = audio s := by
  unfold State.dueWindowPass
  dsimp only
  split <;> simp

@[simp] theorem audio_dueWindowFail : audio (s.dueWindowFail l) = audio s := by
  unfold State.dueWindowFail
  dsimp only
  split <;> simp

@[simp] theorem audio_dueTrainLimit : audio (s.dueTrainLimit l) = audio s := by
  simp [State.dueTrainLimit]

@[simp] theorem audio_dueRestEntered : audio (s.dueRestEntered l) = audio s := by
  simp [State.dueRestEntered]

@[simp] theorem audio_dueClearRunComplete : audio (s.dueClearRunComplete l) = audio s := by
  simp [State.dueClearRunComplete]

@[simp] theorem audio_dueResponseSent : audio (s.dueResponseSent l) = audio s := by
  unfold State.dueResponseSent
  split <;> simp

@[simp] theorem audio_settleLink : audio (s.settleLink l) = audio s := by
  simp [State.settleLink, State.settleFrame]

@[simp] theorem audio_agreement : audio (s.agreement l) = audio s := by
  unfold State.agreement
  dsimp only
  split
  · split <;> simp
  · rfl

@[simp] theorem audio_asmResult (out : AsmOut) : audio (s.asmResult l out) = audio s := by
  cases out <;> rfl

@[simp] theorem audio_frameNegotiate (w : Word) : audio (s.frameNegotiate l w) = audio s := by
  simp [State.frameNegotiate]

@[simp] theorem audio_frameTrain (w : Word) (pl : Vector Word 64) :
    audio (s.frameTrain l w pl) = audio s := by
  simp [State.frameTrain]

@[simp] theorem audio_frameRunning (w : Word) (pl : Vector Word 64) :
    audio (s.frameRunning l w pl) = audio s := by
  unfold State.frameRunning
  dsimp only
  split
  · split <;> simp
  · simp

@[simp] theorem audio_useChanged (used : Bool) : audio (s.useChanged l used) = audio s := by
  unfold State.useChanged
  dsimp only
  split <;> simp

@[simp] theorem audio_requestMove (req : Req) (new : LinkState) :
    audio (s.requestMove l req new).1 = audio s := by
  unfold State.requestMove
  split <;> simp

/-- R112: a move asked for, where one is. -/
theorem audio_requestMove_ite (c : Prop) {_ : Decidable c} (req : Req) (new : LinkState)
    (d : Option Deferred) :
    audio (if c then s.requestMove l req new else (s, d)).1 = audio s := by
  split <;> simp

end LinkPorts

/-! ## Management Unit -/

section Management

variable (s : State) (l : Link)

@[simp] theorem audio_queryEvents : audio s.queryEvents = audio s := rfl

@[simp] theorem audio_carryDeferred (d : Deferred) : audio (s.carryDeferred l d) = audio s := by
  cases d <;> rfl

@[simp] theorem audio_carryIfDeferred (d : Option Deferred) :
    audio (s.carryIfDeferred l d) = audio s := by
  cases d <;> simp [State.carryIfDeferred]

@[simp] theorem audio_accept (place : Place) (ref : Option Ref) (octets : List Byte) :
    audio (s.accept l place ref octets) = audio s := rfl

@[simp] theorem audio_offer (ref : Ref) (octets : List Byte) (d : Option Deferred) :
    audio (s.offer l ref octets d) = audio s := by
  simp [State.offer]

@[simp] theorem audio_respond (ip : InProgress) (code : ResultCode) (body : List Byte)
    (d : Option Deferred) : audio (s.respond l ip code body d) = audio s := by
  simp [State.respond]

@[simp] theorem audio_takeResult (r : Result) : audio (s.takeResult r) = audio s := by
  unfold State.takeResult
  split <;> simp

@[simp] theorem audio_answerOwn (req : Req) (code : ResultCode) (body : List Byte) :
    audio (s.answerOwn req code body) = audio s := by
  simp [State.answerOwn]

@[simp] theorem audio_reoffer : audio (s.reoffer l) = audio s := by
  unfold State.reoffer
  split <;> simp

@[simp] theorem audio_closeAfter (ref : Option Ref) : audio (s.closeAfter l ref) = audio s := by
  unfold State.closeAfter
  split <;> simp

@[simp] theorem audio_placeEmptied (place : Place) (ref : Option Ref) :
    audio (s.placeEmptied l place ref) = audio s := by
  cases place <;> simp [State.placeEmptied]

@[simp] theorem audio_requesterStopped : audio (s.requesterStopped l) = audio s := by
  unfold State.requesterStopped
  split
  · split <;> rfl
  · rfl

@[simp] theorem audio_answerBusy (code tag : Byte) : audio (s.answerBusy l code tag) = audio s := by
  simp [State.answerBusy]

@[simp] theorem audio_takeMessage (octets : List Byte) :
    audio (s.takeMessage l octets) = audio s := by
  unfold State.takeMessage
  dsimp only
  split
  · exact (audio_respond _ _ _ _ _ _).trans rfl
  · rfl

@[simp] theorem audio_dealMessage (octets : List Byte) (mgr : Bool) :
    audio (s.dealMessage l octets mgr) = audio s := by
  simp [State.dealMessage]

@[simp] theorem audio_stopLink : audio (s.stopLink l) = audio s := by
  simp [State.stopLink]

@[simp] theorem audio_endOthers : audio (s.endOthers l) = audio s := rfl

theorem audio_handResets (bs : List Block) (o : Block → ResetOrder) :
    audio (bs.foldl (fun s b => s.handReset (o b)) s) = audio s := by
  induction bs generalizing s with
  | nil => rfl
  | cons b bs ih => rw [List.foldl_cons, ih, audio_handReset]

@[simp] theorem audio_beginReset (req : Req) : audio (s.beginReset req) = audio s := by
  unfold State.beginReset
  dsimp only
  split
  · exact (audio_handResets _ _ _).trans rfl
  · exact (audio_endOthers _ _).trans ((audio_handResets _ _ _).trans rfl)

@[simp] theorem audio_takeReset (req : Req) : audio (s.takeReset req) = audio s := by
  unfold State.takeReset
  split
  · simp
  · split
    · rfl
    · simp

@[simp] theorem audio_finishReset (r : CurrentReset) : audio (s.finishReset r) = audio s := by
  unfold State.finishReset
  extract_lets m s1 effect
  have h1 : audio s1 = audio s := rfl
  split
  · split
    · exact (audio_respond _ _ _ _ _ _).trans h1
    · simp [h1]
  · simp [h1]

@[simp] theorem audio_nextReset : audio s.nextReset = audio s := by
  unfold State.nextReset
  split
  · exact (audio_beginReset _ _).trans rfl
  · rfl

end Management

/-! ## Frame Engine and Route Edit Unit -/

section Routing

variable (s : State)

@[simp] theorem audio_useNotices (used : Vector Bool 8) : audio (s.useNotices used) = audio s := by
  obtain ⟨v, he, -⟩ := useNotices_eq s used
  rw [he]
  rfl

@[simp] theorem audio_adoptOldest : audio s.adoptOldest = audio s := by
  unfold State.adoptOldest
  split
  next hand rest _ =>
    obtain ⟨v, used, he, -⟩ := adopt_eq { s with fe := { s.fe with queue := rest } } hand
    rw [he]
    rfl
  next => rfl

@[simp] theorem audio_computeFrame : audio s.computeFrame = audio s := rfl

@[simp] theorem audio_emptyEngine : audio s.emptyEngine = audio s := by
  obtain ⟨v, he, -⟩ := emptyEngine_eq s
  rw [he]
  rfl

@[simp] theorem audio_answerCommit (r : CommitRecord) (adopted : Option (BitVec 32)) :
    audio (s.answerCommit r adopted) = audio s := by
  simp [State.answerCommit]

@[simp] theorem audio_takeFate (f : Fate) : audio (s.takeFate f) = audio s := by
  unfold State.takeFate
  split
  · exact (audio_answerCommit _ _ _).trans rfl
  · split
    · split
      · exact (audio_answerCommit _ _ _).trans rfl
      · rfl
    · rfl

@[simp] theorem audio_withFate (adopted : Bool) : audio (s.withFate adopted) = audio s := by
  unfold State.withFate
  split
  · simp
  · rfl

@[simp] theorem audio_ownerLost (l : Link) : audio (s.ownerLost l) = audio s := by
  unfold State.ownerLost
  split
  · split
    · split <;> rfl
    · rfl
  · rfl

end Routing

/-! ## Commands of the other blocks -/

/-- The outcome names a next state, with the audio part of `s`. -/
def LeavesAudio (s : State) (o : Host.Outcome State Fault Refusal) : Prop :=
  ∃ t, o = .next t ∧ audio t = audio s

@[simp] theorem leaves_next {s t : State} : LeavesAudio s (.next t) ↔ audio t = audio s :=
  ⟨fun ⟨_, hu, h⟩ => Host.Outcome.next.inj hu ▸ h, fun h => ⟨t, rfl, h⟩⟩

@[simp] theorem leaves_ite (s : State) (c : Prop) {_ : Decidable c}
    (a b : Host.Outcome State Fault Refusal) :
    LeavesAudio s (if c then a else b) ↔ if c then LeavesAudio s a else LeavesAudio s b := by
  split <;> rfl

section Commands

variable (s : State)

/-! ### Link Ports -/

section LinkPortCommands

variable (l : Link)

theorem execReceivedFrame_leaves (w : Word) (pl : Vector Word 64) :
    LeavesAudio s (execReceivedFrame l w pl s) := by
  unfold execReceivedFrame
  dsimp only
  split <;> simp

theorem execNegotiationTimerExpiry_leaves : LeavesAudio s (execNegotiationTimerExpiry l s) := by
  unfold execNegotiationTimerExpiry
  dsimp only
  split <;> simp

theorem execRestHoldTimerExpiry_leaves : LeavesAudio s (execRestHoldTimerExpiry l s) := by
  unfold execRestHoldTimerExpiry
  dsimp only
  split <;> simp

theorem execWakeTimerExpiry_leaves : LeavesAudio s (execWakeTimerExpiry l s) := by
  unfold execWakeTimerExpiry
  dsimp only
  split <;> simp

theorem execUseNotice_leaves : LeavesAudio s (execUseNotice l s) := by
  unfold execUseNotice
  dsimp only
  split
  · split <;> simp
  · simp

theorem execCounterQuery_leaves : LeavesAudio s (execCounterQuery l s) := by
  unfold execCounterQuery
  dsimp only
  split <;> simp

/-- A request of a Link Port, taken once what is due is settled. -/
theorem linkRequest_leaves (b : Block) (which : Req → Bool) (f : Req → State → State)
    (h : ∀ req t, audio (f req t) = audio t) :
    LeavesAudio s (.next ((s.settleLink l).withRequest b which f)) :=
  leaves_next.mpr ((audio_withRequest _ b which f h).trans (audio_settleLink s l))

theorem execLinkSet_leaves : LeavesAudio s (execLinkSet l s) := by
  refine linkRequest_leaves s l _ _ _ fun req t => ?_
  split
  · rfl
  · extract_lets old cfg changed s1 s2 s3 r
    have h3 : audio s3 = audio t := by simp [s3, s2, s1]
    have hr : audio r.1 = audio s3 := by
      simp only [r]
      split
      · exact audio_requestMove _ _ _ _
      · rfl
    rw [audio_answer, hr, h3]

theorem execLinkRenegotiate_leaves : LeavesAudio s (execLinkRenegotiate l s) := by
  refine linkRequest_leaves s l _ _ _ fun req t => ?_
  simp [audio_requestMove_ite]

theorem execPartnerRead_leaves : LeavesAudio s (execPartnerRead l s) := by
  refine linkRequest_leaves s l _ _ _ fun req t => ?_
  split <;> rfl

end LinkPortCommands

/-! ### Management Unit -/

theorem execMessageTaken_leaves (l : Link) : LeavesAudio s (execMessageTaken l s) := by
  unfold execMessageTaken
  split <;> simp

theorem execSentReport_leaves (l : Link) : LeavesAudio s (execSentReport l s) := by
  unfold execSentReport
  split <;> simp

theorem execDiscardReport_leaves (l : Link) : LeavesAudio s (execDiscardReport l s) := by
  unfold execDiscardReport
  split <;> simp

theorem execStopNotice_leaves (l : Link) : LeavesAudio s (execStopNotice l s) := by
  unfold execStopNotice
  split <;> simp

theorem execOwnerResult_leaves (b : Block) : LeavesAudio s (execOwnerResult b s) := by
  unfold execOwnerResult
  split <;> simp

theorem execNameSet_leaves : LeavesAudio s (execNameSet s) := by
  refine leaves_next.mpr (audio_withRequest _ _ _ _ fun req t => ?_)
  split
  · simp
  · exact (audio_answerOwn _ _ _ _).trans rfl

theorem execResetAck_leaves (b : Block) : LeavesAudio s (execResetAck b s) := by
  unfold execResetAck
  split
  · dsimp only
    split
    · split
      · simp
      · exact leaves_next.mpr rfl
    · simp
  · simp

/-! ### Frame Engine -/

theorem execHandOff_leaves : LeavesAudio s (execHandOff s) := by
  unfold execHandOff
  split <;> exact leaves_next.mpr rfl

theorem execLinkViewNotice_leaves (l : Link) : LeavesAudio s (execLinkViewNotice l s) := by
  unfold execLinkViewNotice
  split <;> exact leaves_next.mpr rfl

theorem execActiveTableCopy_leaves : LeavesAudio s (execActiveTableCopy s) := by
  unfold execActiveTableCopy
  split <;> simp

theorem execLinkViewSnapshot_leaves : LeavesAudio s (execLinkViewSnapshot s) := by
  unfold execLinkViewSnapshot
  split <;> simp

theorem execGainAdjustApply_leaves : LeavesAudio s (execGainAdjustApply s) := by
  unfold execGainAdjustApply
  split
  · split <;> exact leaves_next.mpr rfl
  · simp

theorem execEntryReadActive_leaves : LeavesAudio s (execEntryReadActive s) := by
  refine leaves_next.mpr (audio_withRequest _ _ _ _ fun req t => ?_)
  dsimp only
  split
  · rfl
  · split <;> rfl

theorem execClaimAnswer_leaves : LeavesAudio s (execClaimAnswer s) := by
  unfold execClaimAnswer
  split <;> exact leaves_next.mpr rfl

theorem execFeReset_leaves : LeavesAudio s (execFeReset s) := by
  refine leaves_next.mpr (audio_withReset _ _ _ fun o t => ?_)
  have he := audio_emptyEngine t
  generalize t.emptyEngine = u at he ⊢
  dsimp only
  split
  · exact he
  · exact he

/-! ### Route Edit Unit -/

theorem execEditOpen_leaves : LeavesAudio s (execEditOpen s) := by
  refine leaves_next.mpr (audio_reuRequest _ _ _ fun req t => ?_)
  dsimp only
  split
  · rfl
  · split <;> rfl

theorem execCopyAnswer_leaves : LeavesAudio s (execCopyAnswer s) := by
  unfold execCopyAnswer
  split
  · dsimp only
    split
    · simp
    · split <;> simp
  · simp

theorem execEntryPut_leaves : LeavesAudio s (execEntryPut s) := by
  refine leaves_next.mpr (audio_gatedRequest _ _ _ _ fun req c t => ?_)
  dsimp only
  split
  · rfl
  · split <;> rfl

theorem execEntryDelete_leaves : LeavesAudio s (execEntryDelete s) :=
  leaves_next.mpr (audio_gatedRequest _ _ _ _ fun req c t => by simp)

theorem execEntryReadStaging_leaves : LeavesAudio s (execEntryReadStaging s) := by
  refine leaves_next.mpr (audio_gatedRequest _ _ _ _ fun req c t => ?_)
  dsimp only
  split
  · rfl
  · split <;> rfl

theorem execSnapshotAnswer_leaves : LeavesAudio s (execSnapshotAnswer s) := by
  unfold execSnapshotAnswer
  split
  · refine leaves_next.mpr (audio_gated _ _ _ _ fun c t => ?_)
    dsimp only
    split
    · split <;> rfl
    · rfl
  · simp

theorem execGainAdjust_leaves : LeavesAudio s (execGainAdjust s) :=
  leaves_next.mpr (audio_reuRequest _ _ _ fun req t => by simp)

theorem execGainAdjustAnswer_leaves : LeavesAudio s (execGainAdjustAnswer s) := by
  unfold execGainAdjustAnswer
  split <;> simp

theorem execHoldTimerExpiry_leaves : LeavesAudio s (execHoldTimerExpiry s) := by
  unfold execHoldTimerExpiry
  split
  · split <;> simp
  · simp

theorem execLinkLossNotice_leaves (l : Link) : LeavesAudio s (execLinkLossNotice l s) := by
  unfold execLinkLossNotice
  split
  · exact leaves_next.mpr ((audio_ownerLost _ l).trans rfl)
  · simp

/-! ### Event Unit -/

theorem execEventReport_leaves (b : Block) : LeavesAudio s (execEventReport b s) := by
  unfold execEventReport
  split <;> simp

theorem execCounterNotice_leaves : LeavesAudio s (execCounterNotice s) := by
  unfold execCounterNotice
  split <;> simp

theorem execCounterAnswer_leaves : LeavesAudio s (execCounterAnswer s) := by
  unfold execCounterAnswer
  split <;> simp

theorem execStateNotice_leaves (l : Link) : LeavesAudio s (execStateNotice l s) := by
  unfold execStateNotice
  split <;> simp

theorem execBlinkPhase_leaves (g : Blink) : LeavesAudio s (execBlinkPhase g s) := by
  cases g <;> simp [execBlinkPhase]

theorem execEvuReset_leaves : LeavesAudio s (execEvuReset s) := by
  refine leaves_next.mpr (audio_withReset _ _ _ fun o t => ?_)
  split <;> rfl

/-! ### Every command of another block -/

/-- The commands of the Sample Store, the Player Bank and the Recorder Unit, and hardware reset. -/
def ofAudio : Instr → Bool
  | .hardwareReset _ _
  | .memoryClearComplete | .playerRead _ | .recorderWrite | .holdRequest | .releaseNotice | .regionRequest
  | .regionRelease | .runningNotice | .memoryWrite | .memoryRead | .clipDefine | .clipDelete | .clipRead
  | .plbFrameBoundary | .playerReadAnswer _ | .holdAnswer | .playNow | .playNext | .stopNow | .stopEnd
  | .playerStatus | .plbReset
  | .recorderInputWord _ | .regionAnswer | .recordSetup | .recordStart | .recordStop | .recorderStatus
  | .rcuReset => true
  | _ => false

/-- Every command of another block completes and leaves the audio blocks and their messages as they are. -/
theorem exec_leaves (i : Instr) (hi : ofAudio i = false) : LeavesAudio s (exec i s) := by
  cases i with
  -- a Link Port
  | receivedFrame l service payload => exact execReceivedFrame_leaves s l service payload
  | alignmentAcquired l => exact leaves_next.mpr (audio_dueAlignmentAcquired s l)
  | alignmentLoss l => exact leaves_next.mpr (audio_dueAlignmentLoss s l)
  | windowPass l => exact leaves_next.mpr (audio_dueWindowPass s l)
  | windowFail l => exact leaves_next.mpr (audio_dueWindowFail s l)
  | trainLimit l => exact leaves_next.mpr (audio_dueTrainLimit s l)
  | signalDetect l => simp [exec, execSignalDetect]
  | signalLoss l => simp [exec, execSignalLoss]
  | negotiationTimerExpiry l => exact execNegotiationTimerExpiry_leaves s l
  | restoreTimerExpiry l => simp [exec, execRestoreTimerExpiry]
  | restHoldTimerExpiry l => exact execRestHoldTimerExpiry_leaves s l
  | restEntered l => exact leaves_next.mpr (audio_dueRestEntered s l)
  | clearRunComplete l => exact leaves_next.mpr (audio_dueClearRunComplete s l)
  | wakeTimerExpiry l => exact execWakeTimerExpiry_leaves s l
  | useNotice l => exact execUseNotice_leaves s l
  | linkFrameTransmit l => simp [exec, execLinkFrameTransmit]
  | responseSent l => exact leaves_next.mpr (audio_dueResponseSent s l)
  | messageDiscardReport l => simp [exec, execMessageDiscardReport]
  | heldMove l => simp [exec, execHeldMove]
  | lpReset l =>
    exact leaves_next.mpr
      ((audio_withReset _ _ _ fun _ _ => audio_resetLp _ _).trans (audio_settleLink s l))
  | linkSet l => exact execLinkSet_leaves s l
  | linkStatus l => exact linkRequest_leaves s l _ _ _ fun _ _ => rfl
  | linkRenegotiate l => exact execLinkRenegotiate_leaves s l
  | partnerRead l => exact execPartnerRead_leaves s l
  | counterQuery l => exact execCounterQuery_leaves s l
  -- the Management Unit
  | sentReport l => exact execSentReport_leaves s l
  | discardReport l => exact execDiscardReport_leaves s l
  | stopNotice l => exact execStopNotice_leaves s l
  | messageTaken l => exact execMessageTaken_leaves s l
  | ownerResult b => exact execOwnerResult_leaves s b
  | eventsWaitingQuery => exact leaves_next.mpr (audio_queryEvents s)
  | identify => exact leaves_next.mpr (audio_withRequest _ _ _ _ fun _ _ => audio_answerOwn _ _ _ _)
  | nameSet => exact execNameSet_leaves s
  | resetRouting => exact leaves_next.mpr (audio_withRequest _ _ _ _ fun _ _ => audio_takeReset _ _)
  | resetDevice => exact leaves_next.mpr (audio_withRequest _ _ _ _ fun _ _ => audio_takeReset _ _)
  | resetAck b => exact execResetAck_leaves s b
  -- the Frame Engine
  | feFrameBoundary => simp [exec, execFeFrameBoundary]
  | handOff => exact execHandOff_leaves s
  | linkViewNotice l => exact execLinkViewNotice_leaves s l
  | activeTableCopy => exact execActiveTableCopy_leaves s
  | linkViewSnapshot => exact execLinkViewSnapshot_leaves s
  | gainAdjustApply => exact execGainAdjustApply_leaves s
  | entryReadActive => exact execEntryReadActive_leaves s
  | tableSummaryActive => exact leaves_next.mpr (audio_withRequest _ _ _ _ fun _ _ => rfl)
  | engineStatus => exact leaves_next.mpr (audio_withRequest _ _ _ _ fun _ _ => rfl)
  | claimAnswer => exact execClaimAnswer_leaves s
  | feReset => exact execFeReset_leaves s
  -- the Route Edit Unit
  | editOpen => exact execEditOpen_leaves s
  | copyAnswer => exact execCopyAnswer_leaves s
  | entryPut => exact execEntryPut_leaves s
  | entryDelete => exact execEntryDelete_leaves s
  | entryReadStaging => exact execEntryReadStaging_leaves s
  | tableSummaryStaging => exact leaves_next.mpr (audio_gatedRequest _ _ _ _ fun _ _ _ => rfl)
  | editAbandon => exact leaves_next.mpr (audio_gatedRequest _ _ _ _ fun _ _ _ => rfl)
  | tableCheck => exact leaves_next.mpr (audio_gatedRequest _ _ _ _ fun _ _ _ => rfl)
  | tableCommit => exact leaves_next.mpr (audio_gatedRequest _ _ _ _ fun _ _ _ => rfl)
  | snapshotAnswer => exact execSnapshotAnswer_leaves s
  | gainAdjust => exact execGainAdjust_leaves s
  | gainAdjustAnswer => exact execGainAdjustAnswer_leaves s
  | adoptionNotice => exact leaves_next.mpr (audio_withFate s true)
  | discardNotice => exact leaves_next.mpr (audio_withFate s false)
  | claimQuery => simp [exec, execClaimQuery]
  | holdTimerExpiry => exact execHoldTimerExpiry_leaves s
  | linkLossNotice l => exact execLinkLossNotice_leaves s l
  | reuReset => exact leaves_next.mpr (audio_withReset _ _ _ fun _ _ => rfl)
  -- the Event Unit
  | eventReport b => exact execEventReport_leaves s b
  | eventsRead => exact leaves_next.mpr (audio_evuRequest _ _ _ fun _ _ => by simp)
  | counterNotice => exact execCounterNotice_leaves s
  | countersRead => exact leaves_next.mpr (audio_evuRequest _ _ _ fun _ _ => by simp)
  | counterAnswer => exact execCounterAnswer_leaves s
  | indicatorSet => exact leaves_next.mpr (audio_evuRequest _ _ _ fun _ _ => by simp)
  | stateNotice l => exact execStateNotice_leaves s l
  | completionReport l => simp [exec, execCompletionReport]
  | pulseTimerExpiry n => exact leaves_next.mpr (audio_onEvu s _)
  | blinkPhase g => exact execBlinkPhase_leaves s g
  | evuReset => exact execEvuReset_leaves s
  -- an audio block
  | _ => cases hi

end Commands

end Sys2Proof.AudioBlocks
end

section
/-! SUPPORT. The audio blocks stay sound (R129, R133, R135 to R137, R144, R156): block by block what its events
keep, and that in a sound state every command completes. -/

namespace Sys2Proof.AudioBlocks

open Sys2Proof.Machine Sys2Proof.Laws

/-- The soundness of the audio blocks depends on nothing else. -/
theorem audioSound_congr {s t : State} (hs : s.AudioSound) (h : audio t = audio s) : t.AudioSound := by
  simp only [audio, AudioPart.mk.injEq] at h
  obtain ⟨hstore, hbank, hrecorders, -, hreads, hanswer, hsent, -⟩ := h
  obtain ⟨store, player, waiting, granted, reads, recorder, setup, sent⟩ := hs
  constructor
  · rw [hstore]; exact store
  · rw [hbank]; exact player
  · rw [hbank]; exact waiting
  · rw [hanswer]; exact granted
  · rw [hreads]; exact reads
  · rw [hrecorders]; exact recorder
  · rw [hrecorders]; exact setup
  · rw [hsent]; exact sent

/-- The outcome names a next state, whose audio blocks are sound. -/
def AudioNext (o : Host.Outcome State Fault Refusal) : Prop := ∃ t, o = .next t ∧ t.AudioSound

theorem audioNext {t : State} (h : t.AudioSound) : AudioNext (.next t) := ⟨t, rfl, h⟩

theorem audioNext_of_leaves {s : State} {o : Host.Outcome State Fault Refusal} (hs : s.AudioSound)
    (h : LeavesAudio s o) : AudioNext o := by
  obtain ⟨t, ho, ht⟩ := h
  exact ⟨t, ho, audioSound_congr hs ht⟩

/-! ## The Sample Store's records (R135 to R137) -/

theorem rangesOverlap_comm (a la b lb : Nat) : rangesOverlap a la b lb = rangesOverlap b lb a la :=
  Bool.and_comm _ _

theorem rec_cases (r : Rec) : r = 0 ∨ r = 1 := by
  revert r
  decide

section Store

variable {t : SST} (h : t.Sound)
include h

theorem store_withMem {mem : Table Sample} (hmem : Memory.wf mem = true) (c : Option Nat) :
    SST.Sound { t with mem := mem, clear := c } := { h with memory := hmem }

/-- R130: the clear of one tick. -/
theorem store_tick : t.tick.Sound := by
  unfold SST.tick
  split
  · exact h
  · exact store_withMem h (wf_clearRange h.memory) _

/-- R136: only a defined clip is held once more. -/
theorem store_hold {id : Fin 32} (hid : t.clips[id].isSome = true) :
    SST.Sound { t with holds := updAt t.holds id (· + 1) } :=
  { h with
    held := fun j hj => by
      by_cases hne : id = j
      · exact hne ▸ hid
      · rw [updAt_ne _ _ hne] at hj
        exact h.held j hj }

theorem store_release (id : Fin 32) : SST.Sound { t with holds := updAt t.holds id (· - 1) } :=
  { h with
    held := fun j hj => by
      refine h.held j (lt_of_lt_of_le hj ?_)
      rw [updAt_get]
      split
      · subst j
        exact Nat.sub_le _ _
      · exact le_rfl }

/-- R139, R140: a position of the clip table is written with a record clear of both regions, or emptied
while it is not held. -/
theorem store_setClip {id : Fin 32} {o : Option Clip} (hsound : ∀ c, o = some c → c.Sound)
    (hheld : 0 < t.holds[id] → o.isSome = true)
    (hclear : ∀ (r : Rec) g c, t.regions[r] = some g → o = some c →
      rangesOverlap g.start g.len c.start c.len = false) :
    SST.Sound { t with clips := updAt t.clips id fun _ => o } where
  memory := h.memory
  apart := h.apart
  clip j c hj := by
    rw [updAt_get] at hj
    split at hj
    · exact hsound c hj
    · exact h.clip j c hj
  held j hj := by
    rw [updAt_get]
    split
    · subst j
      exact hheld hj
    · exact h.held j hj
  clear r g j c hr hj := by
    rw [updAt_get] at hj
    split at hj
    · exact hclear r g c hr hj
    · exact h.clear r g j c hr hj

/-- R137, R138: a region record written, clear of every clip and of the other recorder's region. -/
theorem store_setRegion {r : Rec} {f : Option Region → Option Region}
    (hclear : ∀ g (id : Fin 32) c, f t.regions[r] = some g → t.clips[id] = some c →
      rangesOverlap g.start g.len c.start c.len = false)
    (hapart : ∀ g k, f t.regions[r] = some g → t.regions[otherRec r] = some k →
      rangesOverlap g.start g.len k.start k.len = false) :
    SST.Sound { t with regions := updAt t.regions r f } where
  memory := h.memory
  clip := h.clip
  held := h.held
  clear q g id c hq hid := by
    rw [updAt_get] at hq
    split at hq
    · exact hclear g id c hq hid
    · exact h.clear q g id c hq hid
  apart g k hg hk := by
    obtain rfl | rfl := rec_cases r
    · rw [updAt_get, if_pos rfl] at hg
      rw [updAt_ne _ _ (by decide)] at hk
      exact hapart g k hg hk
    · rw [updAt_ne _ _ (by decide)] at hg
      rw [updAt_get, if_pos rfl] at hk
      rw [rangesOverlap_comm]
      exact hapart k g hk hg

end Store

/-- A clip id is one of the ids in order. -/
theorem mem_clipIds (id : Fin 32) : id ∈ clipIds := by
  revert id
  decide

/-- R137: no clip is named exactly when the range is clear of every defined clip. -/
theorem clipOverlapping_none_iff {t : SST} {start len : Nat} :
    clipOverlapping t start len = none ↔
      ∀ (id : Fin 32) c, t.clips[id] = some c → rangesOverlap start len c.start c.len = false := by
  simp only [clipOverlapping, List.find?_eq_none]
  constructor
  · intro h id c hc
    simpa [hc] using h id (mem_clipIds id)
  · intro h id _
    split
    next c hc => simpa using h id c hc
    next => simp

/-- R137, R139: a range is clear of a recorder's region, when there is one. -/
theorem regionOverlaps_false_iff {t : SST} {start len : Nat} {r : Rec} :
    regionOverlaps t start len r = false ↔
      ∀ g, t.regions[r] = some g → rangesOverlap start len g.start g.len = false := by
  unfold regionOverlaps
  split
  next g hg => simp [hg]
  next hg => simp [hg]

/-- R137: what a grant says of the range. -/
theorem judgeRegion_granted_iff {t : SST} {r : Rec} {start len : Nat} :
    judgeRegion t r start len = .granted ↔
      clipOverlapping t start len = none ∧ regionOverlaps t start len (otherRec r) = false := by
  unfold judgeRegion
  split
  next hclip => simp [hclip]
  next hclip => simp [hclip]

/-! ## A player (R144 to R146) -/

section Player

variable {x : PlayerState} {h : QueuePlace} {behind : List QueuePlace}

theorem player_withReading (hx : x.Sound) (b : Bool) (hb : x.queue = [] → b = false) :
    PlayerState.Sound { x with reading := b } where
  short := hx.short
  place := hx.place
  pos := hx.pos
  idle he := ⟨(hx.idle he).1, (hx.idle he).2.1, hb he⟩

/-- R145: the read of a PLAYING player is outstanding, and an IDLE player makes none. -/
theorem player_openFrame (hx : x.Sound) : x.openFrame.Sound :=
  player_withReading hx _ fun he => by simp [PlayerState.playing, he]

/-- R145, R146: inside the head clip the position steps on. -/
theorem player_step (hx : x.Sound) (hq : x.queue = h :: behind) (hpos : x.pos + 1 < h.clip.len) :
    PlayerState.Sound { x with pos := x.pos + 1 } where
  short := hx.short
  place := hx.place
  pos k hk := by
    rw [hq] at hk
    exact Option.some.inj hk ▸ hpos
  idle he := by rw [hq] at he; cases he

/-- R144: the position starts at the head of a queue of sound places. -/
theorem player_atStart {q : QueuePlace} {rest : List QueuePlace} (hplace : ∀ y ∈ q :: rest, y.clip.Sound)
    (hshort : (q :: rest).length ≤ 4) (stop reading : Bool) :
    PlayerState.Sound ⟨q :: rest, 0, stop, reading⟩ where
  short := hshort
  place := hplace
  pos _ hk := Option.some.inj hk ▸ (hplace q List.mem_cons_self).1
  idle he := nomatch he

/-- R146: the end of a clip leaves the places behind it, the loop point, or an IDLE player. -/
theorem player_endOfClip (hx : x.Sound) (hq : x.queue = h :: behind) :
    (endOfClip x h behind).1.Sound := by
  unfold endOfClip
  split
  next q rest _ _ =>
    have hshort := hx.short
    have hplace := hx.place
    rw [hq] at hshort hplace
    exact player_atStart (fun y hy => hplace y (List.mem_cons_of_mem _ hy)) (Nat.le_of_succ_le hshort) _ _
  next o hloop _ =>
    refine ⟨hx.short, hx.place, fun k hk => ?_, fun he => by rw [hq] at he; cases he⟩
    rw [hq] at hk
    obtain rfl := Option.some.inj hk
    exact (hx.place h (hq ▸ List.mem_cons_self)).2.2 o hloop
  next => exact ResetValues.player_idle

/-- R146: the end of a clip adds no place. -/
theorem length_endOfClip (hq : x.queue = h :: behind) :
    (endOfClip x h behind).1.queue.length ≤ x.queue.length := by
  unfold endOfClip
  split
  · rw [hq]
    exact Nat.le_succ _
  · exact le_rfl
  · exact Nat.zero_le _

/-- R153: the head place alone, to stop at the end of its pass. -/
theorem player_stopEnd (hx : x.Sound) (hq : x.queue = h :: behind) :
    PlayerState.Sound { x with queue := [h], stopAtEnd := true } where
  short := by simp
  place y hy := hx.place y (by rw [hq]; exact List.mem_cons.mpr (.inl (List.mem_singleton.mp hy)))
  pos k hk := hx.pos k (by rw [hq]; exact hk)
  idle he := nomatch he

/-- R150: a place behind the others, or at the head of an empty queue. -/
theorem player_append (hx : x.Sound) (hlen : x.queue.length ≤ 3) {q : QueuePlace} (hq : q.clip.Sound) :
    PlayerState.Sound { x with queue := x.queue ++ [q] } where
  short := by simpa using Nat.succ_le_succ hlen
  place y hy := by
    rcases List.mem_append.mp hy with hy | hy
    · exact hx.place y hy
    · exact List.mem_singleton.mp hy ▸ hq
  pos k hk := by
    cases he : x.queue with
    | nil =>
      simp only [he, List.nil_append, List.head?_cons, Option.some.injEq] at hk
      rw [(hx.idle he).1, ← hk]
      exact hq.1
    | cons y ys =>
      rw [he] at hk
      exact hx.pos k (by rw [he]; exact hk)
  idle he := by simp at he

/-- R145: the address a player reads exists. -/
theorem readOf_addr (hx : x.Sound) {p : Player} {frame : Nat} {r : PlayerRead}
    (hr : x.readOf p frame = some r) : r.addr < Config.memoryWords := by
  unfold PlayerState.readOf at hr
  split at hr
  next k rest hq =>
    obtain rfl := Option.some.inj hr
    have hpos := hx.pos k (by rw [hq]; rfl)
    have hend := (hx.place k (hq ▸ List.mem_cons_self)).2.1
    change k.clip.start + x.pos < Config.memoryWords
    omega
  next => cases hr

end Player

/-! ## A recorder (R156, R157) -/

section Recorder

variable {x : Recorder}

/-- R157: the write position stays inside the region. -/
theorem recorder_advance (hx : x.Sound) : x.advance.Sound := by
  unfold Recorder.advance
  split
  next start len hregion =>
    obtain ⟨hrange, hlow, hhigh⟩ := hx.region start len hregion
    have hactive : x.state ≠ .idle := fun he => by
      rw [hx.idle.mp he] at hregion
      cases hregion
    split
    next hpos =>
      refine ⟨hx.idle, fun a n hn => ?_⟩
      obtain ⟨rfl, rfl⟩ := Prod.mk.inj (Option.some.inj (hregion.symm.trans hn))
      exact ⟨hrange, Nat.le_succ_of_le hlow, hpos⟩
    next =>
      refine ⟨⟨fun he => ?_, fun he => by rw [hregion] at he; cases he⟩, fun a n hn => ?_⟩
      · dsimp only at he
        split at he
        · cases he
        · exact absurd he hactive
      · obtain ⟨rfl, rfl⟩ := Prod.mk.inj (Option.some.inj (hregion.symm.trans hn))
        exact ⟨hrange, le_rfl, lt_of_le_of_lt hlow hhigh⟩
  next => exact hx

/-- R156: at the start of a sound region. -/
theorem recorder_atStart {start len : Nat} (h : RegionSound start len) {st : RecState} (hst : st ≠ .idle)
    (once wrapped : Bool) : Recorder.Sound ⟨st, some (start, len), once, start, wrapped⟩ where
  idle := iff_of_false hst nofun
  region a n hn := by
    obtain ⟨rfl, rfl⟩ := Prod.mk.inj (Option.some.inj hn)
    exact ⟨h, le_rfl, Nat.lt_add_of_pos_right (Nat.lt_of_lt_of_le (by decide) h.1)⟩

/-- R160, R165: a recorder with a region goes back to its start. -/
theorem recorder_rewind (hx : x.Sound) (hactive : x.state ≠ .idle) {st : RecState} (hst : st ≠ .idle) :
    (x.rewind st).Sound := by
  obtain ⟨state, region, once, pos, wrapped⟩ := x
  cases region with
  | none => exact absurd (hx.idle.mpr rfl) hactive
  | some g => exact recorder_atStart (hx.region g.1 g.2 rfl).1 hst once false

/-- R161: a recorder that stops where it is. -/
theorem recorder_stop (hx : x.Sound) (hactive : x.state ≠ .idle) :
    Recorder.Sound { x with state := .set } where
  idle := iff_of_false nofun fun he => hactive (hx.idle.mpr he)
  region := hx.region

/-- R131, R157: the address a recorder writes exists. -/
theorem recorder_pos (hx : x.Sound) (hactive : x.state ≠ .idle) : x.pos < Config.memoryWords := by
  cases hregion : x.region with
  | none => exact absurd (hx.idle.mpr hregion) hactive
  | some g =>
    obtain ⟨hrange, -, hhigh⟩ := hx.region g.1 g.2 hregion
    exact lt_of_lt_of_le hhigh hrange.2

end Recorder

/-! ## The state -/

section Operations

variable {s : State} (hs : s.AudioSound)
include hs

theorem sound_answer (b : Block) (req : Req) (code : ResultCode) (body : List Byte) :
    (s.answer b req code body).AudioSound := audioSound_congr hs rfl

theorem sound_badField (b : Block) (req : Req) (field : Nat) : (s.badField b req field).AudioSound :=
  audioSound_congr hs rfl

theorem sound_withRequest (b : Block) (which : Req → Bool) {f : Req → State → State}
    (hf : ∀ req t, t.AudioSound → (f req t).AudioSound) : (s.withRequest b which f).AudioSound := by
  unfold State.withRequest
  split
  · split
    · exact hf _ _ (audioSound_congr hs rfl)
    · exact hs
  · exact hs

theorem sound_withReset (b : Block) {f : ResetOrder → State → State}
    (hf : ∀ o t, t.AudioSound → (f o t).AudioSound) : (s.withReset b f).AudioSound := by
  unfold State.withReset
  split
  next o rest _ =>
    have ho := hf o (s.onMail fun m => { m with resets := rest }) (audioSound_congr hs rfl)
    dsimp only
    split
    · exact audioSound_congr ho rfl
    · exact ho
  next => exact hs

theorem sound_withStore {t : SST} (ht : t.Sound) : State.AudioSound { s with sst := t } :=
  { hs with store := ht }

/-- R131, R136: what the Player Bank sends may come and go. -/
theorem sound_plbMail (ms : List PlbMsg) :
    (s.onMail fun m => { m with plbToSst := ms }).AudioSound := { hs with }

theorem sound_toSstFromPlb (ms : List PlbMsg) : (s.toSstFromPlb ms).AudioSound := { hs with }

theorem sound_toSstFromRcu {ms : List RcuMsg} (hms : ∀ m ∈ ms, m.Sound) :
    (s.toSstFromRcu ms).AudioSound :=
  { hs with sent := fun m hm => (List.mem_append.mp hm).elim (hs.sent m) (hms m) }

theorem sound_dropRcu : s.dropRcu.AudioSound :=
  { hs with sent := fun m hm => hs.sent m (List.mem_of_mem_tail hm) }

/-- R144: one player changed, with room for the place of a PLAY that waits. -/
theorem sound_onPlayer {p : Player} {f : PlayerState → PlayerState}
    (hf : PlayerState.Sound (f s.plb.players[p]))
    (hroom : ∀ w, s.plb.waiting = some w → w.next = true → w.player = p →
      (f s.plb.players[p]).queue.length ≤ 3) : (s.onPlayer p f).AudioSound :=
  { hs with
    player := fun q => by
      rw [onPlayer_plb, updAt_get]
      split
      · exact hf
      · exact hs.player q
    waiting := fun w hw hnext => by
      rw [onPlayer_plb, updAt_get]
      split
      next hp => exact hroom w hw hnext hp.symm
      next => exact hs.waiting w hw hnext }

/-- R144: one player changed, with no more places than before. -/
theorem sound_onPlayer_le {p : Player} {f : PlayerState → PlayerState}
    (hf : PlayerState.Sound (f s.plb.players[p]))
    (hle : (f s.plb.players[p]).queue.length ≤ (PlayerState.queue s.plb.players[p]).length) :
    (s.onPlayer p f).AudioSound :=
  sound_onPlayer hs hf fun w hw hnext hp => hle.trans (hp ▸ hs.waiting w hw hnext)

theorem sound_onRecorder {r : Rec} {f : Recorder → Recorder}
    (hf : Recorder.Sound (f s.rcu.recorders[r])) : (s.onRecorder r f).AudioSound :=
  { hs with
    recorder := fun q => by
      rw [onRecorder_rcu, updAt_get]
      split
      · exact hf
      · exact hs.recorder q }

end Operations

/-! ## Sample Store -/

section Store

variable {s : State} (hs : s.AudioSound)
include hs

theorem execMemoryClearComplete_sound : AudioNext (execMemoryClearComplete s) := by
  unfold execMemoryClearComplete
  split
  · exact audioNext { hs with store := store_withMem hs.store (by rfl) none }
  · exact audioNext hs

/-- R129, R131: a read on its way names an address that exists, so it is answered. -/
theorem takePlayerRead_sound (p : Player) : AudioNext (s.takePlayerRead p) := by
  unfold State.takePlayerRead
  split
  next r rest htaken =>
    obtain ⟨hmem, -, hrest⟩ := takeFirst_mem htaken
    rw [if_neg (Nat.not_le.mpr (hs.reads r hmem))]
    exact audioNext { hs with reads := fun q hq => hs.reads q (hrest q hq) }
  next => exact audioNext hs

/-- R129, R131: a write on its way names an address that exists, so it is written. -/
theorem execRecorderWrite_sound : AudioNext (execRecorderWrite s) := by
  unfold execRecorderWrite
  split
  next a w rest hmail =>
    have haddr : a < Config.memoryWords := hs.sent (.write a w) (hmail ▸ List.mem_cons_self)
    rw [if_neg (Nat.not_le.mpr haddr)]
    exact audioNext (sound_withStore (sound_dropRcu hs)
      (store_withMem hs.store (wf_write hs.store.memory haddr) _))
  next => exact audioNext hs

theorem execHoldRequest_sound : AudioNext (execHoldRequest s) := by
  unfold execHoldRequest
  split
  next id rest _ =>
    have hanswered : (s.onMail fun m =>
        { m with plbToSst := rest, holdAnswer := some s.sst.clips[id] }).AudioSound :=
      { hs with granted := fun c hc => hs.store.clip id c (Option.some.inj hc) }
    dsimp only
    split
    next c hc =>
      exact audioNext (sound_withStore hanswered
        (store_hold hs.store (Option.isSome_iff_exists.mpr ⟨c, hc⟩)))
    next => exact audioNext hanswered
  next => exact audioNext hs

theorem execReleaseNotice_sound : AudioNext (execReleaseNotice s) := by
  unfold execReleaseNotice
  split
  · exact audioNext (sound_plbMail (sound_withStore hs (store_release hs.store _)) _)
  · exact audioNext hs

/-- R137: a granted region is clear of every clip and of the other region. -/
theorem execRegionRequest_sound : AudioNext (execRegionRequest s) := by
  unfold execRegionRequest
  split
  next r start len rest _ =>
    have htaken : (s.dropRcu.onMail fun m =>
        { m with regionAnswer := some (judgeRegion s.sst r start len) }).AudioSound :=
      { sound_dropRcu hs with }
    dsimp only
    split
    next hgranted =>
      obtain ⟨hclips, hother⟩ := judgeRegion_granted_iff.mp hgranted
      refine audioNext (sound_withStore htaken (store_setRegion hs.store ?_ ?_))
      · intro g id c hg hc
        obtain rfl := Option.some.inj hg
        exact clipOverlapping_none_iff.mp hclips id c hc
      · intro g k hg hk
        obtain rfl := Option.some.inj hg
        exact regionOverlaps_false_iff.mp hother k hk
    next => exact audioNext htaken
    next => exact audioNext htaken
  next => exact audioNext hs

theorem execRegionRelease_sound : AudioNext (execRegionRelease s) := by
  unfold execRegionRelease
  split
  · exact audioNext (sound_withStore (sound_dropRcu hs)
      (store_setRegion (f := fun _ => none) hs.store nofun nofun))
  · exact audioNext hs

/-- R138: the running mark changes, the region does not. -/
theorem execRunningNotice_sound : AudioNext (execRunningNotice s) := by
  unfold execRunningNotice
  split
  next r on rest _ =>
    refine audioNext (sound_withStore (sound_dropRcu hs) (store_setRegion hs.store ?_ ?_))
    · intro g id c hg hc
      obtain ⟨x, hx, rfl⟩ := Option.map_eq_some_iff.mp hg
      exact hs.store.clear r x id c hx hc
    · intro g k hg hk
      obtain ⟨x, hx, rfl⟩ := Option.map_eq_some_iff.mp hg
      obtain rfl | rfl := rec_cases r
      · exact hs.store.apart x k hx hk
      · exact (rangesOverlap_comm _ _ _ _).trans (hs.store.apart k x hk hx)
  next => exact audioNext hs

/-- R132: words are written only where all their addresses exist. -/
theorem execMemoryWrite_sound : AudioNext (execMemoryWrite s) := by
  refine audioNext (sound_withRequest hs _ _ fun req t ht => ?_)
  dsimp only
  split
  · exact sound_badField ht _ _ _
  · split
    · exact sound_badField ht _ _ _
    next hend =>
      split
      · exact sound_answer ht _ _ _ _
      · exact sound_answer (sound_withStore ht
          (store_withMem ht.store (wf_writeRun ht.store.memory (Nat.not_lt.mp hend)) _)) _ _ _ _

theorem execMemoryRead_sound : AudioNext (execMemoryRead s) := by
  refine audioNext (sound_withRequest hs _ _ fun req t ht => ?_)
  dsimp only
  split
  · exact sound_badField ht _ _ _
  · split
    · exact sound_badField ht _ _ _
    · exact sound_answer ht _ _ _ _

omit hs in
/-- R139: a CLIP DEFINE that passes its checks carries a clip within memory, its loop point inside. -/
theorem clipOfBody_sound {b : List Byte} (hb : clipDefineBad b = none) : (clipOfBody b).Sound := by
  unfold clipDefineBad at hb
  dsimp only at hb
  split_ifs at hb with _ _ hlen _ hloop
  refine ⟨?_, ?_, fun o ho => ?_⟩
  · change 1 ≤ field24 b 4
    omega
  · change field24 b 1 + field24 b 4 ≤ Config.memoryWords
    omega
  · simp only [clipOfBody] at ho ⊢
    split at ho
    next hmode =>
      obtain rfl := Option.some.inj ho
      omega
    next => cases ho

theorem execClipDefine_sound : AudioNext (execClipDefine s) := by
  refine audioNext (sound_withRequest hs _ _ fun req t ht => ?_)
  split
  · exact sound_badField ht _ _ _
  next hgood =>
    dsimp only
    split_ifs with _ hfirst hsecond
    · exact sound_answer ht _ _ _ _
    · exact sound_answer ht _ _ _ _
    · exact sound_answer ht _ _ _ _
    · refine sound_answer (sound_withStore ht (store_setClip ht.store ?_ (fun _ => rfl) ?_)) _ _ _ _
      · intro c hc
        exact Option.some.inj hc ▸ clipOfBody_sound hgood
      · intro r g c hr hc
        obtain rfl := Option.some.inj hc
        rw [rangesOverlap_comm]
        obtain rfl | rfl := rec_cases r
        · exact regionOverlaps_false_iff.mp (Bool.eq_false_iff.mpr hfirst) g hr
        · exact regionOverlaps_false_iff.mp (Bool.eq_false_iff.mpr hsecond) g hr

theorem execClipDelete_sound : AudioNext (execClipDelete s) := by
  refine audioNext (sound_withRequest hs _ _ fun req t ht => ?_)
  dsimp only
  split_ifs with _ _ hfree
  · exact sound_badField ht _ _ _
  · exact sound_answer ht _ _ _ _
  · exact sound_answer ht _ _ _ _
  · exact sound_answer (sound_withStore ht
      (store_setClip (o := none) ht.store nofun (fun hheld => absurd hheld hfree) nofun)) _ _ _ _

theorem execClipRead_sound : AudioNext (execClipRead s) := by
  refine audioNext (sound_withRequest hs _ _ fun req t ht => ?_)
  dsimp only
  split
  · exact sound_badField ht _ _ _
  · split
    · exact sound_answer ht _ _ _ _
    · exact sound_answer ht _ _ _ _

end Store

/-! ## Player Bank -/

section Players

variable {s : State} (hs : s.AudioSound)
include hs

/-- R146: a player advances inside its clip, or takes the end of it. -/
theorem sound_advancePlayer (p : Player) : (s.advancePlayer p).AudioSound := by
  unfold State.advancePlayer
  dsimp only
  split
  next => exact hs
  next h behind hq =>
    split
    next hpos => exact sound_onPlayer_le hs (player_step (hs.player p) hq hpos) le_rfl
    next =>
      have hended : (s.onPlayer p fun _ => (endOfClip s.plb.players[p] h behind).1).AudioSound :=
        sound_onPlayer_le hs (player_endOfClip (hs.player p) hq) (length_endOfClip hq)
      split_ifs
      · exact audioSound_congr (sound_toSstFromPlb hended _) rfl
      · exact audioSound_congr hended rfl
      · exact sound_toSstFromPlb hended _
      · exact hended

theorem sound_takeReadAnswer (p : Player) : (s.takeReadAnswer p).AudioSound := by
  unfold State.takeReadAnswer
  split
  next a rest _ =>
    extract_lets w
    have hposted : (({ s with plb := { s.plb with
        cur := s.plb.cur.map (Posted.put a.frame p w)
        prev := s.plb.prev.map (Posted.put a.frame p w) } } : State).onMail fun m =>
          { m with readAnswers := rest }).AudioSound := { hs with }
    split
    · exact sound_advancePlayer (sound_onPlayer_le hposted
        (player_withReading (hs.player p) false fun _ => rfl) (Nat.le_refl _)) p
    · exact hposted
  next => exact hs

omit hs in
theorem settleReads_sound (ps : List Player) {s : State} (hs : s.AudioSound) :
    AudioNext (s.settleReads ps) := by
  induction ps generalizing s with
  | nil => exact audioNext hs
  | cons p ps ih =>
    obtain ⟨u, hu, hsound⟩ := takePlayerRead_sound hs p
    simp only [State.settleReads, hu]
    exact ih (sound_takeReadAnswer hsound p)

/-- R151, R154: an event of the Player Bank, after the reads. -/
theorem afterReads_sound {f : State → State} (hf : ∀ t, t.AudioSound → (f t).AudioSound) :
    AudioNext (s.afterReads f) := by
  obtain ⟨u, hu, hsound⟩ := settleReads_sound allEight hs
  rw [afterReads_of hu]
  exact audioNext (hf u hsound)

/-- R147: a request of the Player Bank, taken after the reads while no PLAY waits. -/
theorem plbRequest_sound (which : Req → Bool) {f : Req → State → State}
    (hf : ∀ req t, t.AudioSound → t.plb.waiting = none → (f req t).AudioSound) :
    AudioNext (s.afterReads fun s => s.plbRequest which f) := by
  refine afterReads_sound hs fun t ht => ?_
  unfold State.plbRequest
  split
  next hfree =>
    unfold State.withRequest
    split
    · split
      · exact hf _ _ (audioSound_congr ht rfl) (Option.isNone_iff_eq_none.mp hfree)
      · exact ht
    · exact ht
  next => exact ht

/-- R145: a boundary marks the reads and sends them. -/
theorem sound_openPlbFrame : s.openPlbFrame.AudioSound := by
  have hplayer (p : Player) : s.openPlbFrame.plb.players[p] = PlayerState.openFrame s.plb.players[p] :=
    Vector.getElem_map _ p.isLt
  exact { hs with
    player := fun p => hplayer p ▸ player_openFrame (hs.player p)
    waiting := fun w hw hnext => by
      rw [hplayer]
      exact hs.waiting w hw hnext
    reads := fun r hr => by
      rcases List.mem_append.mp hr with hr | hr
      · exact hs.reads r hr
      · obtain ⟨p, -, hp⟩ := List.mem_filterMap.mp hr
        exact readOf_addr (hs.player p) hp }

theorem sound_askHold (req : Req) (next : Bool)
    (hroom : next = true →
      (PlayerState.queue s.plb.players[linkOf (octAt req.body 0)]).length ≤ 3) :
    (s.askHold req next).AudioSound :=
  { hs with
    waiting := fun w hw hnext => by
      obtain rfl := Option.some.inj hw
      exact hroom hnext }

theorem execPlayNow_sound : AudioNext (execPlayNow s) :=
  plbRequest_sound hs _ fun req t ht _ => by
    split
    · exact sound_badField ht _ _ _
    · exact sound_askHold ht _ _ nofun

theorem execPlayNext_sound : AudioNext (execPlayNext s) :=
  plbRequest_sound hs _ fun req t ht _ => by
    split
    · exact sound_badField ht _ _ _
    · dsimp only
      split_ifs with _ hfull
      · exact sound_answer ht _ _ _ _
      · exact sound_answer ht _ _ _ _
      · exact sound_askHold ht _ _ fun _ => Nat.le_of_lt_succ (Nat.not_le.mp hfull)

/-- R149, R150: a granted clip is placed alone, or behind at most three others. -/
theorem sound_place {w : PlayWait} {c : Clip} (hc : c.Sound) (hfree : s.plb.waiting = none)
    (hroom : w.next = true → (PlayerState.queue s.plb.players[w.player]).length ≤ 3) :
    (s.place w c).AudioSound := by
  have hnone {w' : PlayWait} (hw : s.plb.waiting = some w') : False := by rw [hfree] at hw; cases hw
  unfold State.place
  dsimp only
  split
  next hnext =>
    exact sound_answer (sound_onPlayer hs (player_append (hs.player _) (hroom hnext) hc)
      fun _ hw => (hnone hw).elim) _ _ _ _
  next =>
    refine sound_answer (sound_toSstFromPlb (sound_onPlayer hs (player_atStart ?_ ?_ _ _)
      fun _ hw => (hnone hw).elim) _) _ _ _ _
    · intro y hy
      exact List.mem_singleton.mp hy ▸ hc
    · simp

theorem sound_takeHoldAnswer : s.takeHoldAnswer.AudioSound := by
  unfold State.takeHoldAnswer
  split
  next w granted hw hanswer =>
    have htaken : (({ s with plb := { s.plb with waiting := none } } : State).onMail fun m =>
        { m with holdAnswer := none }).AudioSound := { hs with waiting := nofun, granted := nofun }
    dsimp only
    split
    · exact sound_answer (sound_toSstFromPlb htaken _) _ _ _ _
    · exact sound_answer htaken _ _ _ _
    next c _ =>
      exact sound_place htaken (hs.granted c hanswer) rfl fun hnext => hs.waiting w hw hnext
    · exact sound_answer htaken _ _ _ _
  next => exact hs

theorem sound_stopNow (p : Player) : (s.stopNow p).AudioSound := by
  unfold State.stopNow
  split
  · exact hs
  · exact audioSound_congr (sound_toSstFromPlb
      (sound_onPlayer_le hs ResetValues.player_idle (Nat.zero_le _)) _) rfl

theorem sound_stopEnd (p : Player) : (s.stopEnd p).AudioSound := by
  unfold State.stopEnd
  split
  · exact hs
  next h behind hq =>
    refine sound_toSstFromPlb (sound_onPlayer_le hs (player_stopEnd (hs.player p) hq) ?_) _
    rw [hq]
    exact Nat.succ_le_succ (Nat.zero_le _)

theorem execStopNow_sound : AudioNext (execStopNow s) :=
  plbRequest_sound hs _ fun req t ht _ => by
    split
    · exact sound_badField ht _ _ _
    · exact sound_answer (sound_stopNow ht _) _ _ _ _

theorem execStopEnd_sound : AudioNext (execStopEnd s) :=
  plbRequest_sound hs _ fun req t ht _ => by
    split
    · exact sound_badField ht _ _ _
    · exact sound_answer (sound_stopEnd ht _) _ _ _ _

theorem execPlayerStatus_sound : AudioNext (execPlayerStatus s) :=
  plbRequest_sound hs _ fun req t ht _ => by
    split
    · exact sound_badField ht _ _ _
    · exact sound_answer ht _ _ _ _

/-- R164: every player is IDLE, and a PLAY that waits finds an empty queue. -/
theorem execPlbReset_sound : AudioNext (execPlbReset s) :=
  afterReads_sound hs fun t ht => sound_withReset ht _ fun o u hu => by
    have hidle (p : Player) : (Vector.replicate 8 PlayerState.idle)[p] = PlayerState.idle :=
      ResetValues.replicate_get _ p
    exact { hu with
      player := fun p => (hidle p).symm ▸ ResetValues.player_idle
      waiting := fun w _ _ => (congrArg (fun x => x.queue.length) (hidle w.player)).trans_le
        (Nat.zero_le 3) }

end Players

/-! ## Recorder Unit -/

section Recorders

variable {s : State} (hs : s.AudioSound)
include hs

/-- R157: a word of a RUNNING recorder goes to an address of its region. -/
theorem sound_record {r : Rec} (hactive : Recorder.state s.rcu.recorders[r] ≠ .idle) (w : Sample) :
    (s.record r w).AudioSound := by
  have hwritten : ((s.toSstFromRcu [.write (Recorder.pos s.rcu.recorders[r]) w]).onRecorder r
      Recorder.advance).AudioSound := by
    refine sound_onRecorder (sound_toSstFromRcu hs fun m hm => ?_) (recorder_advance (hs.recorder r))
    exact List.mem_singleton.mp hm ▸ recorder_pos (hs.recorder r) hactive
  unfold State.record
  dsimp only
  split
  · refine audioSound_congr (sound_toSstFromRcu hwritten (ms := [.running r false]) fun m hm => ?_) rfl
    exact List.mem_singleton.mp hm ▸ trivial
  · exact hwritten

theorem execRecorderInputWord_sound (r : Rec) : AudioNext (execRecorderInputWord r s) := by
  unfold execRecorderInputWord
  split
  next w rest _ =>
    extract_lets s1
    have htaken : s1.AudioSound := audioSound_congr hs rfl
    split
    next hrunning => exact audioNext (sound_record htaken (by rw [hrunning]; decide) _)
    next => exact audioNext htaken
  next => exact audioNext hs

/-- R158: a request of the Recorder Unit. -/
theorem rcuRequest_sound (k : RequestKind) {f : Req → State → State}
    (hf : ∀ req t, t.AudioSound → (f req t).AudioSound) : AudioNext (.next (s.rcuRequest k f)) := by
  refine audioNext ?_
  unfold State.rcuRequest
  split
  · exact sound_withRequest hs _ _ hf
  · exact hs

omit hs in
/-- R159: a RECORD SETUP that passes its checks carries a region within memory. -/
theorem setupRegion_sound {b : List Byte} (hb : setupBad b = none) :
    RegionSound (field24 b 1) (field24 b 4) := by
  unfold setupBad at hb
  split_ifs at hb
  unfold RegionSound
  omega

theorem execRecordSetup_sound : AudioNext (execRecordSetup s) :=
  rcuRequest_sound hs _ fun req t ht => by
    split
    · exact sound_badField ht _ _ _
    next hgood =>
      have hregion := setupRegion_sound hgood
      dsimp only
      split
      · exact sound_answer ht _ _ _ _
      · exact { ht with
          setup := fun w hw => Option.some.inj hw ▸ hregion
          sent := fun m hm => by
            rcases List.mem_append.mp hm with hm | hm
            · exact ht.sent m hm
            · exact List.mem_singleton.mp hm ▸ hregion }

theorem execRegionAnswer_sound : AudioNext (execRegionAnswer s) := by
  unfold execRegionAnswer
  split
  next w a hw _ =>
    have htaken : (({ s with rcu := { s.rcu with waiting := none } } : State).onMail fun m =>
        { m with regionAnswer := none }).AudioSound := { hs with setup := nofun }
    dsimp only
    split
    · exact audioNext (sound_answer htaken _ _ _ _)
    · split
      · exact audioNext (sound_answer (sound_onRecorder htaken
          (recorder_atStart (hs.setup w hw) (by decide) _ _)) _ _ _ _)
      · exact audioNext (sound_answer htaken _ _ _ _)
      · exact audioNext (sound_answer htaken _ _ _ _)
  next => exact audioNext hs

omit hs in
theorem runningNotice_sound (r : Rec) (on : Bool) : ∀ m ∈ [RcuMsg.running r on], m.Sound := fun _ hm =>
  List.mem_singleton.mp hm ▸ trivial

theorem sound_recordStart (req : Req) (r : Rec) : (s.recordStart req r).AudioSound := by
  have restart (hactive : Recorder.state s.rcu.recorders[r] ≠ .idle) :
      ((s.onRecorder r fun x => x.rewind .running).toSstFromRcu [.running r true]).AudioSound :=
    sound_toSstFromRcu (sound_onRecorder hs (recorder_rewind (hs.recorder r) hactive (by decide)))
      (runningNotice_sound r true)
  unfold State.recordStart
  split
  next => exact sound_answer hs _ _ _ _
  next hset => exact sound_answer (restart (by rw [hset]; decide)) _ _ _ _
  next hfull => exact sound_answer (restart (by rw [hfull]; decide)) _ _ _ _
  next => exact sound_answer hs _ _ _ _

theorem sound_recordStop (r : Rec) : (s.recordStop r).AudioSound := by
  have stop (hactive : Recorder.state s.rcu.recorders[r] ≠ .idle) :
      (s.onRecorder r fun x => { x with state := .set }).AudioSound :=
    sound_onRecorder hs (recorder_stop (hs.recorder r) hactive)
  unfold State.recordStop
  split
  next hrunning =>
    exact sound_toSstFromRcu (stop (by rw [hrunning]; decide)) (runningNotice_sound r false)
  next hfull => exact stop (by rw [hfull]; decide)
  next => exact hs
  next => exact hs

theorem execRecordStart_sound : AudioNext (execRecordStart s) :=
  rcuRequest_sound hs _ fun req t ht => by
    split
    · exact sound_badField ht _ _ _
    · exact sound_recordStart ht _ _

theorem execRecordStop_sound : AudioNext (execRecordStop s) :=
  rcuRequest_sound hs _ fun req t ht => by
    split
    · exact sound_badField ht _ _ _
    · exact sound_answer (sound_recordStop ht _) _ _ _ _

theorem execRecorderStatus_sound : AudioNext (execRecorderStatus s) :=
  rcuRequest_sound hs _ fun req t ht => by
    split
    · exact sound_badField ht _ _ _
    · exact sound_answer ht _ _ _ _

theorem sound_routingResetRecorder (r : Rec) : (s.routingResetRecorder r).AudioSound := by
  have back (hactive : Recorder.state s.rcu.recorders[r] ≠ .idle) :
      (s.onRecorder r fun x => x.rewind .set).AudioSound :=
    sound_onRecorder hs (recorder_rewind (hs.recorder r) hactive (by decide))
  unfold State.routingResetRecorder
  split
  next hrunning =>
    exact sound_toSstFromRcu (back (by rw [hrunning]; decide)) (runningNotice_sound r false)
  next hfull => exact back (by rw [hfull]; decide)
  next => exact hs
  next => exact hs

theorem sound_deviceResetRecorder (r : Rec) : (s.deviceResetRecorder r).AudioSound := by
  have hidle : (s.onRecorder r fun _ => Recorder.idle).AudioSound :=
    sound_onRecorder hs ResetValues.recorder_idle
  unfold State.deviceResetRecorder
  dsimp only
  split
  · exact sound_toSstFromRcu hidle fun m hm => List.mem_singleton.mp hm ▸ trivial
  · exact hidle

theorem execRcuReset_sound : AudioNext (execRcuReset s) := by
  refine audioNext (sound_withReset hs _ fun o t ht => ?_)
  split
  · exact sound_routingResetRecorder (sound_routingResetRecorder ht 0) 1
  · have hreset := sound_deviceResetRecorder (sound_deviceResetRecorder ht 0) 1
    exact { hreset with
      setup := fun w hw => by
        obtain ⟨w', hw', rfl⟩ := Option.map_eq_some_iff.mp hw
        exact hreset.setup w' hw' }

end Recorders

/-! ## Every step -/

/-- In a sound state every command completes, and leaves a sound state. -/
theorem exec_audio {s : State} (hs : s.AudioSound) (i : Instr) : AudioNext (exec i s) := by
  cases i with
  | hardwareReset msel unit => exact audioNext (ResetValues.audioSound_afterReset hs.store.memory)
  -- the Sample Store
  | memoryClearComplete => exact execMemoryClearComplete_sound hs
  | playerRead p => exact takePlayerRead_sound hs p
  | recorderWrite => exact execRecorderWrite_sound hs
  | holdRequest => exact execHoldRequest_sound hs
  | releaseNotice => exact execReleaseNotice_sound hs
  | regionRequest => exact execRegionRequest_sound hs
  | regionRelease => exact execRegionRelease_sound hs
  | runningNotice => exact execRunningNotice_sound hs
  | memoryWrite => exact execMemoryWrite_sound hs
  | memoryRead => exact execMemoryRead_sound hs
  | clipDefine => exact execClipDefine_sound hs
  | clipDelete => exact execClipDelete_sound hs
  | clipRead => exact execClipRead_sound hs
  -- the Player Bank
  | plbFrameBoundary => exact afterReads_sound hs fun _ ht => sound_openPlbFrame ht
  | playerReadAnswer p => exact audioNext (sound_takeReadAnswer hs p)
  | holdAnswer => exact afterReads_sound hs fun _ ht => sound_takeHoldAnswer ht
  | playNow => exact execPlayNow_sound hs
  | playNext => exact execPlayNext_sound hs
  | stopNow => exact execStopNow_sound hs
  | stopEnd => exact execStopEnd_sound hs
  | playerStatus => exact execPlayerStatus_sound hs
  | plbReset => exact execPlbReset_sound hs
  -- the Recorder Unit
  | recorderInputWord r => exact execRecorderInputWord_sound hs r
  | regionAnswer => exact execRegionAnswer_sound hs
  | recordSetup => exact execRecordSetup_sound hs
  | recordStart => exact execRecordStart_sound hs
  | recordStop => exact execRecordStop_sound hs
  | recorderStatus => exact execRecorderStatus_sound hs
  | rcuReset => exact execRcuReset_sound hs
  -- another block
  | _ => exact audioNext_of_leaves hs (exec_leaves s _ rfl)

/-- A step completes: the memory clear alone touches the audio blocks at a tick. -/
theorem step_audio {s : State} (hs : s.AudioSound) : AudioNext (step s) := by
  unfold step
  split
  next c rest _ => exact exec_audio (s := { s with pending := rest }) (audioSound_congr hs rfl) c
  next => exact audioNext { hs with store := store_tick hs.store }

/-- Settles O6: the one next state of a sound state is sound. -/
theorem stepKeepsTheAudioSound : Obligations.StepKeepsTheAudioSound := by
  intro s t hs hstep
  obtain ⟨u, hu, hsound⟩ := step_audio hs
  exact Host.Outcome.next.inj (hu.symm.trans hstep) ▸ hsound

/-- Settles O9: a fault needs an address that does not exist, and none is on its way in a sound state. -/
theorem noCommandStopsThePart : Obligations.NoCommandStopsThePart := by
  intro s hs
  obtain ⟨t, ht, -⟩ := step_audio hs
  exact ⟨t, ht⟩

end Sys2Proof.AudioBlocks
end

section
/-! SUPPORT. The hold counts (R136): what ties the Sample Store's holds to the Player Bank, as a predicate on the
few fields it reads, with one lemma for each way these fields change together. -/

namespace Sys2Proof.AudioBlocks

open Sys2Proof.Machine Sys2Proof.Laws

/-- What `State.HoldsTied` speaks of: the hold counts and clip records, the queue places, the clip a PLAY waits
for, and the holds, releases and answers on their way. -/
structure Holding where
  holds : Vector Nat 32
  clips : Vector (Option Clip) 32
  places : List QueuePlace
  waits : Option (Fin 32)
  sent : List PlbMsg
  answer : Option (Option Clip)

/-- The holding of a state. -/
def holding (s : State) : Holding :=
  ⟨s.sst.holds, s.sst.clips, s.plb.places, s.plb.waiting.map PlayWait.clip, s.mail.plbToSst,
    s.mail.holdAnswer⟩

/-- R136: `State.HoldsTied`, read off the holding. -/
structure Holding.Tied (x : Holding) : Prop where
  count : ∀ id : Fin 32, x.holds[id] =
    (x.places.countP fun q => q.id == id) + x.sent.count (.release id) +
      if x.answer.join.isSome = true ∧ x.waits = some id then 1 else 0
  record : ∀ q ∈ x.places, x.clips[q.id] = some q.clip
  granted : ∀ id c, x.waits = some id → x.answer = some (some c) → x.clips[id] = some c
  asked : ∀ id : Fin 32, x.sent.count (.hold id) = if x.answer = none ∧ x.waits = some id then 1 else 0
  answered : x.answer ≠ none → x.waits ≠ none

theorem waitsFor_iff (b : PLB) (id : Fin 32) :
    b.waitsFor id = true ↔ b.waiting.map PlayWait.clip = some id := by
  cases hw : b.waiting <;> simp [PLB.waitsFor, hw]

theorem holdsTied_iff {s : State} : s.HoldsTied ↔ (holding s).Tied := by
  constructor
  · rintro ⟨count, record, granted, asked, answered⟩
    simp only [waitsFor_iff] at count asked
    refine ⟨count, record, fun id c hid hc => ?_, asked, fun h => ?_⟩
    · obtain ⟨w, hw, rfl⟩ := Option.map_eq_some_iff.mp hid
      exact granted w c hw hc
    · exact fun hnone => answered h (Option.map_eq_none_iff.mp hnone)
  · rintro ⟨count, record, granted, asked, answered⟩
    refine ⟨?_, record, fun w c hw hc => ?_, ?_, fun h hnone => ?_⟩
    · simp only [waitsFor_iff]
      exact count
    · exact granted w.clip c (Option.map_eq_some_iff.mpr ⟨w, hw, rfl⟩) hc
    · simp only [waitsFor_iff]
      exact asked
    · exact answered h (Option.map_eq_none_iff.mpr hnone)

/-! ## Release notices -/

theorem count_release_releases (l : List QueuePlace) (id : Fin 32) :
    (releases l).count (.release id) = l.countP fun q => q.id == id := by
  simp only [releases, List.count, List.countP_map]
  refine List.countP_congr fun q _ => ?_
  simp

theorem count_hold_releases (l : List QueuePlace) (id : Fin 32) :
    (releases l).count (.hold id) = 0 := by
  simp [releases, List.count_eq_zero]

/-! ## The changes -/

namespace Holding.Tied

variable {x : Holding} (h : x.Tied)
include h

/-- R136, R146, R152, R153, R164: places leave the queues, and each leaves with its release notice. -/
theorem requeue {places l : List QueuePlace} (hplaces : (places ++ l).Perm x.places) :
    Holding.Tied { x with places := places, sent := x.sent ++ releases l } where
  count id := by
    have hcount := hplaces.countP_eq fun q => q.id == id
    rw [List.countP_append] at hcount
    rw [List.count_append, count_release_releases, h.count id]
    dsimp only
    omega
  record q hq := h.record q (hplaces.mem_iff.mp (List.mem_append_left l hq))
  granted := h.granted
  asked id := by rw [List.count_append, count_hold_releases, Nat.add_zero, h.asked id]
  answered := h.answered

/-- R147, R148: a PLAY that waits has asked for its hold. -/
theorem ask (hfree : x.waits = none) (id : Fin 32) :
    Holding.Tied { x with waits := some id, sent := x.sent ++ [.hold id] } := by
  have hanswer : x.answer = none := by
    by_contra hne
    exact h.answered hne hfree
  refine ⟨fun j => ?_, h.record, fun _ c _ hc => ?_, fun j => ?_, fun hne => absurd hanswer hne⟩
  · rw [h.count j]
    simp [hanswer]
  · rw [hanswer] at hc
    cases hc
  · have hnone : x.sent.count (.hold j) = 0 := by
      rw [h.asked j, hfree]
      simp
    simp [hnone, hanswer, List.count_singleton]

/-- R136: the hold request of the PLAY that waits is on its way and not answered. -/
theorem of_hold {id : Fin 32} {rest : List PlbMsg} (hsent : x.sent = .hold id :: rest) :
    x.answer = none ∧ x.waits = some id := by
  have hasked := h.asked id
  rw [hsent, List.count_cons_self] at hasked
  by_contra hnot
  rw [if_neg hnot] at hasked
  cases hasked

/-- R136: a hold request taken: the answer is the record, held once more when there is one. -/
theorem answerHold {id : Fin 32} {rest : List PlbMsg} (hsent : x.sent = .hold id :: rest)
    {holds : Vector Nat 32}
    (hholds : ∀ j : Fin 32, holds[j] =
      x.holds[j] + if x.clips[id].isSome = true ∧ id = j then 1 else 0) :
    Holding.Tied { x with holds := holds, sent := rest, answer := some x.clips[id] } := by
  obtain ⟨hanswer, hwaits⟩ := h.of_hold hsent
  refine ⟨fun j => ?_, h.record, fun j c hj hc => ?_, fun j => ?_, fun _ => ?_⟩
  · have hcount := h.count j
    rw [hsent, hanswer, List.count_cons_of_ne (by simp)] at hcount
    rw [hholds j, hcount]
    simp [hwaits]
  · rw [hwaits] at hj
    exact Option.some.inj hj ▸ Option.some.inj hc
  · have hasked := h.asked j
    rw [hsent, List.count_cons, hanswer, hwaits] at hasked
    simp only [beq_iff_eq, PlbMsg.hold.injEq, Option.some.injEq, true_and] at hasked
    simp only [reduceCtorEq, false_and, if_false]
    omega
  · simp [hwaits]

/-- R136: a hold request of a defined clip taken. -/
theorem answerDefined {id : Fin 32} {rest : List PlbMsg} (hsent : x.sent = .hold id :: rest)
    (hclip : x.clips[id].isSome = true) :
    Holding.Tied { x with
      holds := updAt x.holds id (· + 1), sent := rest, answer := some x.clips[id] } := by
  refine h.answerHold hsent fun j => ?_
  simp only [hclip, true_and, updAt_get]
  split
  next heq => rw [heq]
  next => rfl

/-- R136: a hold request of an empty position taken. -/
theorem answerEmpty {id : Fin 32} {rest : List PlbMsg} (hsent : x.sent = .hold id :: rest)
    (hclip : x.clips[id] = none) :
    Holding.Tied { x with sent := rest, answer := some x.clips[id] } := by
  refine h.answerHold hsent fun j => ?_
  rw [if_neg (by rw [hclip]; nofun), Nat.add_zero]

/-- R136: a release notice taken: the count falls with the notice. -/
theorem release {id : Fin 32} {rest : List PlbMsg} (hsent : x.sent = .release id :: rest) :
    Holding.Tied { x with holds := updAt x.holds id (· - 1), sent := rest } where
  count j := by
    have hcount := h.count j
    rw [hsent, List.count_cons] at hcount
    simp only [beq_iff_eq, PlbMsg.release.injEq] at hcount
    rw [updAt_get]
    split
    next heq =>
      subst heq
      rw [if_pos rfl] at hcount
      dsimp only
      omega
    next hne => rw [hcount, if_neg hne, Nat.add_zero]
  record := h.record
  granted := h.granted
  asked j := by
    have hasked := h.asked j
    rwa [hsent, List.count_cons_of_ne (by simp)] at hasked
  answered := h.answered

/-- R148 to R150, R164: the answer taken: a granted hold becomes a place or goes back with a release. -/
theorem takeAnswer {id : Fin 32} {granted : Option Clip} {places l : List QueuePlace}
    (hwaits : x.waits = some id) (hanswer : x.answer = some granted)
    (hplaces : (places ++ l).Perm (x.places ++ granted.toList.map fun c => ⟨id, c⟩)) :
    Holding.Tied { x with
      places := places, waits := none, sent := x.sent ++ releases l, answer := none } where
  count j := by
    have hcount := hplaces.countP_eq fun q => q.id == j
    rw [List.countP_append, List.countP_append] at hcount
    have hgranted : ((granted.toList.map fun c => (⟨id, c⟩ : QueuePlace)).countP fun q => q.id == j) =
        if granted.isSome = true ∧ id = j then 1 else 0 := by
      cases granted <;> simp [List.countP_singleton]
    rw [hgranted] at hcount
    rw [List.count_append, count_release_releases, h.count j, hwaits, hanswer]
    simp only [Option.join_some, Option.some.injEq, reduceCtorEq, and_false, if_false]
    omega
  record q hq := by
    rcases List.mem_append.mp (hplaces.mem_iff.mp (List.mem_append_left l hq)) with hq | hq
    · exact h.record q hq
    · obtain ⟨c, hc, rfl⟩ := List.mem_map.mp hq
      exact h.granted id c hwaits (by rw [hanswer, Option.mem_toList.mp hc])
  granted _ _ hj := nomatch hj
  asked j := by
    rw [List.count_append, count_hold_releases, h.asked j, hanswer]
    simp
  answered hne := absurd rfl hne

/-- R136, R139, R140: the record of an id that is not held may change. -/
theorem setClip {id : Fin 32} (hfree : x.holds[id] = 0) (o : Option Clip) :
    Holding.Tied { x with clips := updAt x.clips id fun _ => o } where
  count := h.count
  record q hq := by
    rw [updAt_ne _ _ ?_]
    · exact h.record q hq
    · rintro rfl
      have hcount := h.count q.id
      have hplace : 0 < x.places.countP fun y => y.id == q.id :=
        List.countP_pos_iff.mpr ⟨q, hq, beq_self_eq_true _⟩
      omega
  granted j c hj hc := by
    rw [updAt_ne _ _ ?_]
    · exact h.granted j c hj hc
    · rintro rfl
      have hcount := h.count id
      rw [if_pos ⟨by rw [hc]; rfl, hj⟩] at hcount
      omega
  asked := h.asked
  answered := h.answered

end Holding.Tied

/-! ## The places of the queues -/

/-- One player changed: the places of the others stay around its own. -/
theorem places_updAt (b : PLB) (p : Player) : ∃ before after : List QueuePlace,
    b.places = before ++ PlayerState.queue b.players[p] ++ after ∧
      ∀ f, PLB.places { b with players := updAt b.players p f } =
        before ++ (f b.players[p]).queue ++ after := by
  obtain ⟨before, after, hsplit⟩ := List.append_of_mem (mem_allEight p)
  have hnodup := allEight_nodup
  rw [hsplit] at hnodup
  obtain ⟨-, hafter, hbefore⟩ := List.nodup_append.mp hnodup
  have hother (f : PlayerState → PlayerState) {ps : List Player} (hps : p ∉ ps) :
      (ps.flatMap fun q => PlayerState.queue (updAt b.players p f)[q]) =
        ps.flatMap fun q => PlayerState.queue b.players[q] :=
    List.flatMap_congr fun q hq => by
      have hne : p ≠ q := fun hp => hps (hp ▸ hq)
      rw [updAt_ne _ _ hne]
  refine ⟨before.flatMap fun q => PlayerState.queue b.players[q],
    after.flatMap fun q => PlayerState.queue b.players[q], ?_, fun f => ?_⟩
  · simp only [PLB.places, hsplit, List.flatMap_append, List.flatMap_cons, List.append_assoc]
  · have hp : p ∉ before := fun hmem => hbefore p hmem p List.mem_cons_self rfl
    simp only [PLB.places, hsplit, List.flatMap_append, List.flatMap_cons, List.append_assoc,
      hother f hp, hother f (List.nodup_cons.mp hafter).1]
    rw [updAt_get, if_pos rfl]

/-- Places that come to and leave one queue come to and leave the places of all. -/
theorem perm_places {b : PLB} {p : Player} {f : PlayerState → PlayerState} {l extra : List QueuePlace}
    (hq : ((f b.players[p]).queue ++ l).Perm (PlayerState.queue b.players[p] ++ extra)) :
    (PLB.places { b with players := updAt b.players p f } ++ l).Perm (b.places ++ extra) := by
  obtain ⟨before, after, hold, hnew⟩ := places_updAt b p
  rw [hold, hnew f]
  refine List.perm_iff_count.mpr fun q => ?_
  have hcount := List.perm_iff_count.mp hq q
  simp only [List.count_append] at hcount ⊢
  omega

theorem allReleases_eq (b : PLB) : b.allReleases = releases b.places := by
  simp only [PLB.allReleases, PLB.places, releases, List.map_flatMap]

end Sys2Proof.AudioBlocks
end

section
/-! SUPPORT. The region records (R137, R138, R156, R165): what ties the Sample Store's records to the Recorder
Unit, as a predicate on the few fields it reads, with one lemma for each way these fields change together. -/

namespace Sys2Proof.AudioBlocks

open Sys2Proof.Machine Sys2Proof.Laws

/-- What `State.RegionsTied` speaks of: the region records, the recorders, the RECORD SETUP that waits, and
the messages and the answer on their way. -/
structure Recording where
  regions : Vector (Option Region) 2
  recorders : Vector Recorder 2
  waiting : Option SetupWait
  sent : List RcuMsg
  answer : Option RegionAnswer

/-- The recording of a state. -/
def recording (s : State) : Recording :=
  ⟨s.sst.regions, s.rcu.recorders, s.rcu.waiting, s.mail.rcuToSst, s.mail.regionAnswer⟩

/-- R137, R138: the region record of a recorder once every message on its way has been taken. -/
def Recording.soon (x : Recording) (ok : Bool) (r : Rec) : Option Region :=
  x.sent.foldl (regionStep ok r) x.regions[r]

/-- R159: the region request of a RECORD SETUP that waits. -/
def setupAsks (w : SetupWait) : Rec × Nat × Nat := (w.recorder, w.start, w.len)

/-- R159, R165: what a RECORD SETUP that waits leaves, once its region is granted. -/
def setupLeaves (w : SetupWait) : Option Region :=
  if w.aborted then none else some ⟨w.start, w.len, false⟩

/-- R137, R138, R156, R165: `State.RegionsTied`, read off the recording. -/
structure Recording.Tied (x : Recording) : Prop where
  asked : x.sent.filterMap RcuMsg.asks = if x.answer = none then x.waiting.toList.map setupAsks else []
  answered : x.answer ≠ none → x.waiting ≠ none
  own : ∀ r : Rec, (x.answer ≠ some .granted ∨ ∀ w, x.waiting = some w → w.recorder ≠ r) →
    x.soon false r = Recorder.record x.recorders[r]
  wanted : ∀ w, x.waiting = some w → x.answer = none ∨ x.answer = some .granted →
    x.soon true w.recorder = setupLeaves w
  aborted : ∀ w, x.waiting = some w → w.aborted = true → Recorder.region x.recorders[w.recorder] = none

/-- R159: the one request of a RECORD SETUP that waits for its answer. -/
theorem asks_eq (waiting : Option SetupWait) (answer : Option RegionAnswer) :
    (match waiting, answer with
      | some w, none => [(w.recorder, w.start, w.len)]
      | _, _ => []) = if answer = none then waiting.toList.map setupAsks else [] := by
  cases waiting <;> cases answer <;> rfl

theorem regionsTied_iff {s : State} : s.RegionsTied ↔ (recording s).Tied := by
  constructor
  · rintro ⟨asked, answered, own, wanted, aborted⟩
    exact ⟨asked.trans (asks_eq _ _), answered, own, wanted, aborted⟩
  · rintro ⟨asked, answered, own, wanted, aborted⟩
    exact ⟨asked.trans (asks_eq _ _).symm, answered, own, wanted, aborted⟩

/-! ## Messages on their way -/

/-- A message with no request in it acts alike whatever is granted. -/
theorem regionStep_noAsk {m : RcuMsg} (hm : m.asks = none) (ok : Bool) (r : Rec) (g : Option Region) :
    regionStep ok r g m = regionStep false r g m := by
  cases m with
  | regionRequest q start len => cases hm
  | regionRelease q => rfl
  | running q on => rfl
  | write a w => rfl

/-- Without a request on its way, no grant matters. -/
theorem foldl_regionStep_noAsk {ms : List RcuMsg} (hms : ms.filterMap RcuMsg.asks = []) (r : Rec)
    (g : Option Region) : ms.foldl (regionStep true r) g = ms.foldl (regionStep false r) g := by
  induction ms generalizing g with
  | nil => rfl
  | cons m ms ih =>
    have hm : m.asks = none := List.filterMap_eq_nil_iff.mp hms m List.mem_cons_self
    rw [List.filterMap_cons_none hm] at hms
    rw [List.foldl_cons, List.foldl_cons, regionStep_noAsk hm, ih hms]

/-- R137: a request not granted leaves the records. -/
theorem regionStep_request_refused (r q : Rec) (start len : Nat) (g : Option Region) :
    regionStep false r g (.regionRequest q start len) = g := by
  simp [regionStep]

/-- R137: a request granted makes the record, with the mark clear. -/
theorem regionStep_request_granted (r : Rec) (start len : Nat) (g : Option Region) :
    regionStep true r g (.regionRequest r start len) = some ⟨start, len, false⟩ := by
  simp [regionStep]

theorem regionStep_running_same (ok : Bool) (r : Rec) (on : Bool) (g : Option Region) :
    regionStep ok r g (.running r on) = g.map fun x => { x with running := on } := by
  simp [regionStep]

theorem regionStep_running_other (ok : Bool) {r q : Rec} (hne : q ≠ r) (on : Bool) (g : Option Region) :
    regionStep ok r g (.running q on) = g := by
  simp [regionStep, hne]

/-- R137, R138: what a message other than a request makes of the region records. -/
def regionWrite (m : RcuMsg) (regions : Vector (Option Region) 2) : Vector (Option Region) 2 :=
  match m with
  | .regionRelease r => updAt regions r fun _ => none
  | .running r on => updAt regions r fun g => g.map fun x => { x with running := on }
  | .regionRequest _ _ _ | .write _ _ => regions

theorem regionWrite_get {m : RcuMsg} (hm : m.asks = none) (regions : Vector (Option Region) 2) (ok : Bool)
    (r : Rec) : (regionWrite m regions)[r] = regionStep ok r regions[r] m := by
  cases m with
  | regionRequest q start len => cases hm
  | regionRelease q => exact updAt_get _ _ _ _
  | running q on =>
    simp only [regionWrite, regionStep, updAt_get]
    split
    next heq => rw [heq]
    next => rfl
  | write a w => rfl

/-! ## Recorders -/

/-- R156: the record of a recorder follows its region, and its mark the state RUNNING. -/
theorem record_of_region {x y : Recorder} (hregion : y.region = x.region) :
    y.record = x.record.map fun g => { g with running := y.state == .running } := by
  simp [Recorder.record, hregion, Function.comp_def]

/-- R156: a recorder with the region it had, RUNNING as it was, has the record it had. -/
theorem record_congr {x y : Recorder} (hregion : y.region = x.region)
    (hstate : (y.state == .running) = (x.state == .running)) : y.record = x.record := by
  simp [Recorder.record, hregion, hstate]

theorem record_none {x : Recorder} (hregion : x.region = none) : x.record = none := by
  simp [Recorder.record, hregion]

/-- R157: the write position moves inside the region the recorder has. -/
theorem advance_region (x : Recorder) : x.advance.region = x.region := by
  unfold Recorder.advance
  split
  · split <;> rfl
  · rfl

/-- R157: a word leaves the recorder in its state, or FULL. -/
theorem advance_state (x : Recorder) : x.advance.state = x.state ∨ x.advance.state = .full := by
  unfold Recorder.advance
  split
  · split
    · exact .inl rfl
    · dsimp only
      split
      · exact .inr rfl
      · exact .inl rfl
  · exact .inl rfl

/-! ## The changes -/

namespace Recording.Tied

variable {x : Recording} (h : x.Tied)
include h

/-- R131, R137, R138: a write, a release or a running or stopped notice taken. -/
theorem take {m : RcuMsg} {rest : List RcuMsg} (hsent : x.sent = m :: rest) (hm : m.asks = none) :
    Recording.Tied { x with regions := regionWrite m x.regions, sent := rest } := by
  have hsoon (ok : Bool) (r : Rec) :
      Recording.soon { x with regions := regionWrite m x.regions, sent := rest } ok r = x.soon ok r := by
    simp only [Recording.soon, hsent, List.foldl_cons, regionWrite_get hm _ ok]
  refine ⟨?_, h.answered, fun r hr => ?_, fun w hw ha => ?_, h.aborted⟩
  · rw [← h.asked, hsent, List.filterMap_cons_none hm]
  · rw [hsoon]
    exact h.own r hr
  · rw [hsoon]
    exact h.wanted w hw ha

/-- R157: a write sent. -/
theorem sendWrite (a : Nat) (w : Sample) :
    Recording.Tied { x with sent := x.sent ++ [.write a w] } := by
  have hsoon (ok : Bool) (r : Rec) :
      Recording.soon { x with sent := x.sent ++ [.write a w] } ok r = x.soon ok r := by
    simp only [Recording.soon, List.foldl_append, List.foldl_cons, List.foldl_nil, regionStep]
  refine ⟨?_, h.answered, fun r hr => ?_, fun w hw ha => ?_, h.aborted⟩
  · rw [← h.asked, List.filterMap_append]
    exact List.append_nil _
  · rw [hsoon]
    exact h.own r hr
  · rw [hsoon]
    exact h.wanted w hw ha

/-- R156: a recorder with the region it had, RUNNING as it was. -/
theorem change {r : Rec} {f : Recorder → Recorder}
    (hregion : (f x.recorders[r]).region = Recorder.region x.recorders[r])
    (hstate : ((f x.recorders[r]).state == .running) = (Recorder.state x.recorders[r] == .running)) :
    Recording.Tied { x with recorders := updAt x.recorders r f } where
  asked := h.asked
  answered := h.answered
  own q hq := by
    rw [show Recording.soon { x with recorders := updAt x.recorders r f } false q = x.soon false q from rfl,
      h.own q hq, updAt_get]
    split
    next heq => exact heq ▸ (record_congr hregion hstate).symm
    next => rfl
  wanted := h.wanted
  aborted w hw ha := by
    rw [updAt_get]
    split
    next heq => exact hregion.trans (heq ▸ h.aborted w hw ha)
    next => exact h.aborted w hw ha

/-- R138: a recorder with the region it had becomes or stops being RUNNING, with its notice. A recorder does
not start while a RECORD SETUP waits. -/
theorem mark {r : Rec} {f : Recorder → Recorder} {on : Bool}
    (hregion : (f x.recorders[r]).region = Recorder.region x.recorders[r])
    (hon : ((f x.recorders[r]).state == .running) = on) (hfree : on = true → x.waiting = none) :
    Recording.Tied { x with
      recorders := updAt x.recorders r f, sent := x.sent ++ [.running r on] } := by
  have hsoon (ok : Bool) (q : Rec) : Recording.soon { x with
      recorders := updAt x.recorders r f, sent := x.sent ++ [.running r on] } ok q =
      regionStep ok q (x.soon ok q) (.running r on) := by
    simp only [Recording.soon, List.foldl_append, List.foldl_cons, List.foldl_nil]
  refine ⟨?_, h.answered, fun q hq => ?_, fun w hw ha => ?_, fun w hw ha => ?_⟩
  · rw [← h.asked, List.filterMap_append]
    exact List.append_nil _
  · rw [hsoon, h.own q hq, updAt_get]
    split
    next heq =>
      subst heq
      rw [regionStep_running_same, record_of_region hregion, hon]
    next hne => exact regionStep_running_other _ hne _ _
  · rw [hsoon, h.wanted w hw ha]
    by_cases heq : r = w.recorder
    · have hoff : on = false := by
        by_contra hne
        have hnone := hfree (Bool.eq_true_of_not_eq_false hne)
        rw [hw] at hnone
        cases hnone
      rw [heq, regionStep_running_same, hoff]
      unfold setupLeaves
      split <;> rfl
    · exact regionStep_running_other _ heq _ _
  · rw [updAt_get]
    split
    next heq => exact hregion.trans (heq ▸ h.aborted w hw ha)
    next => exact h.aborted w hw ha

theorem answer_none (hfree : x.waiting = none) : x.answer = none := by
  by_contra hne
  exact h.answered hne hfree

/-- R159: a RECORD SETUP that waits has sent its request. -/
theorem ask (hfree : x.waiting = none) {w : SetupWait} (hw : w.aborted = false) :
    Recording.Tied { x with
      waiting := some w, sent := x.sent ++ [.regionRequest w.recorder w.start w.len] } := by
  have hanswer := h.answer_none hfree
  have hsoon (ok : Bool) (q : Rec) : Recording.soon { x with
      waiting := some w, sent := x.sent ++ [.regionRequest w.recorder w.start w.len] } ok q =
      regionStep ok q (x.soon ok q) (.regionRequest w.recorder w.start w.len) := by
    simp only [Recording.soon, List.foldl_append, List.foldl_cons, List.foldl_nil]
  refine ⟨?_, fun _ => nofun, fun q _ => ?_, fun v hv _ => ?_, fun v hv ha => ?_⟩
  · rw [List.filterMap_append, h.asked, hanswer, hfree]
    rfl
  · rw [hsoon, regionStep_request_refused]
    exact h.own q (.inl (by rw [hanswer]; nofun))
  · obtain rfl := Option.some.inj hv
    rw [hsoon, regionStep_request_granted, setupLeaves, hw]
    rfl
  · obtain rfl := Option.some.inj hv
    rw [hw] at ha
    cases ha

/-- R137: the request on its way is the one of the RECORD SETUP that waits, and no other is. -/
theorem of_request {r : Rec} {start len : Nat} {rest : List RcuMsg}
    (hsent : x.sent = .regionRequest r start len :: rest) :
    x.answer = none ∧ (∃ w, x.waiting = some w ∧ setupAsks w = (r, start, len)) ∧
      rest.filterMap RcuMsg.asks = [] := by
  have hasked := h.asked
  rw [hsent, List.filterMap_cons_some (by rfl : RcuMsg.asks (.regionRequest r start len) = _)] at hasked
  split at hasked
  next hanswer =>
    cases hw : x.waiting with
    | none => rw [hw] at hasked; cases hasked
    | some w =>
      rw [hw] at hasked
      simp only [Option.toList_some, List.map_cons, List.map_nil, List.cons.injEq] at hasked
      exact ⟨hanswer, ⟨w, rfl, hasked.1.symm⟩, hasked.2⟩
  next => cases hasked

/-- R137: a request taken and refused. -/
theorem refuse {r : Rec} {start len : Nat} {rest : List RcuMsg}
    (hsent : x.sent = .regionRequest r start len :: rest) {a : RegionAnswer} (ha : a ≠ .granted) :
    Recording.Tied { x with sent := rest, answer := some a } := by
  obtain ⟨hanswer, ⟨w, hw, -⟩, hrest⟩ := h.of_request hsent
  refine ⟨?_, fun _ => by rw [hw]; nofun, fun q _ => ?_, fun v _ hgranted => ?_, h.aborted⟩
  · rw [hrest, if_neg (by nofun)]
  · rw [← h.own q (.inl (by rw [hanswer]; nofun))]
    simp only [Recording.soon, hsent, List.foldl_cons, regionStep_request_refused]
  · rcases hgranted with hgranted | hgranted
    · cases hgranted
    · exact absurd (Option.some.inj hgranted) ha

/-- R137: a request taken and granted. -/
theorem grant {r : Rec} {start len : Nat} {rest : List RcuMsg}
    (hsent : x.sent = .regionRequest r start len :: rest) :
    Recording.Tied { x with
      regions := updAt x.regions r fun _ => some ⟨start, len, false⟩
      sent := rest, answer := some .granted } := by
  obtain ⟨hanswer, ⟨w, hw, hasks⟩, hrest⟩ := h.of_request hsent
  obtain ⟨rfl, rfl, rfl⟩ : w.recorder = r ∧ w.start = start ∧ w.len = len := by
    simpa [setupAsks] using hasks
  refine ⟨?_, fun _ => by rw [hw]; nofun, fun q hq => ?_, fun v hv _ => ?_, h.aborted⟩
  · rw [hrest, if_neg (by nofun)]
  · have hne : w.recorder ≠ q := hq.elim (fun hne => absurd rfl hne) fun hne => hne w hw
    rw [← h.own q (.inl (by rw [hanswer]; nofun))]
    simp only [Recording.soon, hsent, List.foldl_cons, regionStep_request_refused, updAt_ne _ _ hne]
  · rw [hw] at hv
    obtain rfl := Option.some.inj hv
    rw [← h.wanted w hw (.inl hanswer)]
    simp only [Recording.soon, hsent, List.foldl_cons, regionStep_request_granted, updAt_get, if_true]

/-- With an answer on its way no request is, so a grant no longer matters. -/
theorem soon_answered {a : RegionAnswer} (hanswer : x.answer = some a) (r : Rec) :
    x.soon true r = x.soon false r := by
  refine foldl_regionStep_noAsk ?_ r _
  rw [h.asked, hanswer, if_neg (by nofun)]

/-- R159: a granted RECORD SETUP sets its recorder. -/
theorem placeAnswer {w : SetupWait} (hw : x.waiting = some w) (hanswer : x.answer = some .granted)
    (hkept : w.aborted = false) :
    Recording.Tied { x with
      recorders := updAt x.recorders w.recorder fun _ =>
        ⟨.set, some (w.start, w.len), w.once, w.start, false⟩
      waiting := none, answer := none } := by
  refine ⟨?_, fun hne => absurd rfl hne, fun q _ => ?_, nofun, nofun⟩
  · rw [h.asked, hanswer]
    rfl
  · change x.soon false q = _
    rw [updAt_get]
    split
    next heq =>
      rw [← heq, ← h.soon_answered hanswer, h.wanted w hw (.inr hanswer), setupLeaves, hkept]
      rfl
    next hne =>
      refine h.own q (.inr fun v hv => ?_)
      rw [hw] at hv
      exact Option.some.inj hv ▸ hne

/-- R159, R165: a RECORD SETUP that is refused or aborted leaves its recorder as it is. -/
theorem dropAnswer {w : SetupWait} {a : RegionAnswer} (hw : x.waiting = some w)
    (hanswer : x.answer = some a) (hdropped : w.aborted = true ∨ a ≠ .granted) :
    Recording.Tied { x with waiting := none, answer := none } := by
  refine ⟨?_, fun hne => absurd rfl hne, fun q _ => ?_, nofun, nofun⟩
  · rw [h.asked, hanswer]
    rfl
  · change x.soon false q = _
    by_cases hgranted : a = .granted
    · have haborted : w.aborted = true := hdropped.resolve_right fun hne => hne hgranted
      rw [hgranted] at hanswer
      by_cases heq : w.recorder = q
      · subst heq
        rw [← h.soon_answered hanswer, h.wanted w hw (.inr hanswer), record_none (h.aborted w hw haborted),
          setupLeaves, haborted]
        rfl
      · refine h.own q (.inr fun v hv => ?_)
        rw [hw] at hv
        exact Option.some.inj hv ▸ heq
    · exact h.own q (.inl (by rw [hanswer]; exact fun he => hgranted (Option.some.inj he)))

end Recording.Tied

end Sys2Proof.AudioBlocks
end

section
/-! SUPPORT. RESET DEVICE at the Recorder Unit (R165): the region releases it sends, in order, and what they leave
of the region records. -/

namespace Sys2Proof.AudioBlocks

open Sys2Proof.Machine Sys2Proof.Laws

/-- R165: a region release for each recorder that has a region, recorder 0's first. -/
def releaseHeld (held : Rec → Bool) : List RcuMsg :=
  [0, 1].flatMap fun r => if held r then [.regionRelease r] else []

/-- R137: the releases leave no record of a recorder that had a region, and the other's as it is. -/
theorem foldl_releaseHeld (held : Rec → Bool) (ok : Bool) (r : Rec) (g : Option Region) :
    (releaseHeld held).foldl (regionStep ok r) g = if held r then none else g := by
  obtain rfl | rfl := rec_cases r
  · cases h0 : held 0 <;> cases h1 : held 1 <;> simp [releaseHeld, regionStep, h0, h1]
  · cases h0 : held 0 <;> cases h1 : held 1 <;> simp [releaseHeld, regionStep, h0, h1]

theorem releaseHeld_noAsk (held : Rec → Bool) : (releaseHeld held).filterMap RcuMsg.asks = [] := by
  refine List.filterMap_eq_nil_iff.mpr fun m hm => ?_
  obtain ⟨r, -, hm⟩ := List.mem_flatMap.mp hm
  split at hm
  · exact List.mem_singleton.mp hm ▸ rfl
  · cases hm

theorem toSstFromRcu_nil (s : State) : s.toSstFromRcu [] = s := by
  simp only [State.toSstFromRcu, State.onMail, List.append_nil]

theorem deviceResetRecorder_eq (s : State) (r : Rec) :
    s.deviceResetRecorder r = (s.onRecorder r fun _ => Recorder.idle).toSstFromRcu
      (if s.rcu.holdsRegion r then [.regionRelease r] else []) := by
  unfold State.deviceResetRecorder
  dsimp only
  split
  · rfl
  · exact (toSstFromRcu_nil _).symm

/-- R165: both recorders reset: IDLE, with a release for each that had a region or asked for one. -/
theorem deviceReset_eq (s : State) :
    ∃ v : Vector Recorder 2,
      (s.deviceResetRecorder 0).deviceResetRecorder 1 = { s with
        rcu := { s.rcu with recorders := v }
        mail := { s.mail with rcuToSst := s.mail.rcuToSst ++ releaseHeld s.rcu.holdsRegion } } ∧
      ∀ r : Rec, v[r] = Recorder.idle := by
  have hother : (s.deviceResetRecorder 0).rcu.holdsRegion 1 = s.rcu.holdsRegion 1 := by
    rw [deviceResetRecorder_eq]
    have hkept : (updAt s.rcu.recorders 0 fun _ => Recorder.idle)[(1 : Rec)] = s.rcu.recorders[(1 : Rec)] :=
      updAt_ne _ _ (by decide)
    exact congrArg (fun x : Recorder => x.region.isSome || _) hkept
  refine ⟨updAt (updAt s.rcu.recorders 0 fun _ => Recorder.idle) 1 fun _ => Recorder.idle, ?_, fun r => ?_⟩
  · rw [deviceResetRecorder_eq (s.deviceResetRecorder 0), hother, deviceResetRecorder_eq]
    simp only [State.toSstFromRcu, State.onMail, State.onRecorder, releaseHeld, List.flatMap_cons,
      List.flatMap_nil, List.append_nil, List.append_assoc]
  · obtain rfl | rfl := rec_cases r
    · rw [updAt_ne _ _ (by decide), updAt_get, if_pos rfl]
    · rw [updAt_get, if_pos rfl]

/-- R165: RESET DEVICE leaves every recorder IDLE, and a RECORD SETUP that waits aborted. -/
theorem Recording.Tied.deviceReset {x : Recording} (h : x.Tied) {v : Vector Recorder 2}
    (hidle : ∀ r : Rec, v[r] = Recorder.idle) :
    Recording.Tied { x with
      recorders := v
      waiting := x.waiting.map fun w => { w with aborted := true }
      sent := x.sent ++ releaseHeld (RCU.holdsRegion ⟨x.recorders, x.waiting⟩) } := by
  have hsoon (ok : Bool) (r : Rec) : Recording.soon { x with
      recorders := v
      waiting := x.waiting.map fun w => { w with aborted := true }
      sent := x.sent ++ releaseHeld (RCU.holdsRegion ⟨x.recorders, x.waiting⟩) } ok r =
      if RCU.holdsRegion ⟨x.recorders, x.waiting⟩ r then none else x.soon ok r := by
    simp only [Recording.soon, List.foldl_append, foldl_releaseHeld]
  refine ⟨?_, fun hne => ?_, fun r _ => ?_, fun w hw _ => ?_, fun w _ _ => ?_⟩
  · rw [List.filterMap_append, releaseHeld_noAsk, List.append_nil, h.asked]
    cases x.waiting <;> rfl
  · exact fun hnone => h.answered hne (Option.map_eq_none_iff.mp hnone)
  · rw [hsoon, hidle, record_none rfl]
    split
    next => rfl
    next hfree =>
      have hboth : Recorder.region x.recorders[r] = none ∧ ∀ w, x.waiting = some w → w.recorder ≠ r := by
        cases hw : x.waiting <;> simpa [RCU.holdsRegion, hw] using hfree
      rw [h.own r (.inr hboth.2), record_none hboth.1]
  · obtain ⟨w, hwaits, rfl⟩ := Option.map_eq_some_iff.mp hw
    rw [hsoon, if_pos (by simp [RCU.holdsRegion, hwaits])]
    rfl
  · rw [hidle]
    rfl

end Sys2Proof.AudioBlocks
end

section
/-! SUPPORT. Every step keeps the Sample Store's records tied to the Player Bank and the Recorder Unit (R136 to
R138, R156): an event of the Player Bank changes the holding alone, one of the Recorder Unit the recording alone. -/

namespace Sys2Proof.AudioBlocks

open Sys2Proof.Machine Sys2Proof.Laws

/-! ## The state -/

theorem blocksTied_iff {s : State} : s.BlocksTied ↔ (holding s).Tied ∧ (recording s).Tied :=
  ⟨fun h => ⟨holdsTied_iff.mp h.holds, regionsTied_iff.mp h.regions⟩,
    fun h => ⟨holdsTied_iff.mpr h.1, regionsTied_iff.mpr h.2⟩⟩

section Parts

variable {s t : State} (hs : s.BlocksTied)
include hs

theorem holding_tied : (holding s).Tied := (blocksTied_iff.mp hs).1

theorem recording_tied : (recording s).Tied := (blocksTied_iff.mp hs).2

/-- A change of the holding alone. -/
theorem tied_of_holding (hrecording : recording t = recording s) (h : (holding t).Tied) :
    t.BlocksTied :=
  blocksTied_iff.mpr ⟨h, hrecording ▸ recording_tied hs⟩

/-- A change of the recording alone. -/
theorem tied_of_recording (hholding : holding t = holding s) (h : (recording t).Tied) :
    t.BlocksTied :=
  blocksTied_iff.mpr ⟨hholding ▸ holding_tied hs, h⟩

/-- A change of neither. -/
theorem tied_congr (hholding : holding t = holding s) (hrecording : recording t = recording s) :
    t.BlocksTied :=
  tied_of_holding hs hrecording (hholding ▸ holding_tied hs)

theorem tied_of_audio (h : audio t = audio s) : t.BlocksTied := by
  simp only [audio, AudioPart.mk.injEq] at h
  obtain ⟨hstore, hbank, hrecorders, hsent, -, hanswer, hmail, hregion⟩ := h
  refine tied_congr hs ?_ ?_
  · simp only [holding, hstore, hbank, hsent, hanswer]
  · simp only [recording, hstore, hrecorders, hmail, hregion]

end Parts

/-- Whatever next state an outcome names has its blocks tied. -/
def TiedNext (o : Host.Outcome State Fault Refusal) : Prop := ∀ t, o = .next t → t.BlocksTied

theorem tiedNext {t : State} (h : t.BlocksTied) : TiedNext (.next t) :=
  fun _ hu => Host.Outcome.next.inj hu ▸ h

theorem tiedNext_fault (f : Fault) : TiedNext (.fault f) := fun _ h => nomatch h

theorem tiedNext_refused (r : Refusal) : TiedNext (.refused r) := fun _ h => nomatch h

theorem tiedNext_of_leaves {s : State} {o : Host.Outcome State Fault Refusal} (hs : s.BlocksTied)
    (h : LeavesAudio s o) : TiedNext o := by
  obtain ⟨t, rfl, ht⟩ := h
  exact tiedNext (tied_of_audio hs ht)

section Requests

variable {s : State} (hs : s.BlocksTied)
include hs

theorem tied_withRequest (b : Block) (which : Req → Bool) {f : Req → State → State}
    (hf : ∀ req t, t.BlocksTied → t.plb = s.plb → t.rcu = s.rcu → (f req t).BlocksTied) :
    (s.withRequest b which f).BlocksTied := by
  unfold State.withRequest
  split
  · split
    · exact hf _ _ (tied_congr hs rfl rfl) rfl rfl
    · exact hs
  · exact hs

theorem tied_withReset (b : Block) {f : ResetOrder → State → State}
    (hf : ∀ o t, t.BlocksTied → (f o t).BlocksTied) : (s.withReset b f).BlocksTied := by
  unfold State.withReset
  split
  next o rest _ =>
    have ho := hf o (s.onMail fun m => { m with resets := rest }) (tied_congr hs rfl rfl)
    dsimp only
    split
    · exact tied_congr ho rfl rfl
    · exact ho
  next => exact hs

end Requests

/-! ## Sample Store -/

section Store

variable {s : State} (hs : s.BlocksTied)
include hs

theorem execMemoryClearComplete_tied : TiedNext (execMemoryClearComplete s) := by
  unfold execMemoryClearComplete
  split
  · exact tiedNext (tied_congr hs rfl rfl)
  · exact tiedNext hs

theorem takePlayerRead_tied (p : Player) : TiedNext (s.takePlayerRead p) := by
  unfold State.takePlayerRead
  split
  · split
    · exact tiedNext_fault _
    · exact tiedNext (tied_congr hs rfl rfl)
  · exact tiedNext hs

/-- R131, R137, R138: a message with no request in it, taken from the front. -/
theorem tied_takeRcu {m : RcuMsg} {rest : List RcuMsg} (hsent : s.mail.rcuToSst = m :: rest)
    (hm : m.asks = none) {t : State} (hholding : holding t = holding s)
    (hrecording : recording t =
      { recording s with regions := regionWrite m s.sst.regions, sent := s.mail.rcuToSst.tail }) :
    t.BlocksTied := by
  refine tied_of_recording hs hholding ?_
  rw [hrecording, hsent]
  exact (recording_tied hs).take hsent hm

theorem execRecorderWrite_tied : TiedNext (execRecorderWrite s) := by
  unfold execRecorderWrite
  split
  next a w rest hsent =>
    split
    · exact tiedNext_fault _
    · exact tiedNext (tied_takeRcu hs hsent rfl rfl rfl)
  next => exact tiedNext hs

theorem execRegionRelease_tied : TiedNext (execRegionRelease s) := by
  unfold execRegionRelease
  split
  next r rest hsent => exact tiedNext (tied_takeRcu hs hsent rfl rfl rfl)
  next => exact tiedNext hs

theorem execRunningNotice_tied : TiedNext (execRunningNotice s) := by
  unfold execRunningNotice
  split
  next r on rest hsent => exact tiedNext (tied_takeRcu hs hsent rfl rfl rfl)
  next => exact tiedNext hs

/-- R137: the answer follows the judgement, and the record follows the answer. -/
theorem execRegionRequest_tied : TiedNext (execRegionRequest s) := by
  unfold execRegionRequest
  split
  next r start len rest hsent =>
    have htail : s.mail.rcuToSst.tail = rest := by rw [hsent, List.tail_cons]
    have refused {a : RegionAnswer} (ha : a ≠ .granted) :
        (s.dropRcu.onMail fun m => { m with regionAnswer := some a }).BlocksTied := by
      refine tied_of_recording hs rfl ?_
      have hrefused := (recording_tied hs).refuse hsent ha
      rwa [← htail] at hrefused
    dsimp only
    split
    next hjudged =>
      rw [hjudged]
      refine tiedNext (tied_of_recording hs rfl ?_)
      have hgranted := (recording_tied hs).grant hsent
      rwa [← htail] at hgranted
    next hjudged => exact tiedNext (refused (by rw [hjudged]; nofun))
    next hjudged => exact tiedNext (refused (by rw [hjudged]; nofun))
  next => exact tiedNext hs

theorem execHoldRequest_tied : TiedNext (execHoldRequest s) := by
  unfold execHoldRequest
  split
  next id rest hsent =>
    dsimp only
    split
    next c hc =>
      exact tiedNext (tied_of_holding hs rfl
        ((holding_tied hs).answerDefined hsent (Option.isSome_iff_exists.mpr ⟨c, hc⟩)))
    next hc => exact tiedNext (tied_of_holding hs rfl ((holding_tied hs).answerEmpty hsent hc))
  next => exact tiedNext hs

theorem execReleaseNotice_tied : TiedNext (execReleaseNotice s) := by
  unfold execReleaseNotice
  split
  next id rest hsent => exact tiedNext (tied_of_holding hs rfl ((holding_tied hs).release hsent))
  next => exact tiedNext hs

theorem tied_setClip {id : Fin 32} (hfree : ¬0 < s.sst.holds[id]) (o : Option Clip) :
    (s.setClip id o).BlocksTied :=
  tied_of_holding hs rfl ((holding_tied hs).setClip (Nat.eq_zero_of_not_pos hfree) o)

theorem execMemoryWrite_tied : TiedNext (execMemoryWrite s) := by
  refine tiedNext (tied_withRequest hs _ _ fun req t ht _ _ => ?_)
  dsimp only
  split
  · exact tied_congr ht rfl rfl
  · split
    · exact tied_congr ht rfl rfl
    · split <;> exact tied_congr ht rfl rfl

theorem execMemoryRead_tied : TiedNext (execMemoryRead s) := by
  refine tiedNext (tied_withRequest hs _ _ fun req t ht _ _ => ?_)
  dsimp only
  split_ifs <;> exact tied_congr ht rfl rfl

theorem execClipDefine_tied : TiedNext (execClipDefine s) := by
  refine tiedNext (tied_withRequest hs _ _ fun req t ht _ _ => ?_)
  split
  · exact tied_congr ht rfl rfl
  · dsimp only
    split_ifs with hheld
    iterate 3 exact tied_congr ht rfl rfl
    · exact tied_congr (tied_setClip ht hheld _) rfl rfl

theorem execClipDelete_tied : TiedNext (execClipDelete s) := by
  refine tiedNext (tied_withRequest hs _ _ fun req t ht _ _ => ?_)
  dsimp only
  split_ifs with _ _ hheld
  iterate 3 exact tied_congr ht rfl rfl
  · exact tied_congr (tied_setClip ht hheld _) rfl rfl

theorem execClipRead_tied : TiedNext (execClipRead s) := by
  refine tiedNext (tied_withRequest hs _ _ fun req t ht _ _ => ?_)
  dsimp only
  split
  · exact tied_congr ht rfl rfl
  · split <;> exact tied_congr ht rfl rfl

end Store

/-! ## Player Bank -/

section Players

variable {s : State} (hs : s.BlocksTied)
include hs

/-- R136: one player's places leave, each with its release. -/
theorem tied_requeue {p : Player} {f : PlayerState → PlayerState} {l : List QueuePlace}
    (hqueue : ((f s.plb.players[p]).queue ++ l).Perm (PlayerState.queue s.plb.players[p])) :
    ((s.onPlayer p f).toSstFromPlb (releases l)).BlocksTied := by
  refine tied_of_holding hs rfl ((holding_tied hs).requeue ?_)
  rw [← List.append_nil (PlayerState.queue s.plb.players[p])] at hqueue
  have hplaces := perm_places hqueue
  rwa [List.append_nil] at hplaces

/-- R144: a player that keeps its queue. -/
theorem tied_onPlayer {p : Player} {f : PlayerState → PlayerState}
    (hqueue : (f s.plb.players[p]).queue = PlayerState.queue s.plb.players[p]) :
    (s.onPlayer p f).BlocksTied := by
  refine tied_congr hs ?_ rfl
  obtain ⟨before, after, hold, hnew⟩ := places_updAt s.plb p
  have hplaces : PLB.places { s.plb with players := updAt s.plb.players p f } = s.plb.places :=
    (hnew f).trans (by rw [hqueue, hold])
  simp only [holding, onPlayer_sst, onPlayer_mail, onPlayer_plb, hplaces]

omit hs in
/-- R146: at the end of a clip the head place leaves, or the queue stays. -/
theorem endOfClip_queue {x : PlayerState} {h : QueuePlace} {behind : List QueuePlace}
    (hq : x.queue = h :: behind) :
    if (endOfClip x h behind).2.1 = true then ((endOfClip x h behind).1.queue ++ [h]).Perm x.queue
    else (endOfClip x h behind).1.queue = x.queue := by
  unfold endOfClip
  split
  next => exact hq ▸ List.perm_append_singleton _ _
  next => rfl
  next => exact hq ▸ List.Perm.refl _

theorem tied_advancePlayer (p : Player) : (s.advancePlayer p).BlocksTied := by
  unfold State.advancePlayer
  dsimp only
  split
  next => exact hs
  next h behind hq =>
    have hend := endOfClip_queue hq
    split
    · exact tied_onPlayer hs rfl
    · by_cases hremoved : (endOfClip s.plb.players[p] h behind).2.1 = true
      · rw [if_pos hremoved] at hend
        have hended := tied_requeue hs (f := fun _ => (endOfClip s.plb.players[p] h behind).1)
          (l := [h]) hend
        rw [if_pos hremoved]
        split
        · exact tied_congr hended rfl rfl
        · exact hended
      · rw [if_neg hremoved] at hend
        have hended := tied_onPlayer hs (f := fun _ => (endOfClip s.plb.players[p] h behind).1) hend
        rw [if_neg hremoved]
        split
        · exact tied_congr hended rfl rfl
        · exact hended

theorem tied_takeReadAnswer (p : Player) : (s.takeReadAnswer p).BlocksTied := by
  unfold State.takeReadAnswer
  split
  next a rest _ =>
    extract_lets w
    have hposted : (({ s with plb := { s.plb with
        cur := s.plb.cur.map (Posted.put a.frame p w)
        prev := s.plb.prev.map (Posted.put a.frame p w) } } : State).onMail fun m =>
          { m with readAnswers := rest }).BlocksTied := tied_congr hs rfl rfl
    split
    · exact tied_advancePlayer (tied_onPlayer hposted rfl) p
    · exact hposted
  next => exact hs

omit hs in
theorem settleReads_tied (ps : List Player) {s : State} (hs : s.BlocksTied) :
    TiedNext (s.settleReads ps) := by
  induction ps generalizing s with
  | nil => exact tiedNext hs
  | cons p ps ih =>
    unfold State.settleReads
    split
    next u hu => exact ih (tied_takeReadAnswer (takePlayerRead_tied hs p u hu) p)
    next => exact tiedNext_fault _
    next => exact tiedNext_refused _

theorem afterReads_tied {f : State → State} (hf : ∀ t, t.BlocksTied → (f t).BlocksTied) :
    TiedNext (s.afterReads f) := by
  intro t ht
  obtain ⟨u, hu, rfl⟩ := afterReads_next ht
  exact hf u (settleReads_tied _ hs u hu)

/-- R147: a request of the Player Bank, taken after the reads while no PLAY waits. -/
theorem plbRequest_tied (which : Req → Bool) {f : Req → State → State}
    (hf : ∀ req t, t.BlocksTied → t.plb.waiting = none → (f req t).BlocksTied) :
    TiedNext (s.afterReads fun s => s.plbRequest which f) := by
  refine afterReads_tied hs fun t ht => ?_
  unfold State.plbRequest
  split
  next hfree =>
    exact tied_withRequest ht _ _ fun req u hu hplb _ =>
      hf req u hu (by rw [hplb]; exact Option.isNone_iff_eq_none.mp hfree)
  next => exact ht

/-- R145: a boundary changes no queue. -/
theorem tied_openPlbFrame : s.openPlbFrame.BlocksTied := by
  refine tied_congr hs ?_ rfl
  have hplayer (p : Player) : s.openPlbFrame.plb.players[p] = PlayerState.openFrame s.plb.players[p] :=
    Vector.getElem_map _ p.isLt
  have hplaces : s.openPlbFrame.plb.places = s.plb.places :=
    List.flatMap_congr fun p _ => by
      rw [hplayer]
      rfl
  simp only [holding, hplaces]
  rfl

theorem tied_askHold (hfree : s.plb.waiting = none) (req : Req) (next : Bool) :
    (s.askHold req next).BlocksTied :=
  tied_of_holding hs rfl ((holding_tied hs).ask (by rw [holding, hfree]; rfl) _)

theorem execPlayNow_tied : TiedNext (execPlayNow s) :=
  plbRequest_tied hs _ fun req t ht hfree => by
    split
    · exact tied_congr ht rfl rfl
    · exact tied_askHold ht hfree _ _

theorem execPlayNext_tied : TiedNext (execPlayNext s) :=
  plbRequest_tied hs _ fun req t ht hfree => by
    split
    · exact tied_congr ht rfl rfl
    · dsimp only
      split_ifs
      · exact tied_congr ht rfl rfl
      · exact tied_congr ht rfl rfl
      · exact tied_askHold ht hfree _ _

/-- R148 to R150, R164: what a granted hold becomes: a place, alone or behind the others, or a release. -/
theorem tied_takeHoldAnswer : s.takeHoldAnswer.BlocksTied := by
  unfold State.takeHoldAnswer
  split
  next w granted hw hanswer =>
    have hwaits : (holding s).waits = some w.clip := by rw [holding, hw]; rfl
    have taken {t : State} {places l : List QueuePlace} (hrecording : recording t = recording s)
        (hplaces : (places ++ l).Perm (s.plb.places ++ granted.toList.map fun c => ⟨w.clip, c⟩))
        (hsent : t.mail.plbToSst = s.mail.plbToSst ++ releases l)
        (hholding : holding t = { holding s with
          places := places, waits := none, sent := t.mail.plbToSst, answer := none }) :
        t.BlocksTied := by
      refine tied_of_holding hs hrecording ?_
      rw [hholding, hsent]
      exact (holding_tied hs).takeAnswer hwaits hanswer hplaces
    have unsent : s.mail.plbToSst = s.mail.plbToSst ++ releases [] := (List.append_nil _).symm
    dsimp only
    split
    next c haborted => exact taken (l := [⟨w.clip, c⟩]) rfl (List.Perm.refl _) rfl rfl
    next haborted => exact taken (l := []) rfl (List.Perm.refl _) unsent rfl
    next c hkept =>
      unfold State.place
      dsimp only
      split
      next =>
        exact taken (l := []) rfl (perm_places (p := w.player)
          (f := fun x => { x with queue := PlayerState.queue s.plb.players[w.player] ++ [⟨w.clip, c⟩] })
          (by rw [List.append_nil]; exact List.Perm.refl _)) unsent rfl
      next =>
        exact taken (l := PlayerState.queue s.plb.players[w.player]) rfl
          (perm_places (p := w.player) (f := fun _ => ⟨[⟨w.clip, c⟩], 0, false, false⟩)
            List.perm_append_comm) rfl rfl
    next hkept => exact taken (l := []) rfl (List.Perm.refl _) unsent rfl
  next => exact hs

theorem tied_stopNow (p : Player) : (s.stopNow p).BlocksTied := by
  unfold State.stopNow
  split
  next => exact hs
  next h behind hq =>
    exact tied_congr (tied_requeue hs (f := fun _ => PlayerState.idle) (l := h :: behind)
      (hq ▸ List.Perm.refl _)) rfl rfl

theorem tied_stopEnd (p : Player) : (s.stopEnd p).BlocksTied := by
  unfold State.stopEnd
  split
  next => exact hs
  next h behind hq => exact tied_requeue hs (hq ▸ List.Perm.refl _)

theorem execStopNow_tied : TiedNext (execStopNow s) :=
  plbRequest_tied hs _ fun req t ht _ => by
    split
    · exact tied_congr ht rfl rfl
    · exact tied_congr (tied_stopNow ht _) rfl rfl

theorem execStopEnd_tied : TiedNext (execStopEnd s) :=
  plbRequest_tied hs _ fun req t ht _ => by
    split
    · exact tied_congr ht rfl rfl
    · exact tied_congr (tied_stopEnd ht _) rfl rfl

theorem execPlayerStatus_tied : TiedNext (execPlayerStatus s) :=
  plbRequest_tied hs _ fun req t ht _ => by
    split <;> exact tied_congr ht rfl rfl

/-- R164: every place leaves with its release, and a PLAY that waits waits on. -/
theorem execPlbReset_tied : TiedNext (execPlbReset s) :=
  afterReads_tied hs fun t ht => tied_withReset ht _ fun o u hu => by
    have hwaits : (u.plb.waiting.map (PlayWait.reset o.scope)).map PlayWait.clip =
        u.plb.waiting.map PlayWait.clip := by
      cases u.plb.waiting <;> rfl
    refine tied_of_holding hu rfl ?_
    have hreset := (holding_tied hu).requeue (places := []) (l := u.plb.places) (List.Perm.refl _)
    rw [← allReleases_eq] at hreset
    simp only [holding, toSstFromPlb_sst, toSstFromPlb_plb, toSstFromPlb_mail, hwaits]
    exact hreset

end Players

/-! ## Recorder Unit -/

section Recorders

variable {s : State} (hs : s.BlocksTied)
include hs

theorem tied_changeRecorder {r : Rec} {f : Recorder → Recorder}
    (hregion : (f s.rcu.recorders[r]).region = Recorder.region s.rcu.recorders[r])
    (hstate : ((f s.rcu.recorders[r]).state == .running) =
      (Recorder.state s.rcu.recorders[r] == .running)) : (s.onRecorder r f).BlocksTied :=
  tied_of_recording hs rfl ((recording_tied hs).change hregion hstate)

theorem tied_markRecorder {r : Rec} {f : Recorder → Recorder} {on : Bool}
    (hregion : (f s.rcu.recorders[r]).region = Recorder.region s.rcu.recorders[r])
    (hon : ((f s.rcu.recorders[r]).state == .running) = on) (hfree : on = true → s.rcu.waiting = none) :
    ((s.onRecorder r f).toSstFromRcu [.running r on]).BlocksTied :=
  tied_of_recording hs rfl ((recording_tied hs).mark hregion hon hfree)

/-- R157: a RUNNING recorder that is FULL after the word sends the stopped notice. -/
theorem tied_record (r : Rec) (w : Sample) :
    (s.record r w).BlocksTied := by
  have hwritten : (s.toSstFromRcu [.write (Recorder.pos s.rcu.recorders[r]) w]).BlocksTied :=
    tied_of_recording hs rfl ((recording_tied hs).sendWrite _ _)
  have hregion : (Recorder.advance s.rcu.recorders[r]).region = Recorder.region s.rcu.recorders[r] :=
    advance_region _
  unfold State.record
  dsimp only
  rw [Recorders.onRecorder_get]
  split
  next hfull =>
    exact tied_congr (tied_markRecorder hwritten hregion
      (show ((Recorder.advance s.rcu.recorders[r]).state == .running) = false by
        rw [show (Recorder.advance s.rcu.recorders[r]).state = .full from hfull]; rfl) nofun) rfl rfl
  next hgoes =>
    refine tied_changeRecorder hwritten hregion ?_
    exact congrArg (· == RecState.running) ((advance_state _).resolve_right hgoes)

theorem execRecorderInputWord_tied (r : Rec) : TiedNext (execRecorderInputWord r s) := by
  unfold execRecorderInputWord
  split
  next w rest _ =>
    extract_lets s1
    have htaken : s1.BlocksTied := tied_congr hs rfl rfl
    split
    · exact tiedNext (tied_record htaken r _)
    · exact tiedNext htaken
  next => exact tiedNext hs

/-- R158: a request of the Recorder Unit, taken while no RECORD SETUP waits. -/
theorem rcuRequest_tied (k : RequestKind) {f : Req → State → State}
    (hf : ∀ req t, t.BlocksTied → t.rcu.waiting = none → (f req t).BlocksTied) :
    TiedNext (.next (s.rcuRequest k f)) := by
  refine tiedNext ?_
  unfold State.rcuRequest
  split
  next hfree =>
    exact tied_withRequest hs _ _ fun req u hu _ hrcu =>
      hf req u hu (by rw [hrcu]; exact Option.isNone_iff_eq_none.mp hfree)
  next => exact hs

theorem execRecordSetup_tied : TiedNext (execRecordSetup s) :=
  rcuRequest_tied hs _ fun req t ht hfree => by
    split
    · exact tied_congr ht rfl rfl
    · dsimp only
      split
      · exact tied_congr ht rfl rfl
      · exact tied_of_recording ht rfl ((recording_tied ht).ask hfree rfl)

theorem execRegionAnswer_tied : TiedNext (execRegionAnswer s) := by
  unfold execRegionAnswer
  split
  next w a hw hanswer =>
    have dropped {t : State} (hholding : holding t = holding s)
        (hrecording : recording t = { recording s with waiting := none, answer := none })
        (hdropped : w.aborted = true ∨ a ≠ .granted) : t.BlocksTied :=
      tied_of_recording hs hholding (hrecording ▸ (recording_tied hs).dropAnswer hw hanswer hdropped)
    dsimp only
    split
    next haborted => exact tiedNext (dropped rfl rfl (.inl haborted))
    next hkept =>
      split
      · exact tiedNext (tied_of_recording hs rfl
          ((recording_tied hs).placeAnswer hw hanswer (Bool.eq_false_iff.mpr hkept)))
      · exact tiedNext (dropped rfl rfl (.inr nofun))
      · exact tiedNext (dropped rfl rfl (.inr nofun))
  next => exact tiedNext hs

theorem tied_recordStart (hfree : s.rcu.waiting = none) (req : Req) (r : Rec) :
    (s.recordStart req r).BlocksTied := by
  unfold State.recordStart
  split
  next => exact tied_congr hs rfl rfl
  iterate 2 exact tied_congr (tied_markRecorder hs rfl rfl fun _ => hfree) rfl rfl
  next => exact tied_congr hs rfl rfl

theorem tied_recordStop (r : Rec) : (s.recordStop r).BlocksTied := by
  unfold State.recordStop
  split
  next => exact tied_markRecorder hs rfl rfl nofun
  next hfull => exact tied_changeRecorder hs rfl (by rw [hfull]; rfl)
  next => exact hs
  next => exact hs

theorem execRecordStart_tied : TiedNext (execRecordStart s) :=
  rcuRequest_tied hs _ fun req t ht hfree => by
    split
    · exact tied_congr ht rfl rfl
    · exact tied_recordStart ht hfree _ _

theorem execRecordStop_tied : TiedNext (execRecordStop s) :=
  rcuRequest_tied hs _ fun req t ht _ => by
    split
    · exact tied_congr ht rfl rfl
    · exact tied_congr (tied_recordStop ht _) rfl rfl

theorem execRecorderStatus_tied : TiedNext (execRecorderStatus s) :=
  rcuRequest_tied hs _ fun req t ht _ => by
    split <;> exact tied_congr ht rfl rfl

theorem tied_routingResetRecorder (r : Rec) : (s.routingResetRecorder r).BlocksTied := by
  unfold State.routingResetRecorder
  split
  next => exact tied_markRecorder hs rfl rfl nofun
  next hfull => exact tied_changeRecorder hs rfl (by rw [hfull]; rfl)
  next => exact hs
  next => exact hs

theorem execRcuReset_tied : TiedNext (execRcuReset s) := by
  refine tiedNext (tied_withReset hs _ fun o t ht => ?_)
  split
  · exact tied_routingResetRecorder (tied_routingResetRecorder ht 0) 1
  · obtain ⟨v, hreset, hidle⟩ := deviceReset_eq t
    dsimp only
    rw [hreset]
    exact tied_of_recording ht rfl ((recording_tied ht).deviceReset hidle)

end Recorders

/-! ## Every step -/

theorem exec_tied {s : State} (hs : s.BlocksTied) (i : Instr) : TiedNext (exec i s) := by
  cases i with
  | hardwareReset msel unit =>
    exact tiedNext ⟨ResetValues.holdsTied_afterReset, ResetValues.regionsTied_afterReset⟩
  -- the Sample Store
  | memoryClearComplete => exact execMemoryClearComplete_tied hs
  | playerRead p => exact takePlayerRead_tied hs p
  | recorderWrite => exact execRecorderWrite_tied hs
  | holdRequest => exact execHoldRequest_tied hs
  | releaseNotice => exact execReleaseNotice_tied hs
  | regionRequest => exact execRegionRequest_tied hs
  | regionRelease => exact execRegionRelease_tied hs
  | runningNotice => exact execRunningNotice_tied hs
  | memoryWrite => exact execMemoryWrite_tied hs
  | memoryRead => exact execMemoryRead_tied hs
  | clipDefine => exact execClipDefine_tied hs
  | clipDelete => exact execClipDelete_tied hs
  | clipRead => exact execClipRead_tied hs
  -- the Player Bank
  | plbFrameBoundary => exact afterReads_tied hs fun _ ht => tied_openPlbFrame ht
  | playerReadAnswer p => exact tiedNext (tied_takeReadAnswer hs p)
  | holdAnswer => exact afterReads_tied hs fun _ ht => tied_takeHoldAnswer ht
  | playNow => exact execPlayNow_tied hs
  | playNext => exact execPlayNext_tied hs
  | stopNow => exact execStopNow_tied hs
  | stopEnd => exact execStopEnd_tied hs
  | playerStatus => exact execPlayerStatus_tied hs
  | plbReset => exact execPlbReset_tied hs
  -- the Recorder Unit
  | recorderInputWord r => exact execRecorderInputWord_tied hs r
  | regionAnswer => exact execRegionAnswer_tied hs
  | recordSetup => exact execRecordSetup_tied hs
  | recordStart => exact execRecordStart_tied hs
  | recordStop => exact execRecordStop_tied hs
  | recorderStatus => exact execRecorderStatus_tied hs
  | rcuReset => exact execRcuReset_tied hs
  -- another block
  | _ => exact tiedNext_of_leaves hs (exec_leaves s _ rfl)

/-- R130: a tick clears words and no record. -/
theorem tied_tick {s : State} (hs : s.BlocksTied) : s.tick.BlocksTied := by
  have hrecords : s.sst.tick.holds = s.sst.holds ∧ s.sst.tick.clips = s.sst.clips ∧
      s.sst.tick.regions = s.sst.regions := by
    unfold SST.tick
    split
    · exact ⟨rfl, rfl, rfl⟩
    · exact ⟨rfl, rfl, rfl⟩
  obtain ⟨hholds, hclips, hregions⟩ := hrecords
  refine tied_congr hs ?_ ?_
  · simp only [holding, State.tick, hholds, hclips]
  · simp only [recording, State.tick, hregions]

/-- Settles O8: each event changes the holding or the recording in one of the ways that keep it tied. -/
theorem stepKeepsTheBlocksTied : Obligations.StepKeepsTheBlocksTied := by
  intro s t hs hstep
  unfold step at hstep
  split at hstep
  next c rest _ => exact exec_tied (s := { s with pending := rest }) (tied_congr hs rfl rfl) c t hstep
  next => exact tiedNext (tied_tick hs) t hstep

end Sys2Proof.AudioBlocks
end

section
/-! SUPPORT. What the Sample Store does for the Player Bank and the Recorder Unit (R136 to R138): holds and
releases, and the judgement of a region request. -/

namespace Sys2Proof.SampleStore

open Sys2Proof.Machine Sys2Proof.Laws Sys2Proof.AudioBlocks

/-! ## The first in order -/

/-- The first element of a rising list that satisfies `p`. -/
theorem find?_of_rising {α : Type} [LT α] {p : α → Bool} {xs : List α} {a : α}
    (hrising : xs.Pairwise (· < ·)) (hmem : a ∈ xs) (ha : p a = true)
    (hbefore : ∀ x, x < a → p x = false) : xs.find? p = some a := by
  obtain ⟨before, after, rfl⟩ := List.append_of_mem hmem
  obtain ⟨-, -, hcross⟩ := List.pairwise_append.mp hrising
  refine List.find?_eq_some_iff_append.mpr ⟨ha, before, after, rfl, fun x hx => ?_⟩
  rw [hbefore x (hcross x hx a List.mem_cons_self)]
  rfl

theorem clipIds_rising : clipIds.Pairwise (· < ·) := by decide

theorem find?_clipIds {p : Fin 32 → Bool} {id : Fin 32} (hid : p id = true)
    (hbelow : ∀ j, j < id → p j = false) : clipIds.find? p = some id :=
  find?_of_rising clipIds_rising (mem_clipIds id) hid hbelow

/-! ## Holds (R136) -/

section Holds

variable {s : State} {id : Fin 32}

theorem execHoldRequest_defined {rest : List PlbMsg} {c : Clip}
    (hsent : s.mail.plbToSst = .hold id :: rest) (hclip : s.sst.clips[id] = some c) :
    exec .holdRequest s = .next { s with
      sst := { s.sst with holds := updAt s.sst.holds id (· + 1) }
      mail := { s.mail with plbToSst := rest, holdAnswer := some (some c) } } := by
  change execHoldRequest s = _
  simp only [execHoldRequest, hsent, State.onMail, hclip]

theorem execHoldRequest_empty {rest : List PlbMsg}
    (hsent : s.mail.plbToSst = .hold id :: rest) (hclip : s.sst.clips[id] = none) :
    exec .holdRequest s =
      .next { s with mail := { s.mail with plbToSst := rest, holdAnswer := some none } } := by
  change execHoldRequest s = _
  simp only [execHoldRequest, hsent, State.onMail, hclip]

theorem execReleaseNotice_taken {rest : List PlbMsg} (hsent : s.mail.plbToSst = .release id :: rest) :
    exec .releaseNotice s = .next { s with
      sst := { s.sst with holds := updAt s.sst.holds id (· - 1) }
      mail := { s.mail with plbToSst := rest } } := by
  change execReleaseNotice s = _
  simp only [execReleaseNotice, hsent, State.onMail]

end Holds

theorem clipsAreHeldAndReleased : Piece.ClipsAreHeldAndReleased := fun _ _ _ =>
  ⟨fun hsent => ⟨fun _ => execHoldRequest_defined hsent, execHoldRequest_empty hsent⟩,
    execReleaseNotice_taken⟩

/-! ## Regions (R137, R138) -/

section Judgement

variable {t : SST} {start len : Nat}

/-- R137: the lowest defined clip that the range overlaps. -/
theorem clipOverlapping_some {id : Fin 32}
    (hid : ∃ c, t.clips[id] = some c ∧ rangesOverlap start len c.start c.len = true)
    (hbelow : ∀ j : Fin 32, j < id → ∀ c, t.clips[j] = some c →
      rangesOverlap start len c.start c.len = false) : clipOverlapping t start len = some id := by
  refine find?_clipIds ?_ fun j hj => ?_
  · obtain ⟨c, hc, hoverlap⟩ := hid
    simpa only [hc] using hoverlap
  · split
    next c hc => exact hbelow j hj c hc
    next => rfl

/-- R137, R139: a recorder's region that the range overlaps. -/
theorem regionOverlaps_true {r : Rec} {g : Region} (hg : t.regions[r] = some g)
    (hoverlap : rangesOverlap start len g.start g.len = true) : regionOverlaps t start len r = true := by
  simpa only [regionOverlaps, hg] using hoverlap

theorem judgeRegion_clip {r : Rec} {id : Fin 32} (hclip : clipOverlapping t start len = some id) :
    judgeRegion t r start len = .refusedClip id.val := by
  simp only [judgeRegion, hclip]

theorem judgeRegion_recorder {r : Rec} (hclip : clipOverlapping t start len = none)
    (hother : regionOverlaps t start len (otherRec r) = true) :
    judgeRegion t r start len = .refusedRecorder (otherRec r).val := by
  simp only [judgeRegion, hclip, hother, if_true]

end Judgement

section Regions

variable {s : State} {r : Rec} {rest : List RcuMsg}

/-- R137: a request that is refused leaves the records. -/
theorem execRegionRequest_refused {start len : Nat} {a : RegionAnswer}
    (hsent : s.mail.rcuToSst = .regionRequest r start len :: rest)
    (hjudged : judgeRegion s.sst r start len = a) (ha : a ≠ .granted) :
    exec .regionRequest s =
      .next { s with mail := { s.mail with rcuToSst := rest, regionAnswer := some a } } := by
  change execRegionRequest s = _
  simp only [execRegionRequest, hsent, hjudged, State.dropRcu, State.onMail, List.tail_cons]
  cases a with
  | granted => exact absurd rfl ha
  | refusedClip id => rfl
  | refusedRecorder q => rfl

theorem execRegionRequest_granted {start len : Nat}
    (hsent : s.mail.rcuToSst = .regionRequest r start len :: rest)
    (hjudged : judgeRegion s.sst r start len = .granted) :
    exec .regionRequest s = .next { s with
      sst := { s.sst with regions := updAt s.sst.regions r fun _ => some ⟨start, len, false⟩ }
      mail := { s.mail with rcuToSst := rest, regionAnswer := some .granted } } := by
  change execRegionRequest s = _
  simp only [execRegionRequest, hsent, hjudged, State.dropRcu, State.onMail, List.tail_cons,
    State.setRegion]

theorem execRegionRelease_taken (hsent : s.mail.rcuToSst = .regionRelease r :: rest) :
    exec .regionRelease s = .next { s with
      sst := { s.sst with regions := updAt s.sst.regions r fun _ => none }
      mail := { s.mail with rcuToSst := rest } } := by
  change execRegionRelease s = _
  simp only [execRegionRelease, hsent, State.dropRcu, State.onMail, List.tail_cons, State.setRegion]

theorem execRunningNotice_taken {on : Bool} (hsent : s.mail.rcuToSst = .running r on :: rest) :
    exec .runningNotice s = .next { s with
      sst := { s.sst with
        regions := updAt s.sst.regions r fun g => g.map fun x => { x with running := on } }
      mail := { s.mail with rcuToSst := rest } } := by
  change execRunningNotice s = _
  simp only [execRunningNotice, hsent, State.dropRcu, State.onMail, List.tail_cons, State.setRegion]

end Regions

theorem regionsAreRecorded : Piece.RegionsAreRecorded := by
  refine fun s r rest => ⟨fun start len hsent => ⟨fun id hid hbelow => ?clip, fun hclear =>
    ⟨fun g hg hoverlap => ?recorder, fun hapart => ?granted⟩⟩, execRegionRelease_taken,
    fun on => execRunningNotice_taken⟩
  case clip =>
    exact execRegionRequest_refused hsent (judgeRegion_clip (clipOverlapping_some hid hbelow)) nofun
  case recorder =>
    exact execRegionRequest_refused hsent (judgeRegion_recorder (clipOverlapping_none_iff.mpr hclear)
      (regionOverlaps_true hg hoverlap)) nofun
  case granted =>
    exact execRegionRequest_granted hsent (judgeRegion_granted_iff.mpr
      ⟨clipOverlapping_none_iff.mpr hclear, regionOverlaps_false_iff.mpr hapart⟩)

/-- Settles O41: each message is taken from the front, and a region request is answered as it is judged. -/
theorem holdsAndRegionsAreRecorded : Obligations.HoldsAndRegionsAreRecorded :=
  ⟨clipsAreHeldAndReleased, regionsAreRecorded⟩

end Sys2Proof.SampleStore
end

section
/-! SUPPORT. MEMORY WRITE and MEMORY READ (R132 to R134): their octets read back, the first protected address of a
run, and the outcome of each check. -/

namespace Sys2Proof.SampleStore

open Sys2Proof.Machine Sys2Proof.Laws Sys2Proof.AudioBlocks

/-! ## Octets (R194, R202) -/

/-- R194: a three-octet field is read back. -/
theorem field24_u24 {n : Nat} (hn : n < 16777216) (rest : List Byte) : field24 (u24 n ++ rest) 0 = n := by
  simp only [field24, field16, octAt, u24, u16, List.cons_append, List.nil_append, Nat.zero_add,
    List.getElem?_cons_zero, List.getElem?_cons_succ, Nat.reduceAdd, Option.getD_some, BitVec.toNat_ofNat]
  omega

/-- The octet behind a three-octet field. -/
theorem octAt_u24_cons (n : Nat) (b : Byte) : octAt (u24 n ++ [b]) 3 = b.toNat := rfl

theorem drop_u24 (n : Nat) (rest : List Byte) : (u24 n ++ rest).drop 3 = rest := rfl

/-- R194: three octets make up a sample word. -/
theorem word_of_octets (w : Sample) :
    (BitVec.ofNat 8 (w.toNat / 65536) ++ BitVec.ofNat 8 (w.toNat / 256) ++ BitVec.ofNat 8 w.toNat :
      BitVec 24) = w := by
  have hw := w.isLt
  refine BitVec.eq_of_toNat_eq ?_
  rw [BitVec.toNat_append, BitVec.toNat_append, BitVec.toNat_ofNat, BitVec.toNat_ofNat, BitVec.toNat_ofNat,
    ← Nat.shiftLeft_add_eq_or_of_lt (Nat.mod_lt _ (by decide)),
    ← Nat.shiftLeft_add_eq_or_of_lt (Nat.mod_lt _ (by decide)), Nat.shiftLeft_eq, Nat.shiftLeft_eq]
  omega

/-- R202: the words of a MEMORY WRITE are read back. -/
theorem wordsOf_octetsOfWords (ws : List Sample) : wordsOf (octetsOfWords ws) = ws := by
  induction ws with
  | nil => rfl
  | cons w ws ih =>
    change (_ ++ _ ++ _ : BitVec 24) :: wordsOf (octetsOfWords ws) = _
    rw [ih]
    exact congrArg (· :: ws) (word_of_octets w)

theorem countOctet_eq (n : Nat) : countOctet n = [if n = 128 then 0 else BitVec.ofNat 8 n] := by
  unfold countOctet
  split <;> rfl

/-! ## Protected addresses (R133) -/

section Protection

variable {t : SST} {a : Nat}

theorem heldClipAt_some {id : Fin 32} (hid : inHeldClip t a id)
    (hbelow : ∀ j, j < id → ¬inHeldClip t a j) : heldClipAt t a = some id := by
  refine find?_clipIds ?_ fun j hj => ?_
  · obtain ⟨c, hc, hheld, hlow, hhigh⟩ := hid
    simp only [hc, hheld, hlow, hhigh, decide_true, Bool.and_self]
  · have hfree := hbelow j hj
    simp only [inHeldClip, not_exists, not_and] at hfree
    split
    next c hc => simpa using hfree c hc
    next => rfl

theorem heldClipAt_none (hfree : ∀ id, ¬inHeldClip t a id) : heldClipAt t a = none := by
  refine List.find?_eq_none.mpr fun id _ => ?_
  have hid := hfree id
  simp only [inHeldClip, not_exists, not_and] at hid
  split
  next c hc => simpa using hid c hc
  next => nofun

theorem runningRegionAt_iff {r : Rec} : runningRegionAt t a r = true ↔ inRunningRegion t a r := by
  unfold runningRegionAt inRunningRegion
  split
  next g hg => simp [hg, and_assoc]
  next hg => simp [hg]

/-- R133: reason HELD and the lowest held clip. -/
theorem protectedAt_held {id : Fin 32} (hid : inHeldClip t a id)
    (hbelow : ∀ j, j < id → ¬inHeldClip t a j) :
    protectedAt t a = some (u24 a ++ [0, BitVec.ofNat 8 id.val]) := by
  simp only [protectedAt, heldClipAt_some hid hbelow]
  rfl

/-- R133: reason REGION and the lowest recorder, outside every held clip. -/
theorem protectedAt_region {r : Rec} (hfree : ∀ id, ¬inHeldClip t a id) (hr : inRunningRegion t a r)
    (hbelow : ∀ q, q < r → ¬inRunningRegion t a q) :
    protectedAt t a = some (u24 a ++ [1, BitVec.ofNat 8 r.val]) := by
  simp only [protectedAt, heldClipAt_none hfree]
  obtain rfl | rfl := rec_cases r
  · rw [if_pos (runningRegionAt_iff.mpr hr)]
    rfl
  · rw [if_neg (mt runningRegionAt_iff.mp (hbelow 0 (by decide))), if_pos (runningRegionAt_iff.mpr hr)]
    rfl

theorem protectedAt_none (hfree : ¬isProtected t a) : protectedAt t a = none := by
  simp only [isProtected, not_or, not_exists] at hfree
  obtain ⟨hclips, hregions⟩ := hfree
  simp only [protectedAt, heldClipAt_none hclips]
  rw [if_neg (mt runningRegionAt_iff.mp (hregions 0)), if_neg (mt runningRegionAt_iff.mp (hregions 1))]

/-- R133: the report of a run is that of its first protected address. -/
theorem inUseScan_some {start n : Nat} {report : List Byte} (hlow : start ≤ a) (hhigh : a < start + n)
    (hbefore : ∀ b, start ≤ b → b < a → ¬isProtected t b) (hreport : protectedAt t a = some report) :
    inUseScan t start n = some report := by
  obtain ⟨i, rfl⟩ := Nat.exists_eq_add_of_le hlow
  obtain ⟨before, after, hsplit⟩ := List.append_of_mem (List.mem_range.mpr (Nat.lt_of_add_lt_add_left hhigh))
  have hrising := List.pairwise_lt_range (n := n)
  rw [hsplit] at hrising
  obtain ⟨-, -, hcross⟩ := List.pairwise_append.mp hrising
  refine List.findSome?_eq_some_iff.mpr ⟨before, i, after, hsplit, hreport, fun j hj => ?_⟩
  exact protectedAt_none (hbefore _ (Nat.le_add_right _ _)
    (Nat.add_lt_add_left (hcross j hj i List.mem_cons_self) _))

theorem inUseScan_none {start n : Nat}
    (hfree : ∀ b, start ≤ b → b < start + n → ¬isProtected t b) : inUseScan t start n = none := by
  refine List.findSome?_eq_none_iff.mpr fun i hi => protectedAt_none ?_
  exact hfree _ (Nat.le_add_right _ _) (Nat.add_lt_add_left (List.mem_range.mp hi) _)

end Protection

/-! ## MEMORY WRITE (R132, R133) -/

section Write

variable {s s' : State} {req : Req} {start : Nat} {ws : List Sample}

/-- A request of the Sample Store leaves its blocks as they were when it is handed over. -/
theorem handed_sst {b : Block} (h : Handed b req s s') : s'.sst = s.sst := by
  rw [(handed_eq h).1]

/-- R132, R133: MEMORY WRITE, its fields read back. -/
theorem execMemoryWrite_taken (h : Handed .sst req s s') (hk : req.kind = .memoryWrite)
    (hstart : start < 16777216) (hbody : req.body = u24 start ++ octetsOfWords ws) :
    exec .memoryWrite s = .next (
      if 131071 < start then s'.badField .sst req 1
      else if 131072 < start + ws.length then s'.badField .sst req 2
      else (inUseScan s.sst start ws.length).elim
        (State.answer { s' with sst := { s.sst with mem := Memory.writeRun s.sst.mem start ws } } .sst req
          .ok (u24 start ++ countOctet ws.length))
        fun report => s'.answer .sst req .inUse report) := by
  refine congrArg Host.Outcome.next ((kindRequest_handed h hk _).trans ?_)
  dsimp only
  rw [hbody, field24_u24 hstart, drop_u24, wordsOf_octetsOfWords, handed_sst h]
  cases inUseScan s.sst start ws.length <;> rfl

end Write

/-! ## MEMORY READ (R134) -/

/-- R134: MEMORY READ, its fields read back. -/
theorem execMemoryRead_taken {s s' : State} {req : Req} {start n : Nat} (h : Handed .sst req s s')
    (hk : req.kind = .memoryRead) (hstart : start < 16777216) (hn : n < 256)
    (hbody : req.body = u24 start ++ [BitVec.ofNat 8 n]) :
    exec .memoryRead s = .next (
      if 131071 < start then s'.badField .sst req 1
      else if n = 0 ∨ 128 < n ∨ 131072 < start + n then s'.badField .sst req 2
      else s'.answer .sst req .ok (u24 start ++ countOctet n ++
        (List.range n).flatMap fun i => u24 (Memory.read s.sst.mem (start + i)).toNat)) := by
  refine congrArg Host.Outcome.next ((kindRequest_handed h hk _).trans ?_)
  dsimp only
  have hcount : octAt (u24 start ++ [BitVec.ofNat 8 n]) 3 = n := by
    rw [octAt_u24_cons, BitVec.toNat_ofNat]
    exact Nat.mod_eq_of_lt hn
  rw [hbody, field24_u24 hstart, hcount, handed_sst h, octetsOfWords, List.flatMap_map]
  rfl

/-- Settles O42: the checks stand in the order of the fields, and the scan answers for the first protected
address of the run. -/
theorem memoryRequestsAreTaken : Obligations.MemoryRequestsAreTaken := by
  refine fun s s' req start ws h => ⟨fun hk hstart hwords _ hbody => ?write,
    fun n hk hstart hn hbody => ?read⟩
  case write =>
    have htaken := execMemoryWrite_taken h hk hstart hbody
    refine ⟨fun hbad => ?_, fun hgood hbad => ?_, fun hend => ?_⟩
    · rw [htaken, if_pos hbad]
    · rw [htaken, if_neg (Nat.not_lt.mpr hgood), if_pos hbad]
    · rw [if_neg (by omega), if_neg (Nat.not_lt.mpr hend)] at htaken
      refine ⟨fun a hlow hhigh _ hbefore => ⟨fun id hid hbelow => ?_, fun r hfree hr hbelow => ?_⟩,
        fun hfree => ⟨Memory.writeRun s.sst.mem start ws, ?_, fun hwf b => read_writeRun hwf hend⟩⟩
      · rw [htaken, inUseScan_some hlow hhigh hbefore (protectedAt_held hid hbelow)]
        rfl
      · rw [htaken, inUseScan_some hlow hhigh hbefore (protectedAt_region hfree hr hbelow)]
        rfl
      · rw [htaken, inUseScan_none hfree, countOctet_eq]
        rfl
  case read =>
    have htaken := execMemoryRead_taken h hk hstart hn hbody
    refine ⟨fun hbad => ?_, fun hgood hbad => ?_, fun hlow hhigh hend => ?_⟩
    · rw [htaken, if_pos hbad]
    · rw [htaken, if_neg (Nat.not_lt.mpr hgood), if_pos hbad]
    · rw [htaken, if_neg (by omega), if_neg (by omega), countOctet_eq]

end Sys2Proof.SampleStore
end

section
/-! SUPPORT. CLIP DEFINE, CLIP DELETE and CLIP READ (R139 to R141): the field checks in order, and what each
request does past them. -/

namespace Sys2Proof.SampleStore

open Sys2Proof.Machine Sys2Proof.Laws Sys2Proof.AudioBlocks

/-! ## Fields (R135, R139) -/

theorem clipId_eq {b : List Byte} {id : Fin 32} (hid : octAt b 0 = id.val) : clipId b = id :=
  Fin.ext (by simp [clipId, hid])

section Fields

variable {b : List Byte}

theorem clipDefineBad_id (hid : 31 < octAt b 0) : clipDefineBad b = some 1 := if_pos hid

variable (hid : octAt b 0 ≤ 31)
include hid

theorem clipDefineBad_start (hstart : 131071 < field24 b 1) : clipDefineBad b = some 2 := by
  unfold clipDefineBad
  dsimp only
  rw [if_neg (Nat.not_lt.mpr hid), if_pos (show lastAddress < field24 b 1 from hstart)]

variable (hstart : field24 b 1 ≤ 131071)
include hstart

theorem clipDefineBad_len (hlen : field24 b 4 = 0 ∨ 131072 < field24 b 1 + field24 b 4) :
    clipDefineBad b = some 3 := by
  unfold clipDefineBad
  dsimp only
  rw [if_neg (Nat.not_lt.mpr hid), if_neg (Nat.not_lt.mpr (show field24 b 1 ≤ lastAddress from hstart))]
  exact if_pos hlen

variable (hlen : 1 ≤ field24 b 4) (hend : field24 b 1 + field24 b 4 ≤ 131072)
include hlen hend

/-- R139: with the range in order, mode and loop point decide. -/
theorem clipDefineBad_range : clipDefineBad b =
    if 1 < octAt b 7 then some 4
    else if (octAt b 7 = 1 ∧ field24 b 4 ≤ field24 b 8) ∨ (octAt b 7 = 0 ∧ field24 b 8 ≠ 0) then some 5
    else none := by
  have hrange : ¬(field24 b 4 = 0 ∨ Config.memoryWords < field24 b 1 + field24 b 4) :=
    not_or.mpr ⟨Nat.one_le_iff_ne_zero.mp hlen, Nat.not_lt.mpr hend⟩
  unfold clipDefineBad
  dsimp only
  rw [if_neg (Nat.not_lt.mpr hid), if_neg (Nat.not_lt.mpr (show field24 b 1 ≤ lastAddress from hstart)),
    if_neg hrange]

theorem clipDefineBad_mode (hmode : 1 < octAt b 7) : clipDefineBad b = some 4 := by
  rw [clipDefineBad_range hid hstart hlen hend, if_pos hmode]

theorem clipDefineBad_loop
    (hloop : (octAt b 7 = 1 ∧ field24 b 4 ≤ field24 b 8) ∨ (octAt b 7 = 0 ∧ field24 b 8 ≠ 0)) :
    clipDefineBad b = some 5 := by
  rw [clipDefineBad_range hid hstart hlen hend, if_neg (by omega), if_pos hloop]

theorem clipDefineBad_none
    (hloop : (octAt b 7 = 1 ∧ field24 b 8 < field24 b 4) ∨ (octAt b 7 = 0 ∧ field24 b 8 = 0)) :
    clipDefineBad b = none := by
  rw [clipDefineBad_range hid hstart hlen hend, if_neg (by omega), if_neg (by omega)]

end Fields

/-! ## The requests -/

section Requests

variable {s s' : State} {req : Req} (h : Handed .sst req s s')
include h

theorem execClipDefine_bad (hk : req.kind = .clipDefine) {field : Nat}
    (hbad : clipDefineBad req.body = some field) :
    exec .clipDefine s = .next (s'.badField .sst req field) := by
  refine congrArg Host.Outcome.next ((kindRequest_handed h hk _).trans ?_)
  simp only [hbad]

/-- R139: past the field checks, by the hold count and the regions. -/
theorem execClipDefine_good (hk : req.kind = .clipDefine) (hgood : clipDefineBad req.body = none)
    {id : Fin 32} (hid : octAt req.body 0 = id.val) :
    exec .clipDefine s = .next (
      if 0 < s.sst.holds[id] then s'.answer .sst req .inUse [0, BitVec.ofNat 8 s.sst.holds[id]]
      else if regionOverlaps s.sst (field24 req.body 1) (field24 req.body 4) 0 = true then
        s'.answer .sst req .inUse [1, 0]
      else if regionOverlaps s.sst (field24 req.body 1) (field24 req.body 4) 1 = true then
        s'.answer .sst req .inUse [1, 1]
      else
        State.answer
          { s' with
            sst :=
              { s.sst with clips := updAt s.sst.clips id fun _ => some (clipOfBody req.body) } }
          .sst req .ok [BitVec.ofNat 8 id.val, if s.sst.clips[id] = none then 0 else 1]) := by
  have hflag : uBool s.sst.clips[id].isSome = [if s.sst.clips[id] = none then 0 else 1] := by
    cases s.sst.clips[id] <;> rfl
  refine congrArg Host.Outcome.next ((kindRequest_handed h hk _).trans ?_)
  simp only [hgood, clipId_eq hid, handed_sst h, hflag, State.setClip]
  rfl

theorem execClipDelete_bad (hk : req.kind = .clipDelete) (hid : 31 < octAt req.body 0) :
    exec .clipDelete s = .next (s'.badField .sst req 1) := by
  refine congrArg Host.Outcome.next ((kindRequest_handed h hk _).trans ?_)
  simp only [hid, if_true]

/-- R140: an empty position, a held id, or the position emptied. -/
theorem execClipDelete_good (hk : req.kind = .clipDelete) {id : Fin 32}
    (hid : octAt req.body 0 = id.val) :
    exec .clipDelete s = .next (
      if s.sst.clips[id] = none then s'.answer .sst req .notFound []
      else if 0 < s.sst.holds[id] then
        s'.answer .sst req .inUse [0, BitVec.ofNat 8 s.sst.holds[id]]
      else
        State.answer { s' with sst := { s.sst with clips := updAt s.sst.clips id fun _ => none } } .sst req
          .ok [BitVec.ofNat 8 id.val]) := by
  refine congrArg Host.Outcome.next ((kindRequest_handed h hk _).trans ?_)
  have hrange : ¬31 < octAt req.body 0 := by omega
  simp only [hrange, if_false, clipId_eq hid, handed_sst h, State.setClip, Option.isNone_iff_eq_none]
  rfl

theorem execClipRead_bad (hk : req.kind = .clipRead) (hid : 31 < octAt req.body 0) :
    exec .clipRead s = .next (s'.badField .sst req 1) := by
  refine congrArg Host.Outcome.next ((kindRequest_handed h hk _).trans ?_)
  simp only [hid, if_true]

/-- R141: an empty position, or the record with its hold count. -/
theorem execClipRead_good (hk : req.kind = .clipRead) {id : Fin 32} (hid : octAt req.body 0 = id.val) :
    exec .clipRead s = .next (s.sst.clips[id].elim (s'.answer .sst req .notFound []) fun c =>
      s'.answer .sst req .ok (c.octets ++ u8 s.sst.holds[id])) := by
  refine congrArg Host.Outcome.next ((kindRequest_handed h hk _).trans ?_)
  have hrange : ¬31 < octAt req.body 0 := by omega
  simp only [hrange, if_false, clipId_eq hid, handed_sst h]
  cases s.sst.clips[id] <;> rfl

end Requests

/-- R141, R202: a clip record as CLIP READ returns it, with a flag for its loop point. -/
theorem clip_octets_eq (c : Clip) : c.octets =
    u24 c.start ++ u24 c.len ++ [if c.loop = none then 0 else 1] ++ u24 (c.loop.getD 0) := by
  unfold Clip.octets
  cases c.loop <;> rfl

theorem clipRequestsAreTaken : Piece.ClipRequestsAreTaken := by
  refine fun s s' req id h hid => ⟨fun hk => ?define, fun hk => ?delete, fun hk => ?read⟩
  case define =>
    have hrange : octAt req.body 0 ≤ 31 := by omega
    intro start len mode loop
    refine ⟨fun hbad => ?_, fun hstart hbad => ?_, fun hstart hlen hend =>
      ⟨fun hbad => ?_, fun hbad => ?_, fun hgood => ?_⟩⟩
    · exact execClipDefine_bad h hk (clipDefineBad_start hrange hbad)
    · exact execClipDefine_bad h hk (clipDefineBad_len hrange hstart hbad)
    · exact execClipDefine_bad h hk (clipDefineBad_mode hrange hstart hlen hend hbad)
    · exact execClipDefine_bad h hk (clipDefineBad_loop hrange hstart hlen hend hbad)
    · have htaken := execClipDefine_good h hk (clipDefineBad_none hrange hstart hlen hend hgood) hid
      refine ⟨fun hheld => ?_, fun hfree => ?_⟩
      · rw [htaken, if_pos hheld]
      · rw [if_neg (Nat.not_lt.mpr hfree.le)] at htaken
        refine ⟨fun r g hg hoverlap hbelow => ?_, fun hclear => ?_⟩
        · obtain rfl | rfl := rec_cases r
          · rw [htaken, if_pos (regionOverlaps_true hg hoverlap)]
            rfl
          · have hfirst : regionOverlaps s.sst start len 0 = false :=
              regionOverlaps_false_iff.mpr fun x hx => hbelow 0 x (by decide) hx
            rw [htaken, if_neg (Bool.eq_false_iff.mp hfirst), if_pos (regionOverlaps_true hg hoverlap)]
            rfl
        · have hnone (r : Rec) : ¬regionOverlaps s.sst start len r = true :=
            Bool.eq_false_iff.mp (regionOverlaps_false_iff.mpr (hclear r))
          rw [htaken, if_neg (hnone 0), if_neg (hnone 1)]
          rfl
  case delete =>
    have htaken := execClipDelete_good h hk hid
    refine ⟨fun hempty => ?_, fun hdefined => ⟨fun hheld => ?_, fun hfree => ?_⟩⟩
    · rw [htaken, if_pos hempty]
    · rw [htaken, if_neg hdefined, if_pos hheld]
    · rw [htaken, if_neg hdefined, if_neg (Nat.not_lt.mpr hfree.le)]
  case read =>
    have htaken := execClipRead_good h hk hid
    refine ⟨fun hempty => ?_, fun c hc => ?_⟩
    · rw [htaken, hempty]
      rfl
    · rw [htaken, hc, Option.elim_some, clip_octets_eq]
      rfl

theorem clipIdsAreChecked : Piece.ClipIdsAreChecked := by
  intro s s' req h hid ck hck hk
  simp only [List.mem_cons, List.not_mem_nil, or_false] at hck
  rcases hck with rfl | rfl | rfl
  · exact execClipDefine_bad h hk (clipDefineBad_id hid)
  · exact execClipDelete_bad h hk hid
  · exact execClipRead_bad h hk hid

/-- Settles O43: the first field out of range decides, and past the fields each request looks at the one position
it names and, for a definition, at the two regions. -/
theorem clipRequestsAndIds : Obligations.ClipRequestsAndIds := ⟨clipRequestsAreTaken, clipIdsAreChecked⟩

end Sys2Proof.SampleStore
end

section
/-! SUPPORT. Resets of the Player Bank and the Recorder Unit (R136, R164, R165): the releases and notices each of
them sends, in order, and what each leaves of a player and of a recorder. -/

namespace Sys2Proof.AudioResets

open Sys2Proof.Machine Sys2Proof.Laws Sys2Proof.AudioBlocks

/-! ## Taken and acknowledged (R177) -/

/-- R177: a block's oldest reset, carried out and acknowledged. -/
theorem withReset_acknowledged {s s' : State} {o : ResetOrder} {b : Block} (h : HandedReset o s s')
    (hb : o.block = b) (hack : o.ack = true) (f : ResetOrder → State → State) :
    s.withReset b f = (f o s').ackReset b := by
  have htaken := withReset_handed h f
  rwa [hb, if_pos hack] at htaken

/-! ## Recorders (R165) -/

/-- R165: a recorder after RESET ROUTING. -/
def routingReset (x : Recorder) : Recorder :=
  match x.state with
  | .running | .full => x.rewind .set
  | .idle | .set => x

/-- R138, R165: a stopped notice for each recorder that was RUNNING, recorder 0's first. -/
def stoppedNotices (v : Vector Recorder 2) : List RcuMsg :=
  [0, 1].flatMap fun r : Rec => if Recorder.state v[r] = .running then [.running r false] else []

theorem onRecorder_same {s : State} {r : Rec} {f : Recorder → Recorder}
    (h : f s.rcu.recorders[r] = s.rcu.recorders[r]) : s.onRecorder r f = s := by
  have hsame : updAt s.rcu.recorders r f = s.rcu.recorders :=
    (updAt_congr (g := fun x => x) h).trans (updAt_id _ _)
  simp only [State.onRecorder, hsame]

theorem routingResetRecorder_eq (s : State) (r : Rec) :
    s.routingResetRecorder r = (s.onRecorder r routingReset).toSstFromRcu
      (if Recorder.state s.rcu.recorders[r] = .running then [.running r false] else []) := by
  unfold State.routingResetRecorder
  split
  next hstate =>
    have hrewound : s.onRecorder r (fun x => x.rewind .set) = s.onRecorder r routingReset :=
      Recorders.onRecorder_congr (by simp only [routingReset, hstate])
    rw [if_pos hstate, hrewound]
  next hstate =>
    have hrewound : s.onRecorder r (fun x => x.rewind .set) = s.onRecorder r routingReset :=
      Recorders.onRecorder_congr (by simp only [routingReset, hstate])
    rw [if_neg (by rw [hstate]; nofun), toSstFromRcu_nil, hrewound]
  next hstate =>
    rw [if_neg (by rw [hstate]; nofun), toSstFromRcu_nil,
      onRecorder_same (by simp only [routingReset, hstate])]
  next hstate =>
    rw [if_neg (by rw [hstate]; nofun), toSstFromRcu_nil,
      onRecorder_same (by simp only [routingReset, hstate])]

/-- R165: both recorders after RESET ROUTING, with the stopped notices sent. -/
theorem routingReset_eq (s : State) :
    ∃ v : Vector Recorder 2,
      (s.routingResetRecorder 0).routingResetRecorder 1 = { s with
        rcu := { s.rcu with recorders := v }
        mail := { s.mail with rcuToSst := s.mail.rcuToSst ++ stoppedNotices s.rcu.recorders } } ∧
      ∀ r : Rec, v[r] = routingReset s.rcu.recorders[r] := by
  have hother : (s.routingResetRecorder 0).rcu.recorders[(1 : Rec)] = s.rcu.recorders[(1 : Rec)] := by
    rw [routingResetRecorder_eq]
    exact updAt_ne _ _ (by decide)
  refine ⟨updAt (updAt s.rcu.recorders 0 routingReset) 1 routingReset, ?_, fun r => ?_⟩
  · rw [routingResetRecorder_eq (s.routingResetRecorder 0), hother, routingResetRecorder_eq]
    simp only [State.toSstFromRcu, State.onMail, State.onRecorder, stoppedNotices, List.flatMap_cons,
      List.flatMap_nil, List.append_nil, List.append_assoc]
  · obtain rfl | rfl := rec_cases r
    · rw [updAt_ne _ _ (by decide), updAt_get, if_pos rfl]
    · rw [updAt_get, if_pos rfl, updAt_ne _ _ (by decide)]

theorem routingReset_kept {x : Recorder} (h : x.state ∈ [RecState.idle, .set]) : routingReset x = x := by
  simp only [List.mem_cons, List.not_mem_nil, or_false] at h
  rcases h with h | h <;> simp only [routingReset, h]

theorem routingReset_rewound {x : Recorder} {start len : Nat} (h : x.state ∈ [RecState.running, .full])
    (hregion : x.region = some (start, len)) :
    routingReset x = { x with state := .set, pos := start, wrapped := false } := by
  have hrewind : x.rewind .set = { x with state := .set, pos := start, wrapped := false } := by
    simp only [Recorder.rewind, hregion, Option.map_some, Option.getD_some]
  simp only [List.mem_cons, List.not_mem_nil, or_false] at h
  rcases h with h | h <;> simp only [routingReset, h, hrewind]

theorem holdsRegion_eq (u : RCU) (r : Rec) :
    u.holdsRegion r = ((Recorder.region u.recorders[r]).isSome || u.waiting.any (·.recorder == r)) := by
  unfold RCU.holdsRegion
  cases u.waiting <;> rfl

/-- Settles O51: each reset is taken, carried out as one change of its block and one run of messages, and
acknowledged. -/
theorem playersAndRecordersReset : Obligations.PlayersAndRecordersReset := by
  refine fun s s' o hack h => ⟨fun hb ⟨hreads, hanswers⟩ => ?players, fun hb => ?recorders⟩
  case players =>
    have htaken : exec .plbReset s = _ := (afterReads_none hreads hanswers _).trans
      (congrArg Host.Outcome.next (withReset_acknowledged h hb hack _))
    obtain ⟨rest, -, rfl⟩ := h
    exact ⟨_, htaken, ResetValues.replicate_get _, rfl, rfl⟩
  case recorders =>
    have htaken : exec .rcuReset s = _ :=
      congrArg Host.Outcome.next (withReset_acknowledged h hb hack _)
    obtain ⟨v, hdevice, hidle⟩ := deviceReset_eq s'
    obtain ⟨u, hrouting, hreset⟩ := routingReset_eq s'
    obtain ⟨rest, -, rfl⟩ := h
    refine ⟨_, htaken, ?_⟩
    cases hscope : o.scope with
    | device =>
      dsimp only
      rw [hdevice]
      refine ⟨rfl, rfl, fun _ => ⟨hidle, rfl, ?_⟩, nofun⟩
      simp only [ackReset_mail, releaseHeld, holdsRegion_eq]
      rfl
    | routing =>
      dsimp only
      rw [hrouting]
      refine ⟨rfl, rfl, nofun, fun _ => ⟨rfl, rfl, fun r =>
        ⟨fun hstate => ?_, fun start len hstate hregion => ?_⟩⟩⟩
      · exact (hreset r).trans (routingReset_kept hstate)
      · exact (hreset r).trans (routingReset_rewound hstate hregion)

end Sys2Proof.AudioResets
end

section
/-! SUPPORT. What the Player Bank does at a boundary and with a read's answer (R145, R146): one read for each
PLAYING player, and how a player stands after its word. -/

namespace Sys2Proof.PlayerFrames

open Sys2Proof.Machine Sys2Proof.Laws

/-! ## The boundary (R145) -/

section Boundary

variable {x : PlayerState} {h : QueuePlace} {behind : List QueuePlace}

theorem playing_of_place (hq : x.queue = h :: behind) : x.playing = true := by
  simp only [PlayerState.playing, hq, List.isEmpty_cons, Bool.not_false]

theorem playing_of_empty (hq : x.queue = []) : x.playing = false := by
  simp only [PlayerState.playing, hq, List.isEmpty_nil, Bool.not_true]

theorem idleWord_of_empty (hq : x.queue = []) : x.idleWord = some ⟨0, .idle⟩ := by
  simp only [PlayerState.idleWord, playing_of_empty hq, Bool.false_eq_true, if_false, Slot.silent]

theorem idleWord_of_place (hq : x.queue = h :: behind) : x.idleWord = none := by
  simp only [PlayerState.idleWord, playing_of_place hq, if_true]

theorem readOf_of_empty (hq : x.queue = []) (p : Player) (frame : Nat) : x.readOf p frame = none := by
  simp only [PlayerState.readOf, hq]

theorem readOf_of_place (hq : x.queue = h :: behind) (p : Player) (frame : Nat) :
    x.readOf p frame = some ⟨p, frame, h.clip.start + x.pos⟩ := by
  simp only [PlayerState.readOf, hq]

theorem readOf_player {p : Player} {frame : Nat} {r : PlayerRead} (hr : x.readOf p frame = some r) :
    r.player = p := by
  unfold PlayerState.readOf at hr
  split at hr
  · exact Option.some.inj hr ▸ rfl
  · cases hr

/-- R145: among the reads of a boundary, a player's own is the only one. -/
theorem reads_filter (b : PLB) (p : Player) :
    b.reads.filter (fun r => r.player == p) =
      (PlayerState.readOf b.players[p] p b.period).toList := by
  have hother {ps : List Player} (hps : p ∉ ps) :
      (ps.filterMap fun q => PlayerState.readOf b.players[q] q b.period).filter
        (fun r => r.player == p) = [] := by
    refine List.filter_eq_nil_iff.mpr fun r hr hrp => hps ?_
    obtain ⟨q, hq, hread⟩ := List.mem_filterMap.mp hr
    have hplayer : q = p := (readOf_player hread).symm.trans (eq_of_beq hrp)
    exact hplayer ▸ hq
  have hown : (PlayerState.readOf b.players[p] p b.period).toList.filter (fun r => r.player == p) =
      (PlayerState.readOf b.players[p] p b.period).toList :=
    List.filter_eq_self.mpr fun r hr => beq_iff_eq.mpr (readOf_player (Option.mem_toList.mp hr))
  obtain ⟨before, after, hsplit⟩ := List.append_of_mem (mem_allEight p)
  have hnodup := allEight_nodup
  rw [hsplit] at hnodup
  obtain ⟨-, hafter, hbefore⟩ := List.nodup_append.mp hnodup
  have hread : ([p].filterMap fun q => PlayerState.readOf b.players[q] q b.period) =
      (PlayerState.readOf b.players[p] p b.period).toList := by
    rw [List.filterMap_eq_flatMap_toList, List.flatMap_singleton]
  rw [PLB.reads, hsplit, List.append_cons, List.filterMap_append, List.filterMap_append,
    List.filter_append, List.filter_append, hread, hown,
    hother fun hmem => hbefore p hmem p List.mem_cons_self rfl, hother (List.nodup_cons.mp hafter).1, List.nil_append, List.append_nil]

theorem openPlbFrame_player (s : State) (p : Player) :
    s.openPlbFrame.plb.players[p] = PlayerState.openFrame s.plb.players[p] :=
  Vector.getElem_map _ p.isLt

theorem openPlbFrame_playerReads {s : State} (hreads : s.mail.playerReads = []) :
    s.openPlbFrame.mail.playerReads = s.plb.reads :=
  congrArg (· ++ s.plb.reads) hreads

end Boundary

/-- Settles O44: with no read outstanding the boundary is the frame opened, and its reads are those of the players,
one each. -/
theorem playerBoundaryPostsAndReads : Obligations.PlayerBoundaryPostsAndReads := by
  refine fun s hreads hanswers => ⟨s.openPlbFrame, _, afterReads_none hreads hanswers _, rfl, rfl, rfl,
    rfl, rfl, fun p => ?_⟩
  have hword : (s.plb.players.map PlayerState.idleWord)[p] = PlayerState.idleWord s.plb.players[p] :=
    Vector.getElem_map _ p.isLt
  have hown := reads_filter s.plb p
  rw [openPlbFrame_player, openPlbFrame_playerReads hreads]
  refine ⟨rfl, rfl, rfl, fun hidle => ⟨?_, fun r hr hrp => ?_⟩, fun h behind hq => ⟨?_, ?_, ?_⟩⟩
  · exact hword.trans (idleWord_of_empty hidle)
  · rw [readOf_of_empty hidle] at hown
    exact List.filter_eq_nil_iff.mp hown r hr (beq_iff_eq.mpr hrp)
  · exact hword.trans (idleWord_of_place hq)
  · exact playing_of_place hq
  · rw [hown, readOf_of_place hq]
    rfl

/-! ## The end of a clip (R146) -/

section Advance

variable {s : State} {p : Player} {x : PlayerState} {h : QueuePlace} {behind : List QueuePlace}

theorem onPlayer_get (s : State) (p : Player) (f : PlayerState → PlayerState) :
    (s.onPlayer p f).plb.players[p] = f s.plb.players[p] := updAt_same _ _ _

theorem onPlayer_congr {f g : PlayerState → PlayerState}
    (h : f s.plb.players[p] = g s.plb.players[p]) : s.onPlayer p f = s.onPlayer p g := by
  simp only [State.onPlayer, updAt_congr h]

theorem endOfClip_next (hbehind : behind ≠ []) :
    endOfClip x h behind = ({ x with queue := behind, pos := 0 }, true, false) := by
  cases behind with
  | nil => exact absurd rfl hbehind
  | cons => rfl

theorem endOfClip_loop {o : Nat} (hloop : h.clip.loop = some o) (hstop : x.stopAtEnd = false) :
    endOfClip x h [] = ({ x with pos := o }, false, false) := by
  simp only [endOfClip, hloop, hstop]

theorem endOfClip_done (hlast : h.clip.loop = none ∨ x.stopAtEnd = true) :
    endOfClip x h [] = (PlayerState.idle, true, true) := by
  rcases hlast with hnone | hstop
  · simp only [endOfClip, hnone]
  · cases hloop : h.clip.loop <;> simp only [endOfClip, hloop, hstop]

variable (hx : s.plb.players[p] = x) (hq : x.queue = h :: behind)
include hx hq

theorem advancePlayer_within (hpos : x.pos + 1 < h.clip.len) :
    s.advancePlayer p = s.onPlayer p fun _ => { x with pos := x.pos + 1 } := by
  have hstep : s.onPlayer p (fun y => { y with pos := y.pos + 1 }) =
      s.onPlayer p fun _ => { x with pos := x.pos + 1 } :=
    onPlayer_congr (congrArg (fun y : PlayerState => { y with pos := y.pos + 1 }) hx)
  rw [← hstep]
  simp only [State.advancePlayer, hx, hq, hpos, if_true]

/-- R146: a pass that is complete, by what the end of the clip leaves. -/
theorem advancePlayer_ends (hpos : h.clip.len ≤ x.pos + 1) {y : PlayerState} {removed idle : Bool}
    (hend : endOfClip x h behind = (y, removed, idle)) :
    s.advancePlayer p =
      (let t := s.onPlayer p fun _ => y
       let t := if removed then t.toSstFromPlb [.release h.id] else t
       if idle then t.report .plb .playerDone p.val h.id.val else t) := by
  simp only [State.advancePlayer, hx, hq, Nat.not_lt.mpr hpos, if_false, hend]

end Advance

theorem advancePlayer_cur (s : State) (p : Player) : (s.advancePlayer p).plb.cur = s.plb.cur := by
  unfold State.advancePlayer
  dsimp only
  split
  · rfl
  · split_ifs <;> rfl

theorem advancePlayer_other (s : State) {p i : Player} (hi : i ≠ p) :
    (s.advancePlayer p).plb.players[i] = s.plb.players[i] := by
  have hsame (f : PlayerState → PlayerState) : (updAt s.plb.players p f)[i] = s.plb.players[i] :=
    updAt_ne _ _ hi.symm
  unfold State.advancePlayer
  dsimp only
  split
  · rfl
  · split_ifs <;> exact hsame _

/-! ## The answer to a read (R145) -/

/-- R145: a read's answer taken: its word posted for its frame, and the player's read no longer outstanding. -/
def answerTaken (s : State) (p : Player) (a : ReadAnswer) (rest : List ReadAnswer) : State :=
  { s with
    plb :=
      { s.plb with
        players := updAt s.plb.players p fun x => { x with reading := false }
        cur := s.plb.cur.map (Posted.put a.frame p ⟨a.word, .live⟩)
        prev := s.plb.prev.map (Posted.put a.frame p ⟨a.word, .live⟩) }
    mail := { s.mail with readAnswers := rest } }

section Answer

variable {s : State} {p : Player} {a : ReadAnswer} {rest : List ReadAnswer}

theorem takeReadAnswer_taken (ho : Oldest (fun x => x.player == p) s.mail.readAnswers a rest)
    (hreading : PlayerState.reading s.plb.players[p] = true) :
    s.takeReadAnswer p = (answerTaken s p a rest).advancePlayer p := by
  unfold State.takeReadAnswer
  rw [takeFirst_eq_some.mpr ho]
  exact if_pos hreading

theorem answerTaken_player (s : State) (p : Player) (a : ReadAnswer) (rest : List ReadAnswer) :
    (answerTaken s p a rest).plb.players[p] = { s.plb.players[p] with reading := false } :=
  updAt_same _ _ _

theorem answerTaken_other {i : Player} (hi : i ≠ p) :
    (answerTaken s p a rest).plb.players[i] = s.plb.players[i] :=
  updAt_ne _ _ hi.symm

theorem answerTaken_cur {q : Posted} (hcur : s.plb.cur = some q) (hframe : q.frame = a.frame) :
    (answerTaken s p a rest).plb.cur =
      some { q with words := updAt q.words p fun _ => some ⟨a.word, .live⟩ } := by
  simp only [answerTaken, hcur, Option.map_some, Posted.put, hframe, if_true]

end Answer

/-- Settles O45: the word goes into the frame's words, and the player then advances inside its clip or takes one of
the three ends of it. -/
theorem readAnswerAdvancesThePlayer : Obligations.ReadAnswerAdvancesThePlayer := by
  intro s p a rest q h behind ho hcur hframe hreading hq x
  have htaken : exec (.playerReadAnswer p) s = .next ((answerTaken s p a rest).advancePlayer p) :=
    congrArg Host.Outcome.next (takeReadAnswer_taken ho hreading)
  have hplayer := answerTaken_player s p a rest
  refine ⟨_, _, htaken, (advancePlayer_cur _ p).trans (answerTaken_cur hcur hframe), updAt_same _ _ _,
    fun i hi => updAt_ne _ _ hi.symm, fun i hi => (advancePlayer_other _ hi).trans (answerTaken_other hi),
    fun hpos => ?within, fun hpos hbehind => ?next, fun hpos hbehind => ?last⟩
  case within =>
    rw [advancePlayer_within hplayer hq hpos]
    exact ⟨onPlayer_get _ _ _, rfl⟩
  case next =>
    rw [advancePlayer_ends hplayer hq hpos (endOfClip_next hbehind)]
    exact ⟨onPlayer_get _ _ _, rfl⟩
  case last =>
    subst hbehind
    refine ⟨fun o hloop hstop => ?_, fun hlast => ?_⟩
    · rw [advancePlayer_ends hplayer hq hpos (endOfClip_loop hloop hstop)]
      exact ⟨onPlayer_get _ _ _, rfl⟩
    · rw [advancePlayer_ends hplayer hq hpos (endOfClip_done hlast)]
      exact ⟨onPlayer_get _ _ _, rfl⟩

end Sys2Proof.PlayerFrames
end

section
/-! SUPPORT. The requests of the Player Bank (R147 to R155): their field checks, PLAY from its hold request to its
place, STOP and PLAYER STATUS. -/

namespace Sys2Proof.PlayerRequests

open Sys2Proof.Machine Sys2Proof.Laws

/-! ## Requests taken -/

theorem handed_plb {b : Block} {req : Req} {s s' : State} (h : Handed b req s s') : s'.plb = s.plb := by
  obtain ⟨rest, -, rfl⟩ := h
  rfl

theorem isKind_of_kind {req : Req} {k : RequestKind} (hk : req.kind = k) : isKind k req = true :=
  beq_iff_eq.mpr hk

theorem linkOf_eq {n : Nat} {p : Player} (hp : n = p.val) : linkOf n = p := by
  rw [hp, Indicators.linkOf_val]

/-- R147: a request of the Player Bank with no read and no hold outstanding. -/
theorem playerRequest_taken {s s' : State} {req : Req} (hreads : NoReadOutstanding s)
    (h : Handed .plb req s s') (hfree : s.plb.waiting = none) {which : Req → Bool}
    (hk : which req = true) (f : Req → State → State) :
    (s.afterReads fun s => s.plbRequest which f) = .next (f req s') := by
  obtain ⟨hplayerReads, hanswers⟩ := hreads
  rw [afterReads_none hplayerReads hanswers, plbRequest_handed h hfree hk]

/-! ## The field checks (R148, R152) -/

section Fields

variable {b : List Byte}

theorem playBad_player (hp : 7 < octAt b 0) : playBad b = some 1 := if_pos hp

theorem playBad_clip (hp : octAt b 0 ≤ 7) (hc : 31 < octAt b 1) : playBad b = some 2 := by
  rw [playBad, if_neg (Nat.not_lt.mpr hp), if_pos hc]

theorem playBad_good (hp : octAt b 0 ≤ 7) (hc : octAt b 1 ≤ 31) :
    playBad b = if 1 < octAt b 2 then some 3 else none := by
  rw [playBad, if_neg (Nat.not_lt.mpr hp), if_neg (Nat.not_lt.mpr hc)]

theorem stopBad_player (hp : 7 < octAt b 0) : stopBad b = some 1 := if_pos hp

theorem stopBad_good (hp : octAt b 0 ≤ 7) : stopBad b = if 1 < octAt b 1 then some 2 else none := by
  rw [stopBad, if_neg (Nat.not_lt.mpr hp)]

end Fields

/-! ## PLAY asks for its hold (R147, R148) -/

section Play

variable {s s' : State} {req : Req} (hreads : NoReadOutstanding s) (h : Handed .plb req s s')
  (hfree : s.plb.waiting = none) (hk : req.kind = .play)

theorem isPlayNext_of_mode (hk : req.kind = .play) (hm : octAt req.body 2 = 1) :
    isPlayNext req = true := by
  simp [isPlayNext, isKind_of_kind hk, hm]

theorem isPlayNow_of_mode (hk : req.kind = .play) (hm : octAt req.body 2 ≠ 1) :
    (isKind .play req && !isPlayNext req) = true := by
  simp [isPlayNext, isKind_of_kind hk, hm]

theorem askHold_eq (h : Handed .plb req s s') {p : Player} {id : Fin 32}
    (hp : octAt req.body 0 = p.val) (hid : octAt req.body 1 = id.val) (next : Bool) :
    s'.askHold req next = { s with
      plb := { s.plb with waiting := some ⟨req, p, id, next, false⟩ }
      mail := { s'.mail with plbToSst := s.mail.plbToSst ++ [.hold id] } } := by
  have hclip : Fin.ofNat 32 (octAt req.body 1) = id := by rw [hid, Fin.ofNat_val_eq_self]
  obtain ⟨rest, -, rfl⟩ := h
  simp only [State.askHold, hclip, linkOf_eq hp]
  rfl

include hreads h hfree hk

theorem execPlayNow_bad (hm : octAt req.body 2 ≠ 1) {field : Nat} (hbad : playBad req.body = some field) :
    exec .playNow s = .next (s'.badField .plb req field) := by
  refine (playerRequest_taken hreads h hfree (isPlayNow_of_mode hk hm) _).trans ?_
  simp only [hbad]

theorem execPlayNow_asks (hm : octAt req.body 2 ≠ 1) (hgood : playBad req.body = none) :
    exec .playNow s = .next (s'.askHold req false) := by
  refine (playerRequest_taken hreads h hfree (isPlayNow_of_mode hk hm) _).trans ?_
  simp only [hgood]

theorem execPlayNext_bad (hm : octAt req.body 2 = 1) {field : Nat} (hbad : playBad req.body = some field) :
    exec .playNext s = .next (s'.badField .plb req field) := by
  refine (playerRequest_taken hreads h hfree (isPlayNext_of_mode hk hm) _).trans ?_
  simp only [hbad]

/-- R148: a NEXT past its field checks, by its player. -/
theorem execPlayNext_good (hm : octAt req.body 2 = 1) (hgood : playBad req.body = none) {p : Player}
    (hp : octAt req.body 0 = p.val) :
    exec .playNext s = .next (
      if PlayerState.stopAtEnd s.plb.players[p] = true then s'.answer .plb req .state []
      else if 4 ≤ (PlayerState.queue s.plb.players[p]).length then s'.answer .plb req .noSpace []
      else s'.askHold req true) := by
  refine (playerRequest_taken hreads h hfree (isPlayNext_of_mode hk hm) _).trans ?_
  simp only [hgood, linkOf_eq hp, handed_plb h]

end Play

theorem playAsksForItsHold : Piece.PlayAsksForItsHold := by
  intro s s' req x c m hreads h hfree hk hbody
  have hplayer : octAt req.body 0 = x.toNat := by rw [hbody]; rfl
  have hclip : octAt req.body 1 = c.toNat := by rw [hbody]; rfl
  have hmode : octAt req.body 2 = m.toNat := by rw [hbody]; rfl
  have hnext : m = 1 → octAt req.body 2 = 1 := fun hm => by rw [hmode, hm]; rfl
  have hnow : m ≠ 1 → octAt req.body 2 ≠ 1 := fun hm hone =>
    hm (BitVec.eq_of_toNat_eq (hmode.symm.trans hone))
  rw [← hplayer, ← hclip, ← hmode]
  refine ⟨fun hm => ⟨fun hp => ?_, fun hp hc => ?_, fun hp hc hbad => ?_⟩,
    fun hm => ⟨fun hp => ?_, fun hp hc => ?_⟩, fun p id hp hid => ?good⟩
  · exact execPlayNow_bad hreads h hfree hk (hnow hm) (playBad_player hp)
  · exact execPlayNow_bad hreads h hfree hk (hnow hm) (playBad_clip hp hc)
  · exact execPlayNow_bad hreads h hfree hk (hnow hm) ((playBad_good hp hc).trans (if_pos hbad))
  · exact execPlayNext_bad hreads h hfree hk (hnext hm) (playBad_player hp)
  · exact execPlayNext_bad hreads h hfree hk (hnext hm) (playBad_clip hp hc)
  case good =>
    have hgood (hm : octAt req.body 2 ≤ 1) : playBad req.body = none :=
      (playBad_good (by omega) (by omega)).trans (if_neg (Nat.not_lt.mpr hm))
    refine ⟨fun hm => ?_, fun hm => ?_⟩
    · have hzero : octAt req.body 2 = 0 := by rw [hmode, hm]; rfl
      rw [execPlayNow_asks hreads h hfree hk (by omega) (hgood (by omega)), askHold_eq h hp hid]
    · have htaken := execPlayNext_good hreads h hfree hk (hnext hm) (hgood (hnext hm).le) hp
      refine ⟨fun hstop => ?_, fun hgoes => ⟨fun hfull => ?_, fun hroom => ?_⟩⟩
      · rw [htaken, if_pos hstop]
      · rw [htaken, if_neg (Bool.eq_false_iff.mp hgoes), if_pos hfull]
      · rw [htaken, if_neg (Bool.eq_false_iff.mp hgoes), if_neg (Nat.not_le.mpr hroom),
          askHold_eq h hp hid]

/-! ## The answer places the clip (R148 to R150, R164) -/

section Place

variable {s : State} {w : PlayWait}

/-- R149: NOW replaces the queue, and every place removed is released. -/
theorem place_now (hnow : w.next = false) (c : Clip) :
    s.place w c =
      ((s.onPlayer w.player fun _ => ⟨[⟨w.clip, c⟩], 0, false, false⟩).toSstFromPlb
        (releases (PlayerState.queue s.plb.players[w.player]))).answer .plb w.req .ok
          [BitVec.ofNat 8 w.player.val, 1, 1] := by
  simp only [State.place, hnow, Bool.false_eq_true, if_false]
  rfl

/-- R150: NEXT appends a place. -/
theorem place_next (hnext : w.next = true) (c : Clip) :
    s.place w c =
      (s.onPlayer w.player fun y => { y with queue := y.queue ++ [⟨w.clip, c⟩] }).answer .plb w.req .ok
        [BitVec.ofNat 8 w.player.val,
          BitVec.ofNat 8 ((PlayerState.queue s.plb.players[w.player]).length + 1),
          BitVec.ofNat 8 ((PlayerState.queue s.plb.players[w.player]).length + 1)] := by
  have happended : s.onPlayer w.player (fun y =>
        { y with queue := PlayerState.queue s.plb.players[w.player] ++ [⟨w.clip, c⟩] }) =
      s.onPlayer w.player fun y => { y with queue := y.queue ++ [⟨w.clip, c⟩] } :=
    PlayerFrames.onPlayer_congr rfl
  simp only [State.place, hnext, if_true, happended, List.length_append, List.length_singleton]
  rfl

/-- R148, R164: an answer taken, by whether it grants the hold and whether its PLAY was aborted. -/
theorem takeHoldAnswer_eq {granted : Option Clip} (hw : s.plb.waiting = some w)
    (hanswer : s.mail.holdAnswer = some granted) :
    let s' := { s with
      plb := { s.plb with waiting := none }, mail := { s.mail with holdAnswer := none } }
    s.takeHoldAnswer =
      if w.aborted = true then
        granted.elim (s'.answer .plb w.req .aborted []) fun _ =>
          (s'.toSstFromPlb [.release w.clip]).answer .plb w.req .aborted []
      else granted.elim (s'.answer .plb w.req .notFound []) fun c => s'.place w c := by
  simp only [State.takeHoldAnswer, hw, hanswer]
  cases granted <;> cases w.aborted <;> rfl

end Place

theorem holdAnswerPlacesTheClip : Piece.HoldAnswerPlacesTheClip := by
  intro s w granted ⟨hplayerReads, hanswers⟩ hw hanswer s' x
  have htaken : exec .holdAnswer s = .next s.takeHoldAnswer :=
    afterReads_none hplayerReads hanswers _
  rw [takeHoldAnswer_eq hw hanswer] at htaken
  refine ⟨fun haborted => ?aborted, fun hlive => ?live⟩
  case aborted =>
    rw [if_pos haborted] at htaken
    refine ⟨fun hnone => ?_, fun hsome => ?_⟩
    · rw [htaken, hnone]
      rfl
    · obtain ⟨c, rfl⟩ := Option.ne_none_iff_exists'.mp hsome
      exact htaken
  case live =>
    rw [if_neg (Bool.eq_false_iff.mp hlive)] at htaken
    refine ⟨fun hnone => ?_, fun c hc => ⟨fun hnow => ?_, fun hnext => ?_⟩⟩
    · rw [htaken, hnone]
      rfl
    · rw [htaken, hc, Option.elim_some, place_now hnow]
      rfl
    · rw [htaken, hc, Option.elim_some, place_next hnext]
      rfl

/-- Settles O46: the first field out of range decides, then the player; and the answer is one of four, by the grant
and the abort. -/
theorem playIsAskedAndPlaced : Obligations.PlayIsAskedAndPlaced :=
  ⟨playAsksForItsHold, holdAnswerPlacesTheClip⟩

/-! ## STOP and PLAYER STATUS (R152, R153, R155) -/

section Stopped

variable {s : State} {p : Player} {h : QueuePlace} {behind : List QueuePlace}

theorem stopNow_idle (hq : PlayerState.queue s.plb.players[p] = []) : s.stopNow p = s := by
  simp only [State.stopNow, hq]

theorem stopNow_playing (hq : PlayerState.queue s.plb.players[p] = h :: behind) :
    s.stopNow p = ((s.onPlayer p fun _ => PlayerState.idle).toSstFromPlb
      (releases (PlayerState.queue s.plb.players[p]))).report .plb .playerDone p.val (256 + h.id.val) := by
  simp only [State.stopNow, hq]

theorem stopEnd_idle (hq : PlayerState.queue s.plb.players[p] = []) : s.stopEnd p = s := by
  simp only [State.stopEnd, hq]

theorem stopEnd_playing (hq : PlayerState.queue s.plb.players[p] = h :: behind) :
    s.stopEnd p = (s.onPlayer p fun y => { y with queue := [h], stopAtEnd := true }).toSstFromPlb
      (releases behind) := by
  simp only [State.stopEnd, hq]

end Stopped

/-- R155, R202: the four clip ids of PLAYER STATUS, 255 where there is no place. -/
theorem take_four_padded {α : Type} {xs : List α} (hlen : xs.length ≤ 4) (a : α) :
    (xs ++ [a, a, a, a]).take 4 = xs ++ List.replicate (4 - xs.length) a := by
  rw [List.take_append, List.take_of_length_le hlen,
    show [a, a, a, a] = List.replicate 4 a from rfl, List.take_replicate,
    Nat.min_eq_left (Nat.sub_le _ _)]

theorem octets_eq {x : PlayerState} (hlen : x.queue.length ≤ 4) :
    x.octets = [if x.queue = [] then 0 else 1, BitVec.ofNat 8 x.queue.length] ++
      x.queue.map (fun q => BitVec.ofNat 8 q.id.val) ++
      List.replicate (4 - x.queue.length) 255 ++ u24 x.pos ++ [if x.stopAtEnd then 1 else 0] := by
  have hplaying : uBool x.playing = [if x.queue = [] then 0 else 1] := by
    unfold PlayerState.playing
    cases x.queue <;> rfl
  have hstop : uBool x.stopAtEnd = [if x.stopAtEnd then 1 else 0] := by
    cases x.stopAtEnd <;> rfl
  rw [PlayerState.octets, take_four_padded (by rwa [List.length_map]), hplaying, hstop,
    List.length_map]
  simp only [u8, List.append_assoc, List.cons_append, List.nil_append]

section Stop

variable {s s' : State} {req : Req} (hreads : NoReadOutstanding s) (h : Handed .plb req s s')
  (hfree : s.plb.waiting = none)

theorem isStopEnd_of_mode (hk : req.kind = .stop) (hm : octAt req.body 1 = 1) : isStopEnd req = true := by
  simp [isStopEnd, isKind_of_kind hk, hm]

theorem isStopNow_of_mode (hk : req.kind = .stop) (hm : octAt req.body 1 ≠ 1) :
    (isKind .stop req && !isStopEnd req) = true := by
  simp [isStopEnd, isKind_of_kind hk, hm]

include hreads h hfree

theorem execStopNow_bad (hk : req.kind = .stop) (hm : octAt req.body 1 ≠ 1) {field : Nat}
    (hbad : stopBad req.body = some field) :
    exec .stopNow s = .next (s'.badField .plb req field) := by
  refine (playerRequest_taken hreads h hfree (isStopNow_of_mode hk hm) _).trans ?_
  simp only [hbad]

theorem execStopNow_good (hk : req.kind = .stop) (hm : octAt req.body 1 = 0) {p : Player}
    (hp : octAt req.body 0 = p.val) :
    exec .stopNow s = .next ((s'.stopNow p).answer .plb req .ok [BitVec.ofNat 8 p.val]) := by
  have hgood : stopBad req.body = none := (stopBad_good (by omega)).trans (if_neg (by omega))
  refine (playerRequest_taken hreads h hfree (isStopNow_of_mode hk (by omega)) _).trans ?_
  simp only [hgood, linkOf_eq hp]
  rfl

theorem execStopEnd_bad (hk : req.kind = .stop) (hm : octAt req.body 1 = 1) {field : Nat}
    (hbad : stopBad req.body = some field) :
    exec .stopEnd s = .next (s'.badField .plb req field) := by
  refine (playerRequest_taken hreads h hfree (isStopEnd_of_mode hk hm) _).trans ?_
  simp only [hbad]

theorem execStopEnd_good (hk : req.kind = .stop) (hm : octAt req.body 1 = 1) {p : Player}
    (hp : octAt req.body 0 = p.val) :
    exec .stopEnd s = .next ((s'.stopEnd p).answer .plb req .ok [BitVec.ofNat 8 p.val]) := by
  have hgood : stopBad req.body = none := (stopBad_good (by omega)).trans (if_neg (by omega))
  refine (playerRequest_taken hreads h hfree (isStopEnd_of_mode hk hm) _).trans ?_
  simp only [hgood, linkOf_eq hp]
  rfl

theorem execPlayerStatus_bad (hk : req.kind = .playerStatus) (hp : 7 < octAt req.body 0) :
    exec .playerStatus s = .next (s'.badField .plb req 1) :=
  (playerRequest_taken hreads h hfree (isKind_of_kind hk) _).trans
    (congrArg Host.Outcome.next (if_pos hp))

theorem execPlayerStatus_good (hk : req.kind = .playerStatus) {p : Player}
    (hp : octAt req.body 0 = p.val) :
    exec .playerStatus s =
      .next (s'.answer .plb req .ok (PlayerState.octets s.plb.players[p])) := by
  refine (playerRequest_taken hreads h hfree (isKind_of_kind hk) _).trans ?_
  simp only [if_neg (show ¬7 < octAt req.body 0 by omega), linkOf_eq hp, handed_plb h]

end Stop

theorem stopAndStatusAreTaken : Piece.StopAndStatusAreTaken := by
  intro s s' req p hreads h hfree hp x
  have hplayer : s'.plb.players[p] = x := by rw [handed_plb h]
  refine ⟨fun hk hm => ?now, fun hk hm => ?atEnd, fun hk hm => ?mode, fun hk hlen => ?status⟩
  case now =>
    rw [execStopNow_good hreads h hfree hk hm hp]
    refine ⟨fun hidle => ?_, fun k behind hq => ?_⟩
    · rw [stopNow_idle (hplayer ▸ hidle)]
    · rw [stopNow_playing (hplayer ▸ hq)]
      obtain ⟨rest, -, rfl⟩ := h
      rfl
  case atEnd =>
    rw [execStopEnd_good hreads h hfree hk hm hp]
    refine ⟨fun hidle => ?_, fun k behind hq => ?_⟩
    · rw [stopEnd_idle (hplayer ▸ hidle)]
    · rw [stopEnd_playing (hplayer ▸ hq)]
      obtain ⟨rest, -, rfl⟩ := h
      rfl
  case mode =>
    exact execStopNow_bad hreads h hfree hk (by omega) ((stopBad_good (by omega)).trans (if_pos hm))
  case status =>
    rw [execPlayerStatus_good hreads h hfree hk hp, octets_eq hlen]

theorem playerNumbersAreChecked : Piece.PlayerNumbersAreChecked := fun _ _ _ hreads h hfree hp =>
  ⟨fun hk hm => execStopNow_bad hreads h hfree hk hm (stopBad_player hp),
    fun hk hm => execStopEnd_bad hreads h hfree hk hm (stopBad_player hp),
    fun hk => execPlayerStatus_bad hreads h hfree hk hp⟩

/-- Settles O47: each request past its field checks looks at the one player it names, IDLE or PLAYING. -/
theorem stopAndPlayerStatus : Obligations.StopAndPlayerStatus :=
  ⟨stopAndStatusAreTaken, playerNumbersAreChecked⟩

end Sys2Proof.PlayerRequests
end

section
/-! SUPPORT. The requests of the Recorder Unit (R158 to R163): RECORD SETUP with the answer to its region request,
RECORD START and RECORD STOP by the recorder's state, RECORDER STATUS. -/

namespace Sys2Proof.RecorderRequests

open Sys2Proof.Machine Sys2Proof.Laws

/-! ## The field checks (R159) -/

theorem recOf_eq {n : Nat} {r : Rec} (hr : n = r.val) : recOf n = r := by
  rw [hr]
  exact Fin.ofNat_val_eq_self r

theorem handed_rcu {b : Block} {req : Req} {s s' : State} (h : Handed b req s s') : s'.rcu = s.rcu := by
  obtain ⟨rest, -, rfl⟩ := h
  rfl

section Fields

variable {b : List Byte}

theorem setupBad_recorder (hr : 1 < octAt b 0) : setupBad b = some 1 := if_pos hr

variable (hr : octAt b 0 ≤ 1)
include hr

theorem setupBad_start (hstart : 131071 < field24 b 1) : setupBad b = some 2 := by
  rw [setupBad, if_neg (Nat.not_lt.mpr hr), if_pos (show Config.memoryWords ≤ field24 b 1 from hstart)]

variable (hstart : field24 b 1 ≤ 131071)
include hstart

/-- R159: with recorder and start in order, the length and the mode decide. -/
theorem setupBad_range : setupBad b =
    if field24 b 4 < 64 ∨ 131072 < field24 b 1 + field24 b 4 then some 3
    else if 1 < octAt b 7 then some 4 else none := by
  have hexists : ¬Config.memoryWords ≤ field24 b 1 :=
    Nat.not_le.mpr (Nat.lt_succ_of_le hstart)
  rw [setupBad, if_neg (Nat.not_lt.mpr hr), if_neg hexists]
  rfl

theorem setupBad_len (hlen : field24 b 4 < 64 ∨ 131072 < field24 b 1 + field24 b 4) :
    setupBad b = some 3 :=
  (setupBad_range hr hstart).trans (if_pos hlen)

theorem setupBad_mode (hlen : 64 ≤ field24 b 4) (hend : field24 b 1 + field24 b 4 ≤ 131072) :
    setupBad b = if 1 < octAt b 7 then some 4 else none :=
  (setupBad_range hr hstart).trans (if_neg (by omega))

end Fields

/-! ## RECORD SETUP and its region (R158, R159, R165) -/

section Setup

variable {s s' : State} {req : Req} (h : Handed .rcu req s s') (hfree : s.rcu.waiting = none)
  (hk : req.kind = .recordSetup)
include h hfree hk

theorem execRecordSetup_bad {field : Nat} (hbad : setupBad req.body = some field) :
    exec .recordSetup s = .next (s'.badField .rcu req field) := by
  refine congrArg Host.Outcome.next ((rcuRequest_handed h hfree hk _).trans ?_)
  simp only [hbad]

/-- R159: past the field checks, a recorder that is not RUNNING asks for its region. -/
theorem execRecordSetup_good (hgood : setupBad req.body = none) {r : Rec}
    (hr : octAt req.body 0 = r.val) :
    exec .recordSetup s = .next (
      if Recorder.state s.rcu.recorders[r] = .running then s'.answer .rcu req .state []
      else { s with
        rcu :=
          { s.rcu with
            waiting := some ⟨req, r, field24 req.body 1, field24 req.body 4, octAt req.body 7 == 1,
              false⟩ }
        mail :=
          { s'.mail with
            rcuToSst := s.mail.rcuToSst ++
              [.regionRequest r (field24 req.body 1) (field24 req.body 4)] } }) := by
  refine congrArg Host.Outcome.next ((rcuRequest_handed h hfree hk _).trans ?_)
  obtain ⟨rest, -, rfl⟩ := h
  simp only [hgood, recOf_eq hr]
  rfl

end Setup

/-- Settles O49: the first field out of range decides, then the recorder's state; and the answer is taken by the
abort and then by the judgement of the Sample Store. -/
theorem recordSetupAsksForItsRegion : Obligations.RecordSetupAsksForItsRegion := by
  refine fun s => ⟨fun s' req h hfree hk => ?request, fun w a hw hanswer => ?answer⟩
  case request =>
    intro start len mode
    refine ⟨fun hbad => execRecordSetup_bad h hfree hk (setupBad_recorder hbad), fun r hr => ?_⟩
    have hrec : octAt req.body 0 ≤ 1 := by omega
    refine ⟨fun hbad => ?_, fun hstart hbad => ?_, fun hstart hlen hend => ⟨fun hbad => ?_, fun hmode => ?_⟩⟩
    · exact execRecordSetup_bad h hfree hk (setupBad_start hrec hbad)
    · exact execRecordSetup_bad h hfree hk (setupBad_len hrec hstart hbad)
    · exact execRecordSetup_bad h hfree hk ((setupBad_mode hrec hstart hlen hend).trans (if_pos hbad))
    · have hgood : setupBad req.body = none :=
        (setupBad_mode hrec hstart hlen hend).trans (if_neg (Nat.not_lt.mpr hmode))
      have htaken := execRecordSetup_good h hfree hk hgood hr
      exact ⟨fun hrunning => htaken.trans (congrArg Host.Outcome.next (if_pos hrunning)),
        fun hstopped => htaken.trans (congrArg Host.Outcome.next (if_neg hstopped))⟩
  case answer =>
    intro s'
    have htaken : exec .regionAnswer s = execRegionAnswer s := rfl
    simp only [execRegionAnswer, hw, hanswer] at htaken
    refine ⟨fun haborted => htaken.trans (if_pos haborted), fun hlive => ?_⟩
    have hjudged := htaken.trans (if_neg (Bool.eq_false_iff.mp hlive))
    refine ⟨fun id ha => ?_, fun q ha => ?_, fun ha => ?_⟩
    all_goals
      subst ha
      exact hjudged

/-! ## RECORD START, RECORD STOP and RECORDER STATUS (R160, R161, R163) -/

section ByState

variable {s : State} {r : Rec}

/-- R160: SET and FULL recorders start at their region's start, whatever the position. -/
theorem recordStart_rewinds (req : Req)
    (hstate : Recorder.state s.rcu.recorders[r] = .set ∨ Recorder.state s.rcu.recorders[r] = .full)
    {start len : Nat} (hregion : Recorder.region s.rcu.recorders[r] = some (start, len)) :
    s.recordStart req r =
      ((s.onRecorder r fun y =>
        { y with state := .running, pos := start, wrapped := false }).toSstFromRcu
          [.running r true]).answer .rcu req .ok [BitVec.ofNat 8 r.val] := by
  have hrewound : s.onRecorder r (fun y => y.rewind .running) =
      s.onRecorder r fun y => { y with state := .running, pos := start, wrapped := false } :=
    Recorders.onRecorder_congr (by simp only [Recorder.rewind, hregion, Option.map_some, Option.getD_some])
  rcases hstate with hstate | hstate <;> (simp only [State.recordStart, hstate, hrewound]; rfl)

theorem recordStart_idle (req : Req) (hstate : Recorder.state s.rcu.recorders[r] = .idle) :
    s.recordStart req r = s.answer .rcu req .state [] := by
  simp only [State.recordStart, hstate]

theorem recordStart_running (req : Req) (hstate : Recorder.state s.rcu.recorders[r] = .running) :
    s.recordStart req r = s.answer .rcu req .ok [BitVec.ofNat 8 r.val] := by
  simp only [State.recordStart, hstate]
  rfl

theorem recordStop_running (hstate : Recorder.state s.rcu.recorders[r] = .running) :
    s.recordStop r =
      (s.onRecorder r fun y => { y with state := .set }).toSstFromRcu [.running r false] := by
  simp only [State.recordStop, hstate]

theorem recordStop_full (hstate : Recorder.state s.rcu.recorders[r] = .full) :
    s.recordStop r = s.onRecorder r fun y => { y with state := .set } := by
  simp only [State.recordStop, hstate]

theorem recordStop_other
    (hstate : Recorder.state s.rcu.recorders[r] = .idle ∨ Recorder.state s.rcu.recorders[r] = .set) :
    s.recordStop r = s := by
  rcases hstate with hstate | hstate <;> simp only [State.recordStop, hstate]

end ByState

section Requests

variable {s s' : State} {req : Req} (h : Handed .rcu req s s') (hfree : s.rcu.waiting = none)
include h hfree

theorem execRecordStart_taken (hk : req.kind = .recordStart) :
    exec .recordStart s = .next (
      if 1 < octAt req.body 0 then s'.badField .rcu req 1
      else s'.recordStart req (recOf (octAt req.body 0))) :=
  congrArg Host.Outcome.next (rcuRequest_handed h hfree hk _)

theorem execRecordStop_taken (hk : req.kind = .recordStop) :
    exec .recordStop s = .next (
      if 1 < octAt req.body 0 then s'.badField .rcu req 1
      else (s'.recordStop (recOf (octAt req.body 0))).answer .rcu req .ok
        [BitVec.ofNat 8 (recOf (octAt req.body 0)).val]) :=
  congrArg Host.Outcome.next (rcuRequest_handed h hfree hk _)

theorem execRecorderStatus_bad (hk : req.kind = .recorderStatus) (hr : 1 < octAt req.body 0) :
    exec .recorderStatus s = .next (s'.badField .rcu req 1) :=
  congrArg Host.Outcome.next ((rcuRequest_handed h hfree hk _).trans (if_pos hr))

theorem execRecorderStatus_good (hk : req.kind = .recorderStatus) {r : Rec}
    (hr : octAt req.body 0 = r.val) :
    exec .recorderStatus s =
      .next (s'.answer .rcu req .ok (Recorder.octets s.rcu.recorders[r])) := by
  refine congrArg Host.Outcome.next ((rcuRequest_handed h hfree hk _).trans ?_)
  simp only [if_neg (show ¬1 < octAt req.body 0 by omega), recOf_eq hr, handed_rcu h]

end Requests

theorem recordStartRuns : Piece.RecordStartRuns := by
  intro s s' req h hfree hk
  rw [execRecordStart_taken h hfree hk]
  refine ⟨fun hbad => by rw [if_pos hbad], fun r hr => ?_⟩
  have hrecorder : s'.rcu.recorders[r] = s.rcu.recorders[r] := by rw [handed_rcu h]
  rw [if_neg (by omega), recOf_eq hr, ← hrecorder]
  refine ⟨fun hstate => by rw [recordStart_idle req hstate],
    fun hstate => by rw [recordStart_running req hstate], fun start len hstate hregion => ?_⟩
  rw [recordStart_rewinds req hstate hregion]
  obtain ⟨rest, -, rfl⟩ := h
  rfl

theorem recordStopStops : Piece.RecordStopStops := by
  intro s s' req h hfree hk
  rw [execRecordStop_taken h hfree hk]
  refine ⟨fun hbad => by rw [if_pos hbad], fun r hr => ?_⟩
  have hrecorder : s'.rcu.recorders[r] = s.rcu.recorders[r] := by rw [handed_rcu h]
  rw [if_neg (by omega), recOf_eq hr, ← hrecorder]
  refine ⟨fun hstate => ?_, fun hstate => ?_, fun hstate => by rw [recordStop_other hstate]⟩
  · rw [recordStop_running hstate]
    obtain ⟨rest, -, rfl⟩ := h
    rfl
  · rw [recordStop_full hstate]
    obtain ⟨rest, -, rfl⟩ := h
    rfl

/-- R163, R202: a recorder as RECORDER STATUS returns it, with zeros where it has no region. -/
theorem octets_eq (x : Recorder) : x.octets =
    ([match x.state with | .idle => 0 | .set => 1 | .running => 2 | .full => 3] : List Byte) ++
      (match x.region with | some g => u24 g.1 ++ u24 g.2 | none => [0, 0, 0, 0, 0, 0]) ++
      [if x.once then 1 else 0] ++ u24 x.pos ++ [if x.wrapped then 1 else 0] := by
  obtain ⟨state, region, once, pos, wrapped⟩ := x
  have hflag (b : Bool) : uBool b = [if b then 1 else 0] := by cases b <;> rfl
  have hstate : u8 state.code =
      [match state with | .idle => 0 | .set => 1 | .running => 2 | .full => 3] := by
    cases state <;> rfl
  have hregion : u24 (region.getD (0, 0)).1 ++ u24 (region.getD (0, 0)).2 =
      match region with | some g => u24 g.1 ++ u24 g.2 | none => [0, 0, 0, 0, 0, 0] := by
    cases region <;> rfl
  rw [Recorder.octets, hflag, hflag, hstate, List.append_assoc [_] (u24 _), hregion]

theorem recorderStatusAnswers : Piece.RecorderStatusAnswers := by
  refine fun s s' req h hfree hk => ⟨execRecorderStatus_bad h hfree hk, fun r hr => ?_⟩
  exact (execRecorderStatus_good h hfree hk hr).trans
    (congrArg (fun body => Host.Outcome.next (s'.answer .rcu req .ok body)) (octets_eq _))

/-- Settles O50: past the check of its number, each request is one case per state of the recorder it names. -/
theorem recorderRequests : Obligations.RecorderRequests :=
  ⟨recordStartRuns, recordStopStops, recorderStatusAnswers⟩

end Sys2Proof.RecorderRequests
end

section
/-! SUPPORT. The messages of the Link Ports in the Management Unit (R166 to R169, R172): whose turn it is, what a
message is judged to be, and what becomes of it. -/

namespace Sys2Proof.ManagementMessages

open Sys2Proof.Machine Sys2Proof.Laws

/-! ## Which message is taken (R166) -/

section Turn

variable {l : Link} {s : State}

theorem execMessageTaken_oldest {octets : List Byte} {mgr : Bool} {rest : List (Link × LpMsg)}
    (h : Oldest (fun x => x.1 == l || x.2.isMessage) s.mail.lpToMgu (l, .message octets mgr) rest) :
    exec (.messageTaken l) s = .next ((s.setLpMail rest).dealMessage l octets mgr) := by
  change execMessageTaken l s = _
  simp only [execMessageTaken, nextMessage_eq_some.mpr h, if_true]

theorem execMessageTaken_notYet {x : Link × LpMsg} {rest : List (Link × LpMsg)}
    (h : Oldest (fun x => x.1 == l || x.2.isMessage) s.mail.lpToMgu x rest)
    (hx : x.1 ≠ l ∨ x.2.isMessage = false) : exec (.messageTaken l) s = .next s := by
  change execMessageTaken l s = _
  obtain ⟨k, m⟩ := x
  simp only [execMessageTaken, nextMessage_eq_some.mpr h]
  cases m with
  | message octets mgr => exact if_neg (hx.resolve_right (by simp [LpMsg.isMessage]))
  | sent place ref => rfl
  | discarded place ref => rfl
  | stopped => rfl

end Turn

theorem messagesAreTakenInOrder : Piece.MessagesAreTakenInOrder := fun _ _ _ _ h hx =>
  execMessageTaken_notYet h hx

/-! ## What a message is judged to be (R166, R168) -/

theorem mguFieldBad_iff (k : RequestKind) (body : List Byte) :
    mguFieldBad k body = true ↔ mguRefuses k body := by
  cases k <;> simp [mguFieldBad, mguRefuses]

section Judged

variable {octets : List Byte}

theorem judgeMessage_header (h : field16 octets 2 ≠ (octets.drop 4).length) :
    judgeMessage octets = .error (.badLength, []) := if_pos h

variable (hlen : field16 octets 2 = (octets.drop 4).length)
include hlen

theorem judgeMessage_unknown (h : ∀ k : RequestKind, k.code ≠ octAt octets 0) :
    judgeMessage octets = .error (.unknown, []) := by
  simp only [judgeMessage, if_neg (not_not.mpr hlen), ofCode_eq_none.mpr h]

variable {k : RequestKind} (hk : k.code = octAt octets 0)
include hk

/-- R166 steps 3 and 4: a message of a known code is judged by its body, length first. -/
theorem judgeMessage_known : judgeMessage octets =
    if !k.lengthOk (octets.drop 4).length then .error (.badLength, [])
    else if mguFieldBad k (octets.drop 4) then .error (.badField, [1])
    else .ok k := by
  simp only [judgeMessage, if_neg (not_not.mpr hlen), ofCode_eq_some.mpr hk]
  rfl

theorem judgeMessage_bodyLength (h : k.lengthOk (octets.drop 4).length = false) :
    judgeMessage octets = .error (.badLength, []) := by
  rw [judgeMessage_known hlen hk, h]
  rfl

variable (hbody : k.lengthOk (octets.drop 4).length = true)
include hbody

theorem judgeMessage_field (h : mguRefuses k (octets.drop 4)) :
    judgeMessage octets = .error (.badField, [1]) := by
  rw [judgeMessage_known hlen hk, hbody, (mguFieldBad_iff _ _).mpr h]
  rfl

theorem judgeMessage_ok (h : ¬mguRefuses k (octets.drop 4)) : judgeMessage octets = .ok k := by
  rw [judgeMessage_known hlen hk, hbody, Bool.eq_false_iff.mpr (mt (mguFieldBad_iff _ _).mp h)]
  rfl

end Judged

/-! ## A message that stands in progress (R166, R169) -/

/-- R169: the in-progress record of a message taken from a link. -/
def recordOf (s : State) (l : Link) (octets : List Byte) : InProgress :=
  ⟨⟨l, s.mgu.nextRef⟩, (octets[0]?).getD 0, (octets[1]?).getD 0⟩

/-- R169: the state in which a message taken from a link stands in progress. -/
def inProgressState (s : State) (l : Link) (octets : List Byte) : State :=
  { s with
    mgu :=
      { s.mgu with
        nextRef := s.mgu.nextRef + 1
        links := updAt s.mgu.links l fun k => { k with inProgress := some (recordOf s l octets) } } }

section Taken

variable (s : State) (l : Link) {octets : List Byte}

theorem takeMessage_refused {code : ResultCode} {body : List Byte}
    (h : judgeMessage octets = .error (code, body)) :
    Answered l (recordOf s l octets) code body none (inProgressState s l octets)
      (s.takeMessage l octets) := by
  have htaken : s.takeMessage l octets =
      (inProgressState s l octets).respond l (recordOf s l octets) code body none := by
    simp only [State.takeMessage, h]
    rfl
  rw [htaken]
  exact answered_respond _ _ _ _ _ _

theorem takeMessage_handed {k : RequestKind} (h : judgeMessage octets = .ok k) :
    s.takeMessage l octets = (inProgressState s l octets).onMail fun m =>
      { m with reqs := m.reqs ++ [(ownerOf k (octets.drop 4),
        ⟨(recordOf s l octets).ref, k, (recordOf s l octets).tag, octets.drop 4⟩)] } := by
  simp only [State.takeMessage, h]
  rfl

end Taken

/-! ## What becomes of a message (R166, R167, R172) -/

theorem eligible_iff (s : State) (l : Link) (mgr : Bool) :
    s.eligible l mgr = true ↔ linkIsEligible s l mgr := by
  have hpartner (p : Option PartnerRecord) :
      (p.map fun r => r.current).getD false = true ↔ ∃ r, p = some r ∧ r.current = true := by
    cases p <;> simp
  simp only [State.eligible, linkIsEligible, Bool.and_eq_true, Bool.or_eq_true, beq_iff_eq, hpartner,
    and_assoc]

section Dealt

variable {s : State} {l : Link} {octets : List Byte} {mgr : Bool}

theorem dealMessage_ineligible (h : ¬linkIsEligible s l mgr) :
    s.dealMessage l octets mgr = s.orderDiscard l := by
  simp only [State.dealMessage, Bool.eq_false_iff.mpr (mt (eligible_iff s l mgr).mp h), Bool.not_false,
    if_true]

variable (helig : linkIsEligible s l mgr)
include helig

/-- R166, R172: a message of an eligible link is dealt with by what the link's record holds. -/
theorem dealMessage_eligible : s.dealMessage l octets mgr =
    if s.mgu.links[l].inProgress.isSome || s.mgu.links[l].closing.isSome then
      if s.mgu.links[l].busyWaiting then s.orderDiscard l
      else s.answerBusy l ((octets[0]?).getD 0) ((octets[1]?).getD 0)
    else s.takeMessage l octets := by
  simp only [State.dealMessage, (eligible_iff s l mgr).mpr helig, Bool.not_true, Bool.false_eq_true,
    if_false]

theorem dealMessage_busy (h : s.mgu.links[l].inProgress ≠ none ∨ s.mgu.links[l].closing ≠ none) :
    s.dealMessage l octets mgr =
      if s.mgu.links[l].busyWaiting then s.orderDiscard l
      else s.answerBusy l ((octets[0]?).getD 0) ((octets[1]?).getD 0) :=
  (dealMessage_eligible helig).trans (if_pos (by
    simpa only [Bool.or_eq_true, Option.isSome_iff_ne_none] using h))

theorem dealMessage_free (hp : s.mgu.links[l].inProgress = none) (hc : s.mgu.links[l].closing = none) :
    s.dealMessage l octets mgr = s.takeMessage l octets :=
  (dealMessage_eligible helig).trans (if_neg (by rw [hp, hc]; decide))

end Dealt

/-- R172, R85: the BUSY response of a running link whose BUSY place is empty. -/
theorem answerBusy_accepted {s : State} {l : Link} (code tag : Byte)
    (hrun : s.lp[l].state.running = true) (hplace : ∀ x ∈ s.lp[l].txq, x.place ≠ .busy) :
    s.answerBusy l code tag =
      (s.queryEvents.accept l .busy none
        (responseOctets code tag .busy s.evu.events.length [])).onMgu l fun k =>
          { k with busyWaiting := true } := by
  have hempty : s.lp[l].placeFull .busy = false := by
    rw [Bool.eq_false_iff, ne_eq, placeFull_iff]
    rintro ⟨x, hx, hbusy⟩
    exact hplace x hx hbusy
  have hopen : (s.queryEvents.lp[l].state.running && !s.queryEvents.lp[l].placeFull .busy) = true := by
    simp only [queryEvents_lp, hrun, hempty, Bool.not_false, Bool.and_self]
  exact if_pos hopen

theorem messageIsDealtWith : Piece.MessageIsDealtWith := by
  intro l s octets mgr rest hfirst hlong taken k discarded
  have hdealt : exec (.messageTaken l) s = .next (taken.dealMessage l octets mgr) :=
    execMessageTaken_oldest hfirst
  refine ⟨fun hinelig => ?ineligible, fun helig hfull => ?full, fun helig hp hc => ?free⟩
  case ineligible => exact hdealt.trans (congrArg Host.Outcome.next (dealMessage_ineligible hinelig))
  case full =>
    have hbusy := dealMessage_busy (s := taken) (octets := octets) helig hfull
    refine ⟨fun hwaiting => hdealt.trans (congrArg Host.Outcome.next (hbusy.trans (if_pos hwaiting))),
      fun hclear hplace => hdealt.trans (congrArg Host.Outcome.next (hbusy.trans ?_))⟩
    obtain ⟨hrun, -⟩ := helig
    exact (if_neg (Bool.eq_false_iff.mp hclear)).trans (answerBusy_accepted _ _ hrun hplace)
  case free =>
    intro ip body placed
    have htaken : exec (.messageTaken l) s = .next (taken.takeMessage l octets) :=
      hdealt.trans (congrArg Host.Outcome.next (dealMessage_free helig hp hc))
    have hheader : field16 octets 2 + 4 = octets.length ↔ field16 octets 2 = body.length := by
      rw [List.length_drop]
      omega
    have hrefused {code : ResultCode} {answer : List Byte}
        (h : judgeMessage octets = .error (code, answer)) :
        ∃ t, exec (.messageTaken l) s = .next t ∧ Answered l ip code answer none placed t :=
      ⟨_, htaken, takeMessage_refused taken l h⟩
    refine ⟨fun h => hrefused (judgeMessage_header (mt hheader.mpr h)), fun h => ?_⟩
    have hlen := hheader.mp h
    refine ⟨fun hunknown => hrefused (judgeMessage_unknown hlen hunknown), fun kind hk => ?_⟩
    refine ⟨fun hbad => hrefused (judgeMessage_bodyLength hlen hk hbad), fun hbody => ?_⟩
    refine ⟨fun hbad => hrefused (judgeMessage_field hlen hk hbody hbad), fun hgood => ?_⟩
    have hok := judgeMessage_ok hlen hk hbody hgood
    exact htaken.trans (congrArg Host.Outcome.next (takeMessage_handed taken l hok))

/-- Settles O52: eligibility, then the link's record, then the judgement of the message decide what becomes of it; a
message of the link is not taken while something else is first in its turn. -/
theorem messagesAreTaken : Obligations.MessagesAreTaken := ⟨messageIsDealtWith, messagesAreTakenInOrder⟩

end Sys2Proof.ManagementMessages
end

section
/-! SUPPORT. What the Link Ports report to the Management Unit (R171 to R174), and the results of the blocks
(R169 to R171, R184). -/

namespace Sys2Proof.ManagementReports

open Sys2Proof.Machine Sys2Proof.Laws

theorem carryDeferred_eq (s : State) (l : Link) (d : Deferred) :
    s.carryDeferred l d = { s with mail := CarriedOut l (some d) s.mail } := by
  cases d <;> rfl

/-! ## A place of the transmit list has been emptied (R171, R172, R174) -/

section Places

variable {s : State} {l : Link}

theorem execReport_oldest {c : Instr} {m : LpMsg} {place : Place} {ref : Option Ref}
    {rest : List (Link × LpMsg)} (h : Oldest (fun x => x.1 == l) s.mail.lpToMgu (l, m) rest)
    (hc : (c = .sentReport l ∧ m = .sent place ref) ∨ (c = .discardReport l ∧ m = .discarded place ref)) :
    exec c s = .next ((s.setLpMail rest).placeEmptied l place ref) := by
  obtain ⟨rfl, rfl⟩ | ⟨rfl, rfl⟩ := hc
  · change execSentReport l s = _
    simp only [execSentReport, oldestOf_eq_some.mpr h]
  · change execDiscardReport l s = _
    simp only [execDiscardReport, oldestOf_eq_some.mpr h]

theorem closeAfter_matched {e : Closing} (h : s.mgu.links[l].closing = some e) :
    s.closeAfter l (some e.ref) = { s with
      mgu := { s.mgu with links := updAt s.mgu.links l fun k => { k with closing := none } }
      mail := CarriedOut l (some e.effect) s.mail } := by
  simp only [State.closeAfter, h, if_true, carryDeferred_eq]
  rfl

theorem closeAfter_unmatched {ref : Option Ref}
    (h : ∀ e, s.mgu.links[l].closing = some e → ref ≠ some e.ref) : s.closeAfter l ref = s := by
  unfold State.closeAfter
  cases hclosing : MguLink.closing s.mgu.links[l] with
  | none => rfl
  | some e => exact if_neg (h e hclosing)

/-- R174: the end of a closing mark leaves the held response. -/
theorem closeAfter_heldResp (ref : Option Ref) :
    (s.closeAfter l ref).mgu.links[l].heldResp = s.mgu.links[l].heldResp := by
  unfold State.closeAfter
  split
  · split
    · simp [carryDeferred_eq]
    · rfl
  · rfl

theorem reoffer_none (h : s.mgu.links[l].heldResp = none) : s.reoffer l = s := by
  simp only [State.reoffer, h]

theorem reoffer_some {r : HeldResponse} (h : s.mgu.links[l].heldResp = some r) :
    Offered l r.ref r.octets r.deferred s (s.reoffer l) := by
  simp only [State.reoffer, h]
  exact offered_offer _ _ _ _ _

end Places

theorem placeReportsAreTaken : Piece.PlaceReportsAreTaken := by
  intro l s c m place ref rest hfirst hc taken
  rw [execReport_oldest hfirst hc]
  refine ⟨?busy, ?response⟩
  case busy =>
    rintro rfl
    rfl
  case response =>
    rintro rfl closed hclosed
    have hclose : taken.closeAfter l ref = closed := by
      obtain ⟨e, hclosing, rfl, rfl⟩ | ⟨hother, rfl⟩ := hclosed
      · exact closeAfter_matched hclosing
      · exact closeAfter_unmatched hother
    have hreoffered : (s.setLpMail rest).placeEmptied l .response ref = closed.reoffer l :=
      congrArg (State.reoffer · l) hclose
    have hheld : closed.mgu.links[l].heldResp = s.mgu.links[l].heldResp := by
      rw [← hclose]
      exact closeAfter_heldResp ref
    rw [hreoffered]
    exact ⟨fun hnone => congrArg Host.Outcome.next (reoffer_none (hheld.trans hnone)),
      fun r hsome => ⟨_, rfl, reoffer_some (hheld.trans hsome)⟩⟩

/-! ## The stop notice (R173, R174) -/

section Stopped

variable {s : State} {l : Link}

theorem execStopNotice_oldest {rest : List (Link × LpMsg)}
    (h : Oldest (fun x => x.1 == l) s.mail.lpToMgu (l, .stopped) rest) :
    exec (.stopNotice l) s = .next ((s.setLpMail rest).stopLink l) := by
  change execStopNotice l s = _
  simp only [execStopNotice, oldestOf_eq_some.mpr h]

theorem stopLink_eq (s : State) (l : Link) : s.stopLink l = State.requesterStopped
    { s with
      mgu := { s.mgu with links := updAt s.mgu.links l fun _ => ⟨none, none, false, none⟩ }
      mail := CarriedOut l (s.mgu.links[l].heldResp.bind HeldResponse.deferred)
        (CarriedOut l (s.mgu.links[l].closing.map Closing.effect) s.mail) } l := by
  simp only [State.stopLink, carryIfDeferred_eq]
  rfl

theorem requesterStopped_other
    (h : ∀ r, s.mgu.curReset = some r → r.ref.link ≠ l ∨ r.scope = .routing ∨ r.effectDone = true) :
    s.requesterStopped l = s := by
  unfold State.requesterStopped
  cases hcur : s.mgu.curReset with
  | none => rfl
  | some r =>
    refine if_neg ?_
    rintro ⟨hlink, hscope, hdone⟩
    rcases h r hcur with hother | hrouting | hcarried
    · exact hother hlink
    · exact absurd (hscope.symm.trans hrouting) (by decide)
    · exact absurd (hdone.symm.trans hcarried) (by decide)

theorem requesterStopped_requester {r : CurrentReset} (h : s.mgu.curReset = some r)
    (hlink : r.ref.link = l) (hscope : r.scope = .device) (hdone : r.effectDone = false) :
    s.requesterStopped l = { s with
      mgu := { s.mgu with curReset := some { r with effectDone := true } }
      mail := CarriedOut l (some .reset) s.mail } := by
  have hrequester : r.ref.link = l ∧ r.scope = .device ∧ r.effectDone = false := ⟨hlink, hscope, hdone⟩
  simp only [State.requesterStopped, h, if_pos hrequester]
  rfl

end Stopped

theorem stopNoticeEndsTheRecords : Piece.StopNoticeEndsTheRecords := by
  intro l s rest hfirst mgu mail
  rw [execStopNotice_oldest hfirst, stopLink_eq]
  exact ⟨fun hother => congrArg Host.Outcome.next (requesterStopped_other hother),
    fun r hcur hlink hscope hdone =>
      congrArg Host.Outcome.next (requesterStopped_requester hcur hlink hscope hdone)⟩

/-- Settles O53: the report of a response is the end of the closing mark and then the offer of what is held; the stop
notice is the two effects recorded and then the requester's share of a RESET DEVICE. -/
theorem reportsAndStopNotices : Obligations.ReportsAndStopNotices :=
  ⟨placeReportsAreTaken, stopNoticeEndsTheRecords⟩

/-! ## Results (R169 to R171, R184) -/

/-- R169, R170: a result whose reference the record of its link holds is built into a response. -/
theorem takeResult_answered {s : State} {r : Result} {ip : InProgress}
    (h : s.mgu.links[r.ref.link].inProgress = some ip) (he : ip.ref = r.ref) :
    Answered r.ref.link ip r.code r.body r.deferred s (s.takeResult r) := by
  rw [takeResult_held h he]
  exact answered_respond _ _ _ _ _ _

theorem execOwnerResult_oldest {s : State} {b : Block} {r : Result} {rest : List (Block × Result)}
    (h : Oldest (fun x => x.1 == b) s.mail.results (b, r) rest) :
    exec (.ownerResult b) s =
      .next ((s.onMail fun m => { m with results := rest }).takeResult r) := by
  change execOwnerResult b s = _
  simp only [execOwnerResult, takeFirst_eq_some.mpr h]

theorem resultsAreAnswered : Piece.ResultsAreAnswered := by
  intro s b r rest hfirst taken
  rw [execOwnerResult_oldest hfirst]
  exact ⟨fun ip hip href => ⟨_, rfl, takeResult_answered (s := taken) hip href⟩,
    fun hgone => congrArg Host.Outcome.next (takeResult_dropped (s := taken) hgone)⟩

theorem eventsWaitingIsAnswered : Piece.EventsWaitingIsAnswered := fun _ => rfl

/-- Settles O54: whether the record of its link still holds its reference decides what becomes of a result. -/
theorem resultsAndEventsWaiting : Obligations.ResultsAndEventsWaiting :=
  ⟨resultsAreAnswered, eventsWaitingIsAnswered⟩

end Sys2Proof.ManagementReports
end

section
/-! SUPPORT. The Management Unit's own requests (R169, R175 to R179): IDENTIFY, NAME SET, and RESET from the
request to the last acknowledgment. -/

namespace Sys2Proof.ManagementRequests

open Sys2Proof.Machine Sys2Proof.Laws

/-- R169: a row leaves alone a request of another kind. -/
theorem kindRequest_other {b : Block} {req : Req} {s s' : State} (h : Handed b req s s')
    {k : RequestKind} (hk : req.kind ≠ k) (f : Req → State → State) :
    s.withRequest b (isKind k) f = s := by
  rw [withRequest_handed h, isKind, beq_eq_false_iff_ne.mpr hk]
  rfl

theorem handed_mgu {b : Block} {req : Req} {s s' : State} (h : Handed b req s s') : s'.mgu = s.mgu := by
  obtain ⟨rest, -, rfl⟩ := h
  rfl

/-- R169, R170: the Management Unit answers a request of its own whose record still stands. -/
theorem answerOwn_answered {s : State} {req : Req} {ip : InProgress}
    (hip : s.mgu.links[req.ref.link].inProgress = some ip) (href : ip.ref = req.ref) (code : ResultCode)
    (body : List Byte) : Answered req.ref.link ip code body none s (s.answerOwn req code body) :=
  ManagementReports.takeResult_answered (r := ⟨req.ref, code, body, none⟩) hip href

/-! ## IDENTIFY and NAME SET (R175, R176) -/

section Own

variable {s taken : State} {req : Req} (h : Handed .mgu req s taken)
include h

theorem execIdentify_taken (hk : req.kind = .identify) :
    exec .identify s = .next (taken.answerOwn req .ok taken.identity) :=
  congrArg Host.Outcome.next (kindRequest_handed h hk _)

theorem execNameSet_replaces (hk : req.kind = .nameSet) (hchars : (0 : Byte) ∉ req.body) :
    exec .nameSet s = .next (State.answerOwn { taken with mgu := { taken.mgu with label := req.body } }
      req .ok [BitVec.ofNat 8 req.body.length]) := by
  have hnone : req.body.findIdx? (· == 0) = none := by
    rw [List.findIdx?_eq_none_iff]
    exact fun x hx => beq_eq_false_iff_ne.mpr fun hzero => hchars (hzero ▸ hx)
  refine congrArg Host.Outcome.next ((kindRequest_handed h hk _).trans ?_)
  simp only [hnone]
  rfl

theorem execNameSet_zero (hk : req.kind = .nameSet) {i : Nat} (hzero : req.body[i]? = some 0)
    (hbefore : (0 : Byte) ∉ req.body.take i) :
    exec .nameSet s = .next (taken.answerOwn req .badField [BitVec.ofNat 8 (i + 1)]) := by
  have hfirst : req.body.findIdx? (· == 0) = some i := by
    obtain ⟨hi, hget⟩ := List.getElem?_eq_some_iff.mp hzero
    rw [List.findIdx?_eq_some_iff_getElem]
    refine ⟨hi, by rw [hget]; rfl, fun j hj heq => hbefore ?_⟩
    exact List.mem_take_iff_getElem.mpr ⟨j, by omega, beq_iff_eq.mp heq⟩
  refine congrArg Host.Outcome.next ((kindRequest_handed h hk _).trans ?_)
  simp only [hfirst]
  rfl

theorem identity_taken : taken.identity =
    [10, 39, 12, 136, 1] ++ u48 Config.unitSerial.toNat ++
      [if s.msel then 1 else 0, BitVec.ofNat 8 s.unit.toNat, BitVec.ofNat 8 s.mgu.label.length] ++
        s.mgu.label := by
  obtain ⟨rest, -, rfl⟩ := h
  have hstrap : uBool s.msel = [if s.msel then 1 else 0] := by cases s.msel <;> rfl
  simp only [State.identity, onMail_msel, onMail_unit, onMail_mgu, hstrap, List.append_assoc]
  rfl

end Own

/-- Settles O55: the oldest request decides which row takes it; IDENTIFY builds the identity, NAME SET
looks for the first zero character. -/
theorem identifyAndNameSet : Obligations.IdentifyAndNameSet := by
  intro s taken req h
  have hmgu := handed_mgu h
  refine ⟨fun hk => congrArg Host.Outcome.next (kindRequest_other h hk _),
    fun hk => congrArg Host.Outcome.next (kindRequest_other h hk _), fun ip hip href => ?_⟩
  have hrecord : taken.mgu.links[req.ref.link].inProgress = some ip := hmgu ▸ hip
  refine ⟨fun hk => ⟨_, execIdentify_taken h hk, ?_⟩,
    fun hk => ⟨fun hchars => ?_, fun i hzero hbefore => ?_⟩⟩
  · rw [identity_taken h]
    exact answerOwn_answered hrecord href _ _
  · rw [← hmgu]
    refine ⟨_, execNameSet_replaces h hk hchars, answerOwn_answered ?_ href _ _⟩
    exact hrecord
  · exact ⟨_, execNameSet_zero h hk hzero hbefore, answerOwn_answered hrecord href _ _⟩

/-! ## A RESET begins (R177 to R179) -/

theorem scopeOf_routing {req : Req} (h : octAt req.body 0 ≠ 1) : scopeOf req = .routing := if_neg h

theorem scopeOf_device {req : Req} (h : octAt req.body 0 = 1) : scopeOf req = .device := if_pos h

theorem mem_resetBlocks_device (l : Link) (b : Block) :
    b ∈ resetBlocks .device l ↔ b ∈ resetEverywhere ∨ ∃ k, k ≠ l ∧ b = .lp k := by
  simp only [resetBlocks, resetEverywhere, List.mem_append, List.mem_map, List.mem_filter, mem_allEight,
    true_and, bne_iff_ne, eq_comm (a := Block.lp _)]

theorem resetBlocks_device_nodup (l : Link) : (resetBlocks .device l).Nodup := by
  revert l
  decide

theorem foldl_handReset (blocks : List Block) (order : Block → ResetOrder) (s : State) :
    blocks.foldl (fun s b => s.handReset (order b)) s =
      { s with mail := { s.mail with resets := s.mail.resets ++ blocks.map order } } := by
  induction blocks generalizing s with
  | nil => simp
  | cons b bs ih =>
    rw [List.foldl_cons, ih]
    simp only [handReset_mail, List.map_cons, List.append_assoc, List.singleton_append]
    rfl

/-- R179: the records of the links when those of every link but the requester's have ended. -/
def othersEnded (links : Vector MguLink 8) (requester : Link) : Vector MguLink 8 :=
  Vector.ofFn fun l => if l = requester then links[l] else MguLink.empty

theorem othersEnded_get (links : Vector MguLink 8) (requester l : Link) :
    (othersEnded links requester)[l] =
      if l = requester then links[l] else ⟨none, none, false, none⟩ := by
  simp only [othersEnded, Fin.getElem_fin, Vector.getElem_ofFn]
  rfl

theorem endOthers_eq (s : State) (requester : Link) : s.endOthers requester = { s with
    mgu := { s.mgu with
      links := othersEnded s.mgu.links requester
      waitingResets := s.mgu.waitingResets.filter fun x =>
        !(x.kind == .reset && x.ref.link != requester) }
    mail := { s.mail with
      reqs := s.mail.reqs.filter fun x =>
        !(x.1 == Block.mgu && x.2.kind == .reset && x.2.ref.link != requester) } } := by
  simp only [State.endOthers, endedBy, isKind, Bool.and_assoc]
  rfl

/-- R177 to R179: what beginning a valid RESET does. -/
theorem resetBegun_beginReset (req : Req) (s : State) : ResetBegun req s (s.beginReset req) := by
  constructor
  · intro hscope
    have hrouting := scopeOf_routing (req := req) (by omega)
    simp only [State.beginReset, hrouting, foldl_handReset]
    rfl
  · intro hscope
    have hdevice := scopeOf_device hscope
    refine ⟨resetBlocks .device req.ref.link, othersEnded s.mgu.links req.ref.link,
      mem_resetBlocks_device _, resetBlocks_device_nodup _, othersEnded_get _ _, ?_⟩
    simp only [State.beginReset, hdevice, foldl_handReset, endOthers_eq]

/-- R177: the row of a RESET's scope takes it when it is the oldest request. -/
theorem execResetRow_taken {s taken : State} {req : Req} (h : Handed .mgu req s taken)
    (hk : req.kind = .reset) : exec (resetRow req) s = .next (taken.takeReset req) := by
  by_cases hscope : octAt req.body 0 = 1
  · rw [resetRow, if_pos hscope]
    refine congrArg Host.Outcome.next ((withRequest_handed h _ _).trans (if_pos ?_))
    simp [isKind, hk, scopeOf_device hscope]
  · rw [resetRow, if_neg hscope]
    refine congrArg Host.Outcome.next ((withRequest_handed h _ _).trans (if_pos ?_))
    simp [isKind, hk, scopeOf_routing hscope]

theorem takeReset_badScope {s : State} {req : Req} (h : 1 < octAt req.body 0) :
    s.takeReset req = s.answerOwn req .badField [1] := if_pos h

theorem resetsAreHandedOut : Piece.ResetsAreHandedOut := by
  intro s taken req h hk
  have hmgu := handed_mgu h
  rw [execResetRow_taken h hk, ← hmgu]
  refine ⟨fun hbad ip hip href => ⟨_, rfl, ?_⟩,
    fun hscope => ⟨fun hfree => ⟨_, rfl, ?_⟩, fun hfull => ?_⟩⟩
  · rw [takeReset_badScope hbad]
    exact answerOwn_answered hip href _ _
  · rw [takeReset_free hscope hfree]
    exact resetBegun_beginReset req taken
  · rw [takeReset_waits hscope hfull]

/-! ## A RESET ends (R174, R177) -/

/-- R174: the effect that the response of a RESET carries. -/
def effectOf (scope : Scope) : Option Deferred := if scope = .device then some .reset else none

/-- The state in which no RESET is being carried out any longer. -/
def resetOver (s : State) : State := { s with mgu := { s.mgu with curReset := none } }

section Ended

variable {s : State} {r : CurrentReset}

theorem finishReset_held {ip : InProgress} (hip : s.mgu.links[r.ref.link].inProgress = some ip)
    (href : ip.ref = r.ref) : s.finishReset r =
      (resetOver s).respond r.ref.link ip .ok [if r.scope = .device then 1 else 0] (effectOf r.scope) := by
  obtain ⟨ref, scope, waiting, effectDone⟩ := r
  simp only [State.finishReset, hip, if_pos href]
  cases scope <;> rfl

theorem finishReset_gone
    (h : ∀ ip, s.mgu.links[r.ref.link].inProgress = some ip → ip.ref ≠ r.ref) : s.finishReset r =
      (resetOver s).carryIfDeferred r.ref.link (if r.effectDone then none else effectOf r.scope) := by
  obtain ⟨ref, scope, waiting, effectDone⟩ := r
  cases hip : MguLink.inProgress s.mgu.links[ref.link] with
  | none =>
    simp only [State.finishReset, hip]
    cases effectDone <;> cases scope <;> rfl
  | some ip =>
    simp only [State.finishReset, hip, if_neg (h ip hip)]
    cases effectDone <;> cases scope <;> rfl

/-- R174, R177: a RESET is ended the same whatever acknowledgments it waits for. -/
theorem resetEnded_finishReset (s : State) (r : CurrentReset) (waiting : List Block) :
    ResetEnded r s (s.finishReset { r with waiting := waiting }) := by
  refine ⟨fun ip hip href => ?_, fun hgone => ?_⟩
  · rw [finishReset_held (r := { r with waiting := waiting }) hip href]
    exact answered_respond _ _ _ _ _ _
  · rw [finishReset_gone (r := { r with waiting := waiting }) hgone, carryIfDeferred_eq]
    rfl

theorem offered_waitingResets {l : Link} {ref : Ref} {octets : List Byte} {d : Option Deferred}
    {t : State} (h : Offered l ref octets d s t) : t.mgu.waitingResets = s.mgu.waitingResets := by
  cases hrun : (LP.state s.lp[l]).running with
  | false => rw [h.stopped hrun]
  | true =>
    by_cases hplace : ∃ x ∈ LP.txq s.lp[l], x.place = .response
    · rw [h.occupied hrun hplace]
    · rw [h.accepted hrun fun x hx hx' => hplace ⟨x, hx, hx'⟩]

theorem answered_waitingResets {l : Link} {ip : InProgress} {code : ResultCode} {body : List Byte}
    {d : Option Deferred} {t : State} (h : Answered l ip code body d s t) :
    t.mgu.waitingResets = s.mgu.waitingResets :=
  (offered_waitingResets h).trans rfl

/-- R177: the end of a RESET leaves those that wait. -/
theorem resetEnded_waitingResets {t : State} (h : ResetEnded r s t) :
    t.mgu.waitingResets = s.mgu.waitingResets := by
  obtain ⟨hheld, hgone⟩ := h
  by_cases hip : ∃ ip, s.mgu.links[r.ref.link].inProgress = some ip ∧ ip.ref = r.ref
  · obtain ⟨ip, hip, href⟩ := hip
    exact (answered_waitingResets (hheld ip hip href)).trans rfl
  · rw [hgone fun ip h href => hip ⟨ip, h, href⟩]

end Ended

/-! ## An acknowledgment is taken (R177) -/

section Acknowledged

variable {s : State} {b : Block} {r : CurrentReset} (hb : b ∈ s.mail.acks)
  (hcur : s.mgu.curReset = some r)
include hb hcur

theorem execResetAck_more (hmore : r.waiting.erase b ≠ []) : exec (.resetAck b) s = .next { s with
    mail := { s.mail with acks := s.mail.acks.erase b }
    mgu := { s.mgu with curReset := some { r with waiting := r.waiting.erase b } } } := by
  change execResetAck b s = _
  simp only [execResetAck, List.contains_iff_mem.mpr hb, if_true, onMail_mgu, hcur,
    if_neg (mt List.isEmpty_iff.mp hmore)]
  rfl

theorem execResetAck_last (hlast : r.waiting.erase b = []) : exec (.resetAck b) s = .next
    (((s.onMail fun m => { m with acks := m.acks.erase b }).finishReset
      { r with waiting := r.waiting.erase b }).nextReset) := by
  change execResetAck b s = _
  simp only [execResetAck, List.contains_iff_mem.mpr hb, if_true, onMail_mgu, hcur,
    if_pos (List.isEmpty_iff.mpr hlast)]

end Acknowledged

theorem acknowledgmentsEndTheReset : Piece.AcknowledgmentsEndTheReset := by
  intro s b r hb hcur taken
  refine ⟨fun hmore => execResetAck_more hb hcur hmore, fun hlast => ?_⟩
  have hended := resetEnded_finishReset taken r (r.waiting.erase b)
  have hwaiting := resetEnded_waitingResets hended
  rw [execResetAck_last hb hcur hlast]
  exact ⟨_, hended, fun hnone => congrArg Host.Outcome.next (nextReset_none (hwaiting.trans hnone)),
    fun req more hsome _ => ⟨_, congrArg Host.Outcome.next (nextReset_cons (hwaiting.trans hsome)),
      resetBegun_beginReset req _⟩⟩

/-- Settles O56: the row of its scope takes a RESET and begins it or lets it wait; the last acknowledgment ends it and
leaves those that wait, the oldest of which is begun. -/
theorem resetRequestsRunTheirCourse : Obligations.ResetRequestsRunTheirCourse :=
  ⟨resetsAreHandedOut, acknowledgmentsEndTheReset⟩

end Sys2Proof.ManagementRequests
end

section
/-! SUPPORT. The Event Unit's own events (R183, R185, R186, R192): what a report does to the event list, what EVENTS
READ and COUNTERS READ are answered, and what each reset leaves. -/

namespace Sys2Proof.EventUnit

open Sys2Proof.Machine Sys2Proof.Laws

/-! ## Reports (R183) -/

section Store

variable {e : EVU} (r : Report)

theorem store_below (h : e.events.length < 64) : e.store r = { e with
    events := e.events ++ [⟨e.seq, r.stamp.getD e.frameCopy, r.kind, r.subject, r.detail⟩]
    seq := e.seq + 1 } := if_pos h

theorem store_full (h : 64 ≤ e.events.length) :
    e.store r = { e with overflow := min (e.overflow + 1) 65535 } := if_neg (Nat.not_lt.mpr h)

end Store

theorem execEventReport_oldest {s : State} {b : Block} {r : Report} {rest : List (Block × Report)}
    (h : Oldest (fun x => x.1 == b) s.mail.reports (b, r) rest) :
    exec (.eventReport b) s =
      .next { s with evu := s.evu.store r, mail := { s.mail with reports := rest } } := by
  change execEventReport b s = _
  simp only [execEventReport, takeFirst_eq_some.mpr h]
  rfl

theorem reportsAreStored : Piece.ReportsAreStored := by
  intro s b r rest hfirst
  rw [execEventReport_oldest hfirst]
  exact ⟨fun hbelow => by rw [store_below r hbelow], fun hfull => by rw [store_full r hfull]⟩

/-! ## Requests (R185, R186) -/

section Requests

variable {s s' : State} {req : Req}

/-- R185: EVENTS READ is taken where no counter query is outstanding. -/
theorem execEventsRead_taken (h : Handed .evu req s s') (hquery : s.evu.query = none)
    (hk : req.kind = .eventsRead) : exec .eventsRead s = .next
      (if octAt req.body 0 = 0 ∨ 8 < octAt req.body 0 then s'.badField .evu req 1
      else
        (s'.onEvu fun e =>
          { e with events := e.events.drop (octAt req.body 0), overflow := 0 }).answer .evu req .ok
          (u16 s'.evu.overflow ++ u8 (s'.evu.events.take (octAt req.body 0)).length ++
            (s'.evu.events.take (octAt req.body 0)).flatMap EventRecord.octets)) :=
  congrArg Host.Outcome.next (evuRequest_handed h hquery hk _)

/-- R186: COUNTERS READ is taken where no counter query is outstanding. -/
theorem execCountersRead_taken (h : Handed .evu req s s') (hquery : s.evu.query = none)
    (hk : req.kind = .countersRead) : exec .countersRead s = .next
      (if 7 < octAt req.body 0 then s'.badField .evu req 1
      else if 1 < octAt req.body 1 then s'.badField .evu req 2
      else
        (s'.onEvu fun e => { e with query := some req }).onMail fun m =>
          { m with counterQuery := some (linkOf (octAt req.body 0), octAt req.body 1 == 1) }) :=
  congrArg Host.Outcome.next (evuRequest_handed h hquery hk _)

/-- R186: no request is taken while a counter query is outstanding. -/
theorem evuRequest_outstanding (h : s.evu.query ≠ none) (k : RequestKind) (f : Req → State → State) :
    s.evuRequest k f = s := if_neg (by rwa [Option.isNone_iff_eq_none])

theorem execCounterAnswer_taken {l : Link} {c : Counters} (hquery : s.evu.query = some req)
    (hanswer : s.mail.counterAnswer = some (l, c)) : exec .counterAnswer s = .next (State.answer
      { s with evu := { s.evu with query := none }, mail := { s.mail with counterAnswer := none } }
      .evu req .ok (u8 l.val ++ c.octets)) := by
  change execCounterAnswer s = _
  simp only [execCounterAnswer, hquery, hanswer]
  rfl

end Requests

theorem eventsAreRead : Piece.EventsAreRead := by
  intro s s' req h hquery hk n
  rw [execEventsRead_taken h hquery hk]
  refine ⟨fun hbad => by rw [if_pos hbad], fun hlow hhigh => ?_⟩
  rw [if_neg (by omega), List.length_take]
  obtain ⟨rest, -, rfl⟩ := h
  rfl

/-- Settles O57: a report is stored or counted by the length of the list, and EVENTS READ past its field check
splits the list at the count. -/
theorem eventsAreStoredAndRead : Obligations.EventsAreStoredAndRead := ⟨reportsAreStored, eventsAreRead⟩

/-- Settles O58: each field check stands before the query, whose outstanding request keeps every request waiting
until the Link Port's answer ends it. -/
theorem countersAreRead : Obligations.CountersAreRead := by
  refine fun s => ⟨fun s' req h hquery hk => ?taken, fun houtstanding c hc => ?waits,
    fun req l n hquery hanswer => ?answered⟩
  case taken =>
    rw [execCountersRead_taken h hquery hk]
    refine ⟨fun hlink => by rw [if_pos hlink],
      fun hlink hclear => by rw [if_neg (Nat.not_lt.mpr hlink), if_pos hclear], fun l hl hclear => ?_⟩
    rw [if_neg (by omega), if_neg (Nat.not_lt.mpr hclear), hl, Indicators.linkOf_val]
    obtain ⟨rest, -, rfl⟩ := h
    rfl
  case waits =>
    simp only [List.mem_cons, List.not_mem_nil, or_false] at hc
    rcases hc with rfl | rfl | rfl <;>
      exact congrArg Host.Outcome.next (evuRequest_outstanding houtstanding _ _)
  case answered =>
    rw [execCounterAnswer_taken hquery hanswer, Counters.octets]
    simp only [u8, List.append_assoc]

/-! ## Resets (R192) -/

/-- R192: RESET DEVICE leaves START alone in the list, as record 0, and keeps the copies, the generators and an
outstanding query. -/
theorem deviceReset_eq (e : EVU) : e.deviceReset = { e with
    events := [⟨0, e.frameCopy, .start, 0, 1⟩], seq := 1, overflow := 0, lines := IndLine.defaults } := rfl

section Resets

variable {s s' : State} {o : ResetOrder}

theorem execEvuReset_device (hb : o.block = .evu) (hack : o.ack = true) (h : HandedReset o s s')
    (hscope : o.scope = .device) : exec .evuReset s = .next { s with
      evu := s.evu.deviceReset, mail := { s'.mail with acks := s.mail.acks ++ [.evu] } } := by
  refine congrArg Host.Outcome.next ((AudioResets.withReset_acknowledged h hb hack _).trans ?_)
  obtain ⟨rest, -, rfl⟩ := h
  simp only [hscope]
  rfl

theorem execEvuReset_routing (hb : o.block = .evu) (hack : o.ack = true) (h : HandedReset o s s')
    (hscope : o.scope = .routing) : exec .evuReset s = .next { s with
      evu := s.evu.store ⟨.routingReset, o.requester.val, 0, none⟩
      mail := { s'.mail with acks := s.mail.acks ++ [.evu] } } := by
  refine congrArg Host.Outcome.next ((AudioResets.withReset_acknowledged h hb hack _).trans ?_)
  obtain ⟨rest, -, rfl⟩ := h
  simp only [hscope]
  rfl

end Resets

/-- Settles O60: RESET DEVICE is one change of the Event Unit, and RESET ROUTING stores a report that names the
requester's link and brings no stamp of its own. -/
theorem eventUnitReset : Obligations.EventUnitReset := by
  refine fun s s' o hb hack h => ⟨fun hscope => ⟨IndLine.defaults, ?_, ResetValues.defaults_get⟩,
    fun hscope => ?_⟩
  · rw [execEvuReset_device hb hack h hscope, deviceReset_eq]
  · rw [execEvuReset_routing hb hack h hscope]
    exact ⟨fun hbelow => by rw [store_below _ hbelow]; rfl, fun hfull => by rw [store_full _ hfull]⟩

end Sys2Proof.EventUnit
end

section
/-! SUPPORT. Which operations leave the Event Unit alone: those of the Link Ports, through `OnlyLink`, and those of
every other block. Its records change only where it takes an event of its own. -/

namespace Sys2Proof.EventUnit

open Sys2Proof.Machine Sys2Proof.Laws

/-! ## Shared operations -/

section Shared

variable {s : State}

/-- The branches of an `if` that agree on the Event Unit. -/
@[simp] theorem ite_evu (c : Prop) {_ : Decidable c} (a b : State) :
    (if c then a else b).evu = if c then a.evu else b.evu := apply_ite State.evu c a b

/-- What holds of the Event Unit, and goes on holding when the request is carried out, holds once the request
has been taken. -/
theorem withRequest_evu_of {P : EVU → Prop} (hs : P s.evu) {f : Req → State → State}
    (hf : ∀ req t, P t.evu → P (f req t).evu) (b : Block) (which : Req → Bool) :
    P (s.withRequest b which f).evu := by
  unfold State.withRequest
  split
  · split
    · exact hf _ _ hs
    · exact hs
  · exact hs

/-- What holds of the Event Unit, and goes on holding when the reset is carried out, holds once the reset has
been taken. -/
theorem withReset_evu_of {P : EVU → Prop} (hs : P s.evu) {f : ResetOrder → State → State}
    (hf : ∀ o t, P t.evu → P (f o t).evu) (b : Block) : P (s.withReset b f).evu := by
  unfold State.withReset
  split
  next o rest _ =>
    have hdone : P (f o (s.onMail fun m => { m with resets := rest })).evu := hf _ _ hs
    dsimp only
    split <;> exact hdone
  next => exact hs

variable (s)

theorem withRequest_evu (b : Block) (which : Req → Bool) {f : Req → State → State}
    (h : ∀ req t, (f req t).evu = t.evu) : (s.withRequest b which f).evu = s.evu :=
  withRequest_evu_of (P := (· = s.evu)) rfl (fun req t ht => (h req t).trans ht) b which

theorem withReset_evu (b : Block) {f : ResetOrder → State → State}
    (h : ∀ o t, (f o t).evu = t.evu) : (s.withReset b f).evu = s.evu :=
  withReset_evu_of (P := (· = s.evu)) rfl (fun o t ht => (h o t).trans ht) b

end Shared

/-! ## Link Ports -/

section LinkPorts

theorem onlyLink_evu {l : Link} {s t : State} (h : OnlyLink l s t) : t.evu = s.evu := by rw [h.rest]

variable (s : State) (l : Link)

@[simp] theorem moveLink_evu (new : LinkState) : (s.moveLink l new).evu = s.evu :=
  onlyLink_evu (.moveLink l s new)

@[simp] theorem carryHeldMove_evu : (s.carryHeldMove l).evu = s.evu := onlyLink_evu (.carryHeldMove l s)

@[simp] theorem restoreAdvert_evu : (s.restoreAdvert l).evu = s.evu := onlyLink_evu (.restoreAdvert l s)

@[simp] theorem restoreExpired_evu : (s.restoreExpired l).evu = s.evu := onlyLink_evu (.restoreExpired l s)

@[simp] theorem resetLp_evu : (s.resetLp l).evu = s.evu := onlyLink_evu (.resetLp l s)

@[simp] theorem settleLink_evu : (s.settleLink l).evu = s.evu := onlyLink_evu (.settleLink l s)

@[simp] theorem frameNegotiate_evu (w : Word) : (s.frameNegotiate l w).evu = s.evu :=
  onlyLink_evu (.frameNegotiate l s w)

@[simp] theorem frameTrain_evu (w : Word) (payload : Vector Word 64) :
    (s.frameTrain l w payload).evu = s.evu := onlyLink_evu (.frameTrain l s w payload)

@[simp] theorem frameRunning_evu (w : Word) (payload : Vector Word 64) :
    (s.frameRunning l w payload).evu = s.evu := onlyLink_evu (.frameRunning l s w payload)

@[simp] theorem useChanged_evu (used : Bool) : (s.useChanged l used).evu = s.evu :=
  onlyLink_evu (.useChanged l s used)

@[simp] theorem requestMove_evu (req : Req) (new : LinkState) :
    (s.requestMove l req new).1.evu = s.evu := onlyLink_evu (.requestMove l s req new)

/-- A request of a Link Port, taken once what is due is settled. -/
theorem linkRequest_evu (b : Block) (which : Req → Bool) {f : Req → State → State}
    (h : ∀ req t, (f req t).evu = t.evu) : ((s.settleLink l).withRequest b which f).evu = s.evu :=
  (withRequest_evu _ b which h).trans (settleLink_evu s l)

end LinkPorts

/-! ## Management Unit -/

section Management

variable (s : State) (l : Link)

@[simp] theorem carryDeferred_evu (d : Deferred) : (s.carryDeferred l d).evu = s.evu := by
  cases d <;> rfl

@[simp] theorem carryIfDeferred_evu (d : Option Deferred) : (s.carryIfDeferred l d).evu = s.evu := by
  rw [carryIfDeferred_eq]

@[simp] theorem offer_evu (ref : Ref) (octets : List Byte) (d : Option Deferred) :
    (s.offer l ref octets d).evu = s.evu := by
  simp [State.offer]

@[simp] theorem respond_evu (ip : InProgress) (code : ResultCode) (body : List Byte)
    (d : Option Deferred) : (s.respond l ip code body d).evu = s.evu := by
  simp [State.respond]

@[simp] theorem takeResult_evu (r : Result) : (s.takeResult r).evu = s.evu := by
  unfold State.takeResult
  split <;> simp

@[simp] theorem answerOwn_evu (req : Req) (code : ResultCode) (body : List Byte) :
    (s.answerOwn req code body).evu = s.evu := takeResult_evu s _

@[simp] theorem reoffer_evu : (s.reoffer l).evu = s.evu := by
  unfold State.reoffer
  split <;> simp

@[simp] theorem closeAfter_evu (ref : Option Ref) : (s.closeAfter l ref).evu = s.evu := by
  unfold State.closeAfter
  split <;> simp

@[simp] theorem placeEmptied_evu (place : Place) (ref : Option Ref) :
    (s.placeEmptied l place ref).evu = s.evu := by
  cases place <;> simp [State.placeEmptied]

@[simp] theorem requesterStopped_evu : (s.requesterStopped l).evu = s.evu := by
  unfold State.requesterStopped
  split <;> simp

@[simp] theorem answerBusy_evu (code tag : Byte) : (s.answerBusy l code tag).evu = s.evu := by
  simp [State.answerBusy]

@[simp] theorem takeMessage_evu (octets : List Byte) : (s.takeMessage l octets).evu = s.evu := by
  unfold State.takeMessage
  dsimp only
  split <;> simp

@[simp] theorem dealMessage_evu (octets : List Byte) (mgr : Bool) :
    (s.dealMessage l octets mgr).evu = s.evu := by
  simp [State.dealMessage]

@[simp] theorem stopLink_evu : (s.stopLink l).evu = s.evu := by
  simp [State.stopLink]

theorem handResets_evu (bs : List Block) (o : Block → ResetOrder) :
    (bs.foldl (fun s b => s.handReset (o b)) s).evu = s.evu := by
  induction bs generalizing s with
  | nil => rfl
  | cons b bs ih => rw [List.foldl_cons, ih, handReset_evu]

@[simp] theorem beginReset_evu (req : Req) : (s.beginReset req).evu = s.evu := by
  unfold State.beginReset
  dsimp only
  split <;> exact handResets_evu _ _ _

@[simp] theorem takeReset_evu (req : Req) : (s.takeReset req).evu = s.evu := by
  simp [State.takeReset]

@[simp] theorem finishReset_evu (r : CurrentReset) : (s.finishReset r).evu = s.evu := by
  unfold State.finishReset
  dsimp only
  split <;> simp

@[simp] theorem nextReset_evu : s.nextReset.evu = s.evu := by
  unfold State.nextReset
  split <;> simp

end Management

/-! ## Frame Engine and Route Edit Unit -/

section Routing

variable (s : State)

@[simp] theorem adoptOldest_evu : s.adoptOldest.evu = s.evu := by
  unfold State.adoptOldest
  split
  next hand rest _ =>
    obtain ⟨v, used, he, -⟩ := adopt_eq { s with fe := { s.fe with queue := rest } } hand
    rw [he]
  next => rfl

@[simp] theorem emptyEngine_evu : s.emptyEngine.evu = s.evu := by
  obtain ⟨v, he, -⟩ := emptyEngine_eq s
  rw [he]

theorem reuRequest_evu (k : RequestKind) {f : Req → State → State}
    (h : ∀ req t, (f req t).evu = t.evu) : (s.reuRequest k f).evu = s.evu := by
  simp [State.reuRequest, withRequest_evu s _ _ h]

theorem gated_evu (req : Req) (frozen : Bool) {f : Claim → State → State}
    (h : ∀ c t, (f c t).evu = t.evu) : (s.gated req frozen f).evu = s.evu := by
  unfold State.gated
  split
  · rfl
  · exact h _ _
  · rfl

/-- An editing request behind the claim gate. -/
theorem gatedRequest_evu (k : RequestKind) (frozen : Bool) {f : Req → Claim → State → State}
    (h : ∀ req c t, (f req c t).evu = t.evu) :
    (s.reuRequest k fun req s => s.gated req frozen (f req)).evu = s.evu :=
  reuRequest_evu s k fun req t => gated_evu t req frozen (h req)

@[simp] theorem answerCommit_evu (r : CommitRecord) (adopted : Option (BitVec 32)) :
    (s.answerCommit r adopted).evu = s.evu := by
  simp [State.answerCommit]

@[simp] theorem takeFate_evu (f : Fate) : (s.takeFate f).evu = s.evu := by
  unfold State.takeFate
  split
  · simp
  · split <;> simp

@[simp] theorem withFate_evu (adopted : Bool) : (s.withFate adopted).evu = s.evu := by
  unfold State.withFate
  split <;> simp

@[simp] theorem ownerLost_evu (l : Link) : (s.ownerLost l).evu = s.evu := by
  unfold State.ownerLost
  split
  · split
    · split <;> rfl
    · rfl
  · rfl

end Routing

/-! ## Player Bank and Recorder Unit -/

section Audio

variable (s : State)

@[simp] theorem advancePlayer_evu (p : Player) : (s.advancePlayer p).evu = s.evu := by
  unfold State.advancePlayer
  dsimp only
  split <;> simp

@[simp] theorem takeReadAnswer_evu (p : Player) : (s.takeReadAnswer p).evu = s.evu := by
  unfold State.takeReadAnswer
  dsimp only
  split
  · split <;> simp
  · rfl

theorem plbRequest_evu (which : Req → Bool) {f : Req → State → State}
    (h : ∀ req t, (f req t).evu = t.evu) : (s.plbRequest which f).evu = s.evu := by
  simp [State.plbRequest, withRequest_evu s _ _ h]

@[simp] theorem place_evu (w : PlayWait) (c : Clip) : (s.place w c).evu = s.evu := by
  simp [State.place]

@[simp] theorem takeHoldAnswer_evu : s.takeHoldAnswer.evu = s.evu := by
  unfold State.takeHoldAnswer
  split
  · dsimp only
    split <;> simp
  · rfl

@[simp] theorem stopNow_evu (p : Player) : (s.stopNow p).evu = s.evu := by
  unfold State.stopNow
  split <;> rfl

@[simp] theorem stopEnd_evu (p : Player) : (s.stopEnd p).evu = s.evu := by
  unfold State.stopEnd
  split <;> rfl

theorem rcuRequest_evu (k : RequestKind) {f : Req → State → State}
    (h : ∀ req t, (f req t).evu = t.evu) : (s.rcuRequest k f).evu = s.evu := by
  simp [State.rcuRequest, withRequest_evu s _ _ h]

@[simp] theorem record_evu (r : Rec) (w : Sample) : (s.record r w).evu = s.evu := by
  simp [State.record]

@[simp] theorem recordStart_evu (req : Req) (r : Rec) : (s.recordStart req r).evu = s.evu := by
  unfold State.recordStart
  split <;> rfl

@[simp] theorem recordStop_evu (r : Rec) : (s.recordStop r).evu = s.evu := by
  unfold State.recordStop
  split <;> rfl

@[simp] theorem routingResetRecorder_evu (r : Rec) : (s.routingResetRecorder r).evu = s.evu := by
  unfold State.routingResetRecorder
  split <;> rfl

@[simp] theorem deviceResetRecorder_evu (r : Rec) : (s.deviceResetRecorder r).evu = s.evu := by
  simp [State.deviceResetRecorder]

end Audio

/-! ## Commands of the other blocks -/

/-- Whatever next state an outcome names has the Event Unit of `s`. -/
def LeavesEvu (s : State) (o : Host.Outcome State Fault Refusal) : Prop :=
  ∀ t, o = .next t → t.evu = s.evu

@[simp] theorem leaves_next {s t : State} : LeavesEvu s (.next t) ↔ t.evu = s.evu :=
  ⟨fun h => h t rfl, fun h _ ht => Host.Outcome.next.inj ht ▸ h⟩

@[simp] theorem leaves_fault (s : State) (f : Fault) : LeavesEvu s (.fault f) := fun _ h => nomatch h

@[simp] theorem leaves_refused (s : State) (r : Refusal) : LeavesEvu s (.refused r) :=
  fun _ h => nomatch h

@[simp] theorem leaves_ite (s : State) (c : Prop) {_ : Decidable c}
    (a b : Host.Outcome State Fault Refusal) :
    LeavesEvu s (if c then a else b) ↔ if c then LeavesEvu s a else LeavesEvu s b := by
  split <;> rfl

section Commands

variable (s : State)

/-! ### Link Ports -/

section LinkPortCommands

variable (l : Link)

theorem execReceivedFrame_leaves (w : Word) (payload : Vector Word 64) :
    LeavesEvu s (execReceivedFrame l w payload s) := by
  unfold execReceivedFrame
  dsimp only
  split <;> simp

theorem execNegotiationTimerExpiry_leaves : LeavesEvu s (execNegotiationTimerExpiry l s) := by
  unfold execNegotiationTimerExpiry
  dsimp only
  split <;> simp

theorem execRestHoldTimerExpiry_leaves : LeavesEvu s (execRestHoldTimerExpiry l s) := by
  unfold execRestHoldTimerExpiry
  dsimp only
  split <;> simp

theorem execWakeTimerExpiry_leaves : LeavesEvu s (execWakeTimerExpiry l s) := by
  unfold execWakeTimerExpiry
  dsimp only
  split <;> simp

theorem execUseNotice_leaves : LeavesEvu s (execUseNotice l s) := by
  unfold execUseNotice
  dsimp only
  split
  · split <;> simp
  · simp

theorem execLinkSet_leaves : LeavesEvu s (execLinkSet l s) := by
  refine leaves_next.mpr (linkRequest_evu s l _ _ fun req t => ?_)
  split
  · rfl
  · dsimp only
    split <;> simp

theorem execLinkRenegotiate_leaves : LeavesEvu s (execLinkRenegotiate l s) := by
  refine leaves_next.mpr (linkRequest_evu s l _ _ fun req t => ?_)
  dsimp only
  split <;> simp

theorem execPartnerRead_leaves : LeavesEvu s (execPartnerRead l s) := by
  refine leaves_next.mpr (linkRequest_evu s l _ _ fun req t => ?_)
  split <;> rfl

theorem execCounterQuery_leaves : LeavesEvu s (execCounterQuery l s) := by
  unfold execCounterQuery
  dsimp only
  split <;> simp

end LinkPortCommands

/-! ### Management Unit -/

theorem execMessageTaken_leaves (l : Link) : LeavesEvu s (execMessageTaken l s) := by
  unfold execMessageTaken
  split <;> simp

theorem execSentReport_leaves (l : Link) : LeavesEvu s (execSentReport l s) := by
  unfold execSentReport
  split <;> simp

theorem execDiscardReport_leaves (l : Link) : LeavesEvu s (execDiscardReport l s) := by
  unfold execDiscardReport
  split <;> simp

theorem execStopNotice_leaves (l : Link) : LeavesEvu s (execStopNotice l s) := by
  unfold execStopNotice
  split <;> simp

theorem execOwnerResult_leaves (b : Block) : LeavesEvu s (execOwnerResult b s) := by
  unfold execOwnerResult
  split <;> simp

theorem execNameSet_leaves : LeavesEvu s (execNameSet s) := by
  refine leaves_next.mpr (withRequest_evu s _ _ fun req t => ?_)
  split <;> simp

theorem execResetAck_leaves (b : Block) : LeavesEvu s (execResetAck b s) := by
  unfold execResetAck
  dsimp only
  split
  · split <;> simp
  · simp

/-! ### Frame Engine -/

theorem execHandOff_leaves : LeavesEvu s (execHandOff s) := by
  unfold execHandOff
  split <;> simp

theorem execLinkViewNotice_leaves (l : Link) : LeavesEvu s (execLinkViewNotice l s) := by
  unfold execLinkViewNotice
  split <;> simp

theorem execActiveTableCopy_leaves : LeavesEvu s (execActiveTableCopy s) := by
  unfold execActiveTableCopy
  split <;> simp

theorem execLinkViewSnapshot_leaves : LeavesEvu s (execLinkViewSnapshot s) := by
  unfold execLinkViewSnapshot
  split <;> simp

theorem execGainAdjustApply_leaves : LeavesEvu s (execGainAdjustApply s) := by
  unfold execGainAdjustApply
  split
  · split <;> simp
  · simp

theorem execEntryReadActive_leaves : LeavesEvu s (execEntryReadActive s) := by
  refine leaves_next.mpr (withRequest_evu s _ _ fun req t => ?_)
  dsimp only
  split
  · rfl
  · split <;> rfl

theorem execClaimAnswer_leaves : LeavesEvu s (execClaimAnswer s) := by
  unfold execClaimAnswer
  split <;> simp

theorem execFeReset_leaves : LeavesEvu s (execFeReset s) := by
  refine leaves_next.mpr (withReset_evu s _ fun o t => ?_)
  dsimp only
  split <;> simp

/-! ### Route Edit Unit -/

theorem execEditOpen_leaves : LeavesEvu s (execEditOpen s) := by
  refine leaves_next.mpr (reuRequest_evu s _ fun req t => ?_)
  dsimp only
  split
  · rfl
  · split <;> rfl

theorem execCopyAnswer_leaves : LeavesEvu s (execCopyAnswer s) := by
  unfold execCopyAnswer
  dsimp only
  split
  · split
    · simp
    · split <;> simp
  · simp

theorem execEntryPut_leaves : LeavesEvu s (execEntryPut s) := by
  refine leaves_next.mpr (gatedRequest_evu s _ _ fun req c t => ?_)
  dsimp only
  split
  · rfl
  · split <;> rfl

theorem execEntryReadStaging_leaves : LeavesEvu s (execEntryReadStaging s) := by
  refine leaves_next.mpr (gatedRequest_evu s _ _ fun req c t => ?_)
  dsimp only
  split
  · rfl
  · split <;> rfl

theorem execSnapshotAnswer_leaves : LeavesEvu s (execSnapshotAnswer s) := by
  unfold execSnapshotAnswer
  split
  · refine leaves_next.mpr (gated_evu _ _ _ fun c t => ?_)
    dsimp only
    split
    · split <;> rfl
    · rfl
  · simp

theorem execGainAdjustAnswer_leaves : LeavesEvu s (execGainAdjustAnswer s) := by
  unfold execGainAdjustAnswer
  split <;> simp

theorem execHoldTimerExpiry_leaves : LeavesEvu s (execHoldTimerExpiry s) := by
  unfold execHoldTimerExpiry
  split
  · split <;> simp
  · simp

/-! ### Sample Store -/

theorem takePlayerRead_leaves (p : Player) : LeavesEvu s (s.takePlayerRead p) := by
  unfold State.takePlayerRead
  split <;> simp

theorem execRecorderWrite_leaves : LeavesEvu s (execRecorderWrite s) := by
  unfold execRecorderWrite
  split <;> simp

theorem execHoldRequest_leaves : LeavesEvu s (execHoldRequest s) := by
  unfold execHoldRequest
  dsimp only
  split
  · split <;> simp
  · simp

theorem execReleaseNotice_leaves : LeavesEvu s (execReleaseNotice s) := by
  unfold execReleaseNotice
  split <;> simp

theorem execRegionRequest_leaves : LeavesEvu s (execRegionRequest s) := by
  unfold execRegionRequest
  dsimp only
  split
  · split <;> simp
  · simp

theorem execRegionRelease_leaves : LeavesEvu s (execRegionRelease s) := by
  unfold execRegionRelease
  split <;> simp

theorem execRunningNotice_leaves : LeavesEvu s (execRunningNotice s) := by
  unfold execRunningNotice
  split <;> simp

theorem execMemoryWrite_leaves : LeavesEvu s (execMemoryWrite s) := by
  refine leaves_next.mpr (withRequest_evu s _ _ fun req t => ?_)
  dsimp only
  split
  · rfl
  · split
    · rfl
    · split <;> rfl

theorem execClipDefine_leaves : LeavesEvu s (execClipDefine s) := by
  refine leaves_next.mpr (withRequest_evu s _ _ fun req t => ?_)
  split <;> simp

theorem execClipRead_leaves : LeavesEvu s (execClipRead s) := by
  refine leaves_next.mpr (withRequest_evu s _ _ fun req t => ?_)
  dsimp only
  split
  · rfl
  · split <;> rfl

/-! ### Player Bank -/

theorem settleReads_leaves (ps : List Player) : LeavesEvu s (s.settleReads ps) := by
  induction ps generalizing s with
  | nil => exact leaves_next.mpr rfl
  | cons p ps ih =>
    unfold State.settleReads
    split
    next u hu =>
      intro t ht
      rw [ih _ t ht, takeReadAnswer_evu, takePlayerRead_leaves s p u hu]
    · exact leaves_fault s _
    · exact leaves_refused s _

/-- An event of the Player Bank, taken once its outstanding reads are completed. -/
theorem afterReads_leaves {f : State → State} (h : ∀ t, (f t).evu = t.evu) :
    LeavesEvu s (s.afterReads f) := by
  intro t ht
  obtain ⟨u, hu, rfl⟩ := afterReads_next ht
  rw [h, settleReads_leaves s allEight u hu]

theorem execPlayNow_leaves : LeavesEvu s (execPlayNow s) := by
  refine afterReads_leaves s fun t => plbRequest_evu t _ fun req u => ?_
  split <;> rfl

theorem execPlayNext_leaves : LeavesEvu s (execPlayNext s) := by
  refine afterReads_leaves s fun t => plbRequest_evu t _ fun req u => ?_
  split
  · rfl
  · dsimp only
    split
    · rfl
    · split <;> rfl

theorem execStopNow_leaves : LeavesEvu s (execStopNow s) := by
  refine afterReads_leaves s fun t => plbRequest_evu t _ fun req u => ?_
  split <;> simp

theorem execStopEnd_leaves : LeavesEvu s (execStopEnd s) := by
  refine afterReads_leaves s fun t => plbRequest_evu t _ fun req u => ?_
  split <;> simp

/-! ### Recorder Unit -/

theorem execRecorderInputWord_leaves (r : Rec) : LeavesEvu s (execRecorderInputWord r s) := by
  unfold execRecorderInputWord
  dsimp only
  split
  · split <;> simp
  · simp

theorem execRecordSetup_leaves : LeavesEvu s (execRecordSetup s) := by
  refine leaves_next.mpr (rcuRequest_evu s _ fun req t => ?_)
  split
  · rfl
  · dsimp only
    split <;> rfl

theorem execRegionAnswer_leaves : LeavesEvu s (execRegionAnswer s) := by
  unfold execRegionAnswer
  dsimp only
  split
  · split
    · simp
    · split <;> simp
  · simp

theorem execRcuReset_leaves : LeavesEvu s (execRcuReset s) := by
  refine leaves_next.mpr (withReset_evu s _ fun o t => ?_)
  split <;> simp

/-! ### Every command of another block -/

/-- The commands of the Event Unit, and hardware reset. -/
def ofEvents : Instr → Bool
  | .hardwareReset _ _
  | .eventReport _ | .eventsRead | .counterNotice | .countersRead | .counterAnswer | .indicatorSet
  | .stateNotice _ | .completionReport _ | .pulseTimerExpiry _ | .blinkPhase _ | .evuReset => true
  | _ => false

/-- Every command of another block leaves the Event Unit as it is. -/
theorem exec_leaves (i : Instr) (hi : ofEvents i = false) : LeavesEvu s (exec i s) := by
  cases i with
  -- a Link Port
  | receivedFrame l service payload => exact execReceivedFrame_leaves s l service payload
  | alignmentAcquired l => exact leaves_next.mpr (onlyLink_evu (.dueAlignmentAcquired l s))
  | alignmentLoss l => exact leaves_next.mpr (onlyLink_evu (.dueAlignmentLoss l s))
  | windowPass l => exact leaves_next.mpr (onlyLink_evu (.dueWindowPass l s))
  | windowFail l => exact leaves_next.mpr (onlyLink_evu (.dueWindowFail l s))
  | trainLimit l => exact leaves_next.mpr (onlyLink_evu (.dueTrainLimit l s))
  | signalDetect l => simp [exec, execSignalDetect]
  | signalLoss l => simp [exec, execSignalLoss]
  | negotiationTimerExpiry l => exact execNegotiationTimerExpiry_leaves s l
  | restoreTimerExpiry l => simp [exec, execRestoreTimerExpiry]
  | restHoldTimerExpiry l => exact execRestHoldTimerExpiry_leaves s l
  | restEntered l => exact leaves_next.mpr (onlyLink_evu (.dueRestEntered l s))
  | clearRunComplete l => exact leaves_next.mpr (onlyLink_evu (.dueClearRunComplete l s))
  | wakeTimerExpiry l => exact execWakeTimerExpiry_leaves s l
  | useNotice l => exact execUseNotice_leaves s l
  | linkFrameTransmit l => simp [exec, execLinkFrameTransmit]
  | responseSent l => exact leaves_next.mpr (onlyLink_evu (.dueResponseSent l s))
  | messageDiscardReport l => simp [exec, execMessageDiscardReport]
  | heldMove l => simp [exec, execHeldMove]
  | lpReset l =>
    exact leaves_next.mpr ((withReset_evu _ _ fun _ t => resetLp_evu t l).trans (settleLink_evu s l))
  | linkSet l => exact execLinkSet_leaves s l
  | linkStatus l => exact leaves_next.mpr (linkRequest_evu s l _ _ fun _ _ => rfl)
  | linkRenegotiate l => exact execLinkRenegotiate_leaves s l
  | partnerRead l => exact execPartnerRead_leaves s l
  | counterQuery l => exact execCounterQuery_leaves s l
  -- the Management Unit
  | sentReport l => exact execSentReport_leaves s l
  | discardReport l => exact execDiscardReport_leaves s l
  | stopNotice l => exact execStopNotice_leaves s l
  | messageTaken l => exact execMessageTaken_leaves s l
  | ownerResult b => exact execOwnerResult_leaves s b
  | eventsWaitingQuery => exact leaves_next.mpr (queryEvents_evu s)
  | identify => exact leaves_next.mpr (withRequest_evu s _ _ fun _ t => answerOwn_evu t _ _ _)
  | nameSet => exact execNameSet_leaves s
  | resetRouting => exact leaves_next.mpr (withRequest_evu s _ _ fun req t => takeReset_evu t req)
  | resetDevice => exact leaves_next.mpr (withRequest_evu s _ _ fun req t => takeReset_evu t req)
  | resetAck b => exact execResetAck_leaves s b
  -- the Frame Engine
  | feFrameBoundary => exact leaves_next.mpr (adoptOldest_evu s)
  | handOff => exact execHandOff_leaves s
  | linkViewNotice l => exact execLinkViewNotice_leaves s l
  | activeTableCopy => exact execActiveTableCopy_leaves s
  | linkViewSnapshot => exact execLinkViewSnapshot_leaves s
  | gainAdjustApply => exact execGainAdjustApply_leaves s
  | entryReadActive => exact execEntryReadActive_leaves s
  | tableSummaryActive => exact leaves_next.mpr (withRequest_evu s _ _ fun _ _ => rfl)
  | engineStatus => exact leaves_next.mpr (withRequest_evu s _ _ fun _ _ => rfl)
  | claimAnswer => exact execClaimAnswer_leaves s
  | feReset => exact execFeReset_leaves s
  -- the Route Edit Unit
  | editOpen => exact execEditOpen_leaves s
  | copyAnswer => exact execCopyAnswer_leaves s
  | entryPut => exact execEntryPut_leaves s
  | entryDelete => exact leaves_next.mpr (gatedRequest_evu s _ _ fun _ _ _ => by simp)
  | entryReadStaging => exact execEntryReadStaging_leaves s
  | tableSummaryStaging => exact leaves_next.mpr (gatedRequest_evu s _ _ fun _ _ _ => rfl)
  | editAbandon => exact leaves_next.mpr (gatedRequest_evu s _ _ fun _ _ _ => rfl)
  | tableCheck => exact leaves_next.mpr (gatedRequest_evu s _ _ fun _ _ _ => rfl)
  | tableCommit => exact leaves_next.mpr (gatedRequest_evu s _ _ fun _ _ _ => rfl)
  | snapshotAnswer => exact execSnapshotAnswer_leaves s
  | gainAdjust => exact leaves_next.mpr (reuRequest_evu s _ fun _ _ => by simp)
  | gainAdjustAnswer => exact execGainAdjustAnswer_leaves s
  | adoptionNotice => exact leaves_next.mpr (withFate_evu s true)
  | discardNotice => exact leaves_next.mpr (withFate_evu s false)
  | claimQuery => simp [exec, execClaimQuery]
  | holdTimerExpiry => exact execHoldTimerExpiry_leaves s
  | linkLossNotice l => simp [exec, execLinkLossNotice]
  | reuReset => exact leaves_next.mpr (withReset_evu s _ fun _ _ => rfl)
  -- the Sample Store
  | memoryClearComplete => simp [exec, execMemoryClearComplete]
  | playerRead p => exact takePlayerRead_leaves s p
  | recorderWrite => exact execRecorderWrite_leaves s
  | holdRequest => exact execHoldRequest_leaves s
  | releaseNotice => exact execReleaseNotice_leaves s
  | regionRequest => exact execRegionRequest_leaves s
  | regionRelease => exact execRegionRelease_leaves s
  | runningNotice => exact execRunningNotice_leaves s
  | memoryWrite => exact execMemoryWrite_leaves s
  | memoryRead => exact leaves_next.mpr (withRequest_evu s _ _ fun _ _ => by simp)
  | clipDefine => exact execClipDefine_leaves s
  | clipDelete => exact leaves_next.mpr (withRequest_evu s _ _ fun _ _ => by simp)
  | clipRead => exact execClipRead_leaves s
  -- the Player Bank
  | plbFrameBoundary => exact afterReads_leaves s fun _ => rfl
  | playerReadAnswer p => exact leaves_next.mpr (takeReadAnswer_evu s p)
  | holdAnswer => exact afterReads_leaves s takeHoldAnswer_evu
  | playNow => exact execPlayNow_leaves s
  | playNext => exact execPlayNext_leaves s
  | stopNow => exact execStopNow_leaves s
  | stopEnd => exact execStopEnd_leaves s
  | playerStatus => exact afterReads_leaves s fun t => plbRequest_evu t _ fun _ _ => by simp
  | plbReset => exact afterReads_leaves s fun t => withReset_evu t _ fun _ _ => rfl
  -- the Recorder Unit
  | recorderInputWord r => exact execRecorderInputWord_leaves s r
  | regionAnswer => exact execRegionAnswer_leaves s
  | recordSetup => exact execRecordSetup_leaves s
  | recordStart => exact leaves_next.mpr (rcuRequest_evu s _ fun _ _ => by simp)
  | recordStop => exact leaves_next.mpr (rcuRequest_evu s _ fun _ _ => by simp)
  | recorderStatus => exact leaves_next.mpr (rcuRequest_evu s _ fun _ _ => by simp)
  | rcuReset => exact execRcuReset_leaves s
  -- the Event Unit, and hardware reset
  | _ => cases hi

end Commands

end Sys2Proof.EventUnit
end

section
/-! SUPPORT. The event list stays sound (R182, R183, R185, R192): what storing, reading and resetting do to the
sequence numbers, and that every step keeps them consecutive. -/

namespace Sys2Proof.EventUnit

open Sys2Proof.Machine Sys2Proof.Laws

/-! ## The event list (R182, R183, R185) -/

section EventList

variable {e : EVU}

/-- The soundness of the event list depends on nothing else. -/
theorem sound_congr {e' : EVU} (he : e.Sound) (hevents : e'.events = e.events) (hseq : e'.seq = e.seq) :
    e'.Sound := by
  unfold EVU.Sound
  rw [hevents, hseq]
  exact he

theorem sound_of_empty (h : e.events = []) : e.Sound := by
  unfold EVU.Sound
  rw [h]
  exact ⟨Nat.zero_le 64, fun i hi => absurd hi (Nat.not_lt_zero i)⟩

/-- A record's distance from the sequence counter grows with the counter. -/
theorem sub_ofNat_succ (seq : BitVec 16) (n : Nat) :
    seq + 1 - BitVec.ofNat 16 (n + 1) = seq - BitVec.ofNat 16 n := by
  rw [BitVec.ofNat_add]
  exact add_sub_add_right_eq_sub seq _ _

/-- R183: a stored record takes the counter's value, which then goes up by one. -/
theorem store_sound (he : e.Sound) (r : Report) : (e.store r).Sound := by
  obtain ⟨hlength, hnumbers⟩ := he
  by_cases hbelow : e.events.length < 64
  · rw [store_below r hbelow]
    refine ⟨by simpa using hbelow, fun i hi => ?_⟩
    simp only [List.length_append, List.length_singleton] at hi ⊢
    obtain hold | rfl : i < e.events.length ∨ i = e.events.length := by omega
    · rw [List.getElem_append_left hold, hnumbers i hold, Nat.sub_add_comm (Nat.le_of_lt hold),
        sub_ofNat_succ]
    · rw [List.getElem_concat_length rfl, Nat.add_sub_cancel_left]
      exact (add_sub_cancel_right e.seq 1).symm
  · rw [store_full r (Nat.not_lt.mp hbelow)]
    exact ⟨hlength, hnumbers⟩

/-- R185: the records that stay are the newest, and keep their numbers. -/
theorem drop_sound (he : e.Sound) (n : Nat) :
    EVU.Sound { e with events := e.events.drop n, overflow := 0 } := by
  obtain ⟨hlength, hnumbers⟩ := he
  refine ⟨(List.length_drop ..).trans_le ((Nat.sub_le ..).trans hlength), fun i hi => ?_⟩
  simp only [List.length_drop] at hi ⊢
  rw [List.getElem_drop, hnumbers (n + i) (by omega), Nat.sub_sub]

/-- R192: RESET DEVICE stores START in an empty list, which is sound. -/
theorem deviceReset_sound (e : EVU) : e.deviceReset.Sound :=
  store_sound (sound_of_empty rfl) _

end EventList

/-! ## Every step -/

/-- Whatever next state an outcome names has a sound event list. -/
def SoundNext (o : Host.Outcome State Fault Refusal) : Prop := ∀ t, o = .next t → t.evu.Sound

theorem soundNext_next {t : State} (h : t.evu.Sound) : SoundNext (.next t) :=
  fun _ ht => Host.Outcome.next.inj ht ▸ h

theorem soundNext_of_leaves {s : State} {o : Host.Outcome State Fault Refusal} (hs : s.evu.Sound)
    (h : LeavesEvu s o) : SoundNext o := fun t ht => (h t ht).symm ▸ hs

section Commands

variable {s : State}

/-- A request of the Event Unit that keeps the list sound when it is carried out. -/
theorem evuRequest_sound (hs : s.evu.Sound) (k : RequestKind) {f : Req → State → State}
    (hf : ∀ req t, t.evu.Sound → (f req t).evu.Sound) : (s.evuRequest k f).evu.Sound := by
  unfold State.evuRequest
  split
  · exact withRequest_evu_of hs hf .evu _
  · exact hs

theorem execEventReport_sound (hs : s.evu.Sound) (b : Block) : SoundNext (execEventReport b s) := by
  unfold execEventReport
  split
  next r rest _ => exact soundNext_next (store_sound hs r.2)
  next => exact soundNext_next hs

theorem execEventsRead_sound (hs : s.evu.Sound) : SoundNext (execEventsRead s) := by
  refine soundNext_next (evuRequest_sound hs _ fun req t ht => ?_)
  dsimp only
  split
  · exact ht
  · exact drop_sound ht _

theorem execCounterNotice_sound (hs : s.evu.Sound) : SoundNext (execCounterNotice s) := by
  unfold execCounterNotice
  split
  · exact soundNext_next (sound_congr hs rfl rfl)
  · exact soundNext_next hs

theorem execCountersRead_sound (hs : s.evu.Sound) : SoundNext (execCountersRead s) := by
  refine soundNext_next (evuRequest_sound hs _ fun req t ht => ?_)
  dsimp only
  split
  · exact ht
  · split
    · exact ht
    · exact sound_congr ht rfl rfl

theorem execCounterAnswer_sound (hs : s.evu.Sound) : SoundNext (execCounterAnswer s) := by
  unfold execCounterAnswer
  split
  · exact soundNext_next (sound_congr hs rfl rfl)
  · exact soundNext_next hs

theorem execIndicatorSet_sound (hs : s.evu.Sound) : SoundNext (execIndicatorSet s) := by
  refine soundNext_next (evuRequest_sound hs _ fun req t ht => ?_)
  dsimp only
  split
  · exact ht
  · split
    · exact ht
    · split
      · exact ht
      · exact sound_congr ht rfl rfl

theorem execStateNotice_sound (hs : s.evu.Sound) (l : Link) : SoundNext (execStateNotice l s) := by
  unfold execStateNotice
  split
  · exact soundNext_next (sound_congr hs rfl rfl)
  · exact soundNext_next hs

theorem execCompletionReport_sound (hs : s.evu.Sound) (l : Link) :
    SoundNext (execCompletionReport l s) := by
  unfold execCompletionReport
  split
  · exact soundNext_next (sound_congr hs rfl rfl)
  · exact soundNext_next hs

theorem execBlinkPhase_sound (hs : s.evu.Sound) (g : Blink) : SoundNext (execBlinkPhase g s) := by
  cases g <;> exact soundNext_next (sound_congr hs rfl rfl)

theorem execEvuReset_sound (hs : s.evu.Sound) : SoundNext (execEvuReset s) := by
  refine soundNext_next (withReset_evu_of hs (fun o t ht => ?_) .evu)
  split
  · exact deviceReset_sound _
  · exact store_sound ht _

/-- Every command: the Event Unit's own keep the list sound, hardware reset leaves a sound one, and those of
the other blocks leave it alone. -/
theorem exec_sound (hs : s.evu.Sound) (i : Instr) : SoundNext (exec i s) := by
  cases i with
  | hardwareReset msel unit => exact soundNext_next ResetValues.eventList_reset
  | eventReport b => exact execEventReport_sound hs b
  | eventsRead => exact execEventsRead_sound hs
  | counterNotice => exact execCounterNotice_sound hs
  | countersRead => exact execCountersRead_sound hs
  | counterAnswer => exact execCounterAnswer_sound hs
  | indicatorSet => exact execIndicatorSet_sound hs
  | stateNotice l => exact execStateNotice_sound hs l
  | completionReport l => exact execCompletionReport_sound hs l
  | pulseTimerExpiry n => exact soundNext_next (sound_congr hs rfl rfl)
  | blinkPhase g => exact execBlinkPhase_sound hs g
  | evuReset => exact execEvuReset_sound hs
  | _ => exact soundNext_of_leaves hs (exec_leaves s _ rfl)

/-- R189, R190: a tick moves timers and generators alone. -/
theorem tick_sound (hs : s.evu.Sound) : s.tick.evu.Sound := sound_congr hs rfl rfl

end Commands

/-- Settles O4: a tick leaves the list alone, and every command keeps it sound. -/
theorem stepKeepsTheEventList : Obligations.StepKeepsTheEventList := by
  intro s t hs hstep
  unfold step at hstep
  split at hstep
  next c rest _ => exact exec_sound (s := { s with pending := rest }) hs c t hstep
  next => exact soundNext_next (tick_sound hs) t hstep

end Sys2Proof.EventUnit
end

section
/-! SUPPORT. What the frames of the blocks have in common. A frame says what an event may change; each lets the
messages between blocks change, so it holds of a request or a reset that is taken as soon as it holds of what is
then done. -/

namespace Sys2Proof.BlockFrames

open Sys2Proof.Machine Sys2Proof.Laws

/-- A frame, between the state before an event and the state after it: nothing need change, changes add up, and
the messages between blocks may change. -/
structure Frame (R : State → State → Prop) : Prop where
  refl : ∀ s, R s s
  trans : ∀ {s t u}, R s t → R t u → R s u
  onMail : ∀ s f, R s (s.onMail f)

/-- Whatever next state an outcome names lies within the frame. -/
def Within (R : State → State → Prop) (s : State) (o : Host.Outcome State Fault Refusal) : Prop :=
  ∀ t, o = .next t → R s t

section Outcomes

variable {R : State → State → Prop} {s : State}

theorem within_next {t : State} : Within R s (.next t) ↔ R s t :=
  ⟨fun h => h t rfl, fun h _ ht => Host.Outcome.next.inj ht ▸ h⟩

theorem within_fault (f : Fault) : Within R s (.fault f) := fun _ h => nomatch h

theorem within_refused (r : Refusal) : Within R s (.refused r) := fun _ h => nomatch h

end Outcomes

namespace Frame

variable {R : State → State → Prop} (hR : Frame R) {s t : State}

/-- A branch on a condition stays within the frame when both ways do. -/
theorem branch {c : Prop} [Decidable c] {a b : State} (ha : R s a) (hb : R s b) : R s (if c then a else b) := by
  split
  · exact ha
  · exact hb

include hR

theorem thenMail (h : R s t) (f : Mail → Mail) : R s (t.onMail f) := hR.trans h (hR.onMail t f)

theorem afterMail {f : Mail → Mail} (h : R (s.onMail f) t) : R s t := hR.trans (hR.onMail s f) h

/-- R169: a result handed to the Management Unit. -/
theorem answer (s : State) (b : Block) (req : Req) (code : ResultCode) (body : List Byte)
    (d : Option Deferred) : R s (s.answer b req code body d) := hR.onMail s _

theorem badField (s : State) (b : Block) (req : Req) (field : Nat) : R s (s.badField b req field) :=
  hR.answer s b req _ _ _

/-- What an event does after an earlier change. -/
theorem within_trans {o : Host.Outcome State Fault Refusal} (h : R s t) (ho : Within R t o) : Within R s o :=
  fun u hu => hR.trans h (ho u hu)

/-- R169: a request taken by its owner. -/
theorem withRequest (s : State) (b : Block) (which : Req → Bool) {f : Req → State → State}
    (h : ∀ req t, R t (f req t)) : R s (s.withRequest b which f) := by
  unfold State.withRequest
  split
  · exact branch (hR.afterMail (h _ _)) (hR.refl s)
  · exact hR.refl s

/-- R177: a reset taken by its block. -/
theorem withReset (s : State) (b : Block) {f : ResetOrder → State → State} (h : ∀ o t, R t (f o t)) :
    R s (s.withReset b f) := by
  unfold State.withReset
  split
  next o rest _ =>
    have hdone : R s (f o (s.onMail fun m => { m with resets := rest })) := hR.afterMail (h o _)
    exact branch (hR.thenMail hdone _) hdone
  next => exact hR.refl s

/-- R26: a request of the Route Edit Unit. -/
theorem reuRequest (s : State) (k : RequestKind) {f : Req → State → State} (h : ∀ req t, R t (f req t)) :
    R s (s.reuRequest k f) := branch (hR.withRequest s _ _ h) (hR.refl s)

/-- R28: a request of the Route Edit Unit behind its claim gate. -/
theorem gated (s : State) (req : Req) (frozen : Bool) {f : Claim → State → State} (h : ∀ c t, R t (f c t)) :
    R s (s.gated req frozen f) := by
  unfold State.gated
  split
  · exact hR.onMail s _
  · exact h _ _
  · exact hR.refl s

theorem gatedRequest (s : State) (k : RequestKind) (frozen : Bool) {f : Req → Claim → State → State}
    (h : ∀ req c t, R t (f req c t)) : R s (s.reuRequest k fun req s => s.gated req frozen (f req)) :=
  hR.reuRequest s k fun req t => hR.gated t req frozen (h req)

/-- R147: a request of the Player Bank. -/
theorem plbRequest (s : State) (which : Req → Bool) {f : Req → State → State} (h : ∀ req t, R t (f req t)) :
    R s (s.plbRequest which f) := branch (hR.withRequest s _ _ h) (hR.refl s)

/-- R158: a request of the Recorder Unit. -/
theorem rcuRequest (s : State) (k : RequestKind) {f : Req → State → State} (h : ∀ req t, R t (f req t)) :
    R s (s.rcuRequest k f) := branch (hR.withRequest s _ _ h) (hR.refl s)

/-- R186: a request of the Event Unit. -/
theorem evuRequest (s : State) (k : RequestKind) {f : Req → State → State} (h : ∀ req t, R t (f req t)) :
    R s (s.evuRequest k f) := branch (hR.withRequest s _ _ h) (hR.refl s)

end Frame

/-- R169: what holds where the oldest request handed to the block is taken, and where none is, holds of a block that
takes a request. -/
theorem withRequest_elim {P : State → Prop} {s : State} {b : Block} {which : Req → Bool}
    {f : Req → State → State} (htaken : ∀ req s', Handed b req s s' → which req = true → P (f req s'))
    (hnone : P s) : P (s.withRequest b which f) := by
  unfold State.withRequest
  split
  next x rest hfirst =>
    obtain ⟨b', req⟩ := x
    obtain ⟨-, hb, -⟩ := takeFirst_mem hfirst
    obtain rfl : b' = b := beq_iff_eq.mp hb
    split
    next hwhich => exact htaken req _ ⟨rest, takeFirst_eq_some.mp hfirst, rfl⟩ hwhich
    next => exact hnone
  next => exact hnone

/-! ## The frame of each block -/

section Blocks

theorem frame_onlyLink (l : Link) : Frame (OnlyLink l) := ⟨.refl l, .trans, .onMail l⟩

theorem frame_onlyFe : Frame OnlyFe := ⟨fun _ => rfl, fun h k => by rw [OnlyFe, k, h], fun _ _ => rfl⟩

theorem frame_onlyReu : Frame OnlyReu := ⟨fun _ => rfl, fun h k => by rw [OnlyReu, k, h], fun _ _ => rfl⟩

theorem frame_onlyPlb : Frame OnlyPlb := ⟨fun _ => rfl, fun h k => by rw [OnlyPlb, k, h], fun _ _ => rfl⟩

theorem frame_onlyRcu : Frame OnlyRcu := ⟨fun _ => rfl, fun h k => by rw [OnlyRcu, k, h], fun _ _ => rfl⟩

theorem frame_onlyEvu : Frame OnlyEvu := ⟨fun _ => rfl, fun h k => by rw [OnlyEvu, k, h], fun _ _ => rfl⟩

theorem frame_onlySst : Frame OnlySst := ⟨fun _ => rfl, fun h k => by rw [OnlySst, k, h], fun _ _ => rfl⟩

variable {s t : State}

theorem onlyLink_sst {l : Link} (h : OnlyLink l s t) : t.sst = s.sst := by rw [h.rest]

theorem onlyFe_sst (h : OnlyFe s t) : t.sst = s.sst := by rw [h]

theorem onlyReu_sst (h : OnlyReu s t) : t.sst = s.sst := by rw [h]

theorem onlyPlb_sst (h : OnlyPlb s t) : t.sst = s.sst := by rw [h]

theorem onlyRcu_sst (h : OnlyRcu s t) : t.sst = s.sst := by rw [h]

theorem onlyEvu_sst (h : OnlyEvu s t) : t.sst = s.sst := by rw [h]

theorem onlyMgu_sst {l : Link} (h : OnlyMgu l s t) : t.sst = s.sst := by rw [h.rest]

/-- Where the Sample Store stays as it is, every word of memory does. -/
theorem sameMemory_of_sst (h : t.sst = s.sst) : SameMemory s t := fun a => by rw [h]

/-- A frame that leaves the Sample Store alone leaves memory alone. -/
theorem Within.withMemory {R : State → State → Prop} {o : Host.Outcome State Fault Refusal}
    (h : Within R s o) (hsst : ∀ {t}, R s t → t.sst = s.sst) :
    Within (fun s t => R s t ∧ SameMemory s t) s o :=
  fun t ht => ⟨h t ht, sameMemory_of_sst (hsst (h t ht))⟩

end Blocks

end Sys2Proof.BlockFrames
end

section
/-! SUPPORT. The commands of a Link Port (R75 to R128): each begins with what is due there, and whatever it does then
changes that Link Port and the messages between blocks alone. -/

namespace Sys2Proof.BlockFrames

open Sys2Proof.Machine Sys2Proof.Laws

section LinkPorts

variable {s : State} {l : Link}

/-- Log entry 10: an event taken once what is due at its Link Port has been settled. -/
theorem within_settleLink {o : Host.Outcome State Fault Refusal}
    (h : Within (OnlyLink l) (s.settleLink l) o) : Within (OnlyLink l) s o :=
  (frame_onlyLink l).within_trans (.settleLink l s) h

/-- A request of a Link Port. -/
theorem within_linkRequest {b : Block} {which : Req → Bool} {f : Req → State → State}
    (h : ∀ req t, OnlyLink l t (f req t)) :
    Within (OnlyLink l) s (.next ((s.settleLink l).withRequest b which f)) :=
  within_settleLink (within_next.mpr (.withRequest l _ b which f h))

variable (s l)

theorem execReceivedFrame_within (w : Word) (payload : Vector Word 64) :
    Within (OnlyLink l) s (execReceivedFrame l w payload s) := by
  unfold execReceivedFrame
  dsimp only
  refine within_settleLink ?_
  split
  · exact within_next.mpr (.refl l _)
  · exact within_next.mpr (.refl l _)
  · exact within_next.mpr (.onLp l _ _)
  · exact within_next.mpr (.frameNegotiate l _ w)
  · exact within_next.mpr (.frameTrain l _ w payload)
  all_goals exact within_next.mpr (.frameRunning l _ w payload)

theorem execSignalDetect_within : Within (OnlyLink l) s (execSignalDetect l s) := by
  unfold execSignalDetect
  dsimp only
  refine within_settleLink ?_
  split
  · exact within_next.mpr (.moveLink l _ _)
  · exact within_next.mpr (.refl l _)

theorem execSignalLoss_within : Within (OnlyLink l) s (execSignalLoss l s) := by
  unfold execSignalLoss
  dsimp only
  refine within_settleLink ?_
  split
  · exact within_next.mpr (.refl l _)
  · split
    · exact within_next.mpr (.thenMove (.onMail l _ _) _)
    · exact within_next.mpr (.moveLink l _ _)

theorem execNegotiationTimerExpiry_within :
    Within (OnlyLink l) s (execNegotiationTimerExpiry l s) := by
  unfold execNegotiationTimerExpiry
  dsimp only
  refine within_settleLink ?_
  split
  · split
    · exact within_next.mpr (.thenMove (.onLp l _ _) _)
    · exact within_next.mpr (.refl l _)
  · exact within_next.mpr (.refl l _)

theorem execRestHoldTimerExpiry_within : Within (OnlyLink l) s (execRestHoldTimerExpiry l s) := by
  unfold execRestHoldTimerExpiry
  dsimp only
  refine within_settleLink ?_
  split
  · split
    · exact within_next.mpr (.onLp l _ _)
    · exact within_next.mpr (.refl l _)
  · exact within_next.mpr (.refl l _)

theorem execWakeTimerExpiry_within : Within (OnlyLink l) s (execWakeTimerExpiry l s) := by
  unfold execWakeTimerExpiry
  dsimp only
  refine within_settleLink ?_
  split
  · split
    · exact within_next.mpr (.thenMove (.onMail l _ _) _)
    · exact within_next.mpr (.refl l _)
  · exact within_next.mpr (.refl l _)

theorem execUseNotice_within : Within (OnlyLink l) s (execUseNotice l s) := by
  unfold execUseNotice
  dsimp only
  refine within_settleLink ?_
  split
  · split
    · exact within_next.mpr (.onMail l _ _)
    · exact within_next.mpr (.trans (.onMail l _ _) (.useChanged l _ _))
  · exact within_next.mpr (.refl l _)

theorem execMessageDiscardReport_within :
    Within (OnlyLink l) s (execMessageDiscardReport l s) := by
  unfold execMessageDiscardReport
  dsimp only
  refine within_settleLink ?_
  split
  · exact within_next.mpr (.thenLp (.onMail l _ _) _)
  · exact within_next.mpr (.refl l _)

theorem execHeldMove_within : Within (OnlyLink l) s (execHeldMove l s) := by
  unfold execHeldMove
  dsimp only
  refine within_settleLink ?_
  split
  · exact within_next.mpr (.trans (.onMail l _ _) (.carryHeldMove l _))
  · exact within_next.mpr (.refl l _)

theorem execLinkSet_within : Within (OnlyLink l) s (execLinkSet l s) := by
  refine within_linkRequest fun req t => ?_
  split
  next => exact (frame_onlyLink l).badField t _ req _
  next =>
    extract_lets old cfg changed set restored applied r
    have hset : OnlyLink l t set := .onLp l t _
    have hrestored : OnlyLink l t restored := Frame.branch (hset.trans (.restoreAdvert l _)) hset
    have happlied : OnlyLink l t applied := (hrestored.thenLp _).trans (.restoreExpired l _)
    have hmoved : OnlyLink l applied r.1 := by
      unfold r
      split
      · exact .requestMove l _ _ _
      · exact .refl l _
    exact (happlied.trans hmoved).thenMail _

theorem execLinkRenegotiate_within : Within (OnlyLink l) s (execLinkRenegotiate l s) := by
  refine within_linkRequest fun req t => ?_
  extract_lets restored r
  have hrestored : OnlyLink l t restored := (OnlyLink.restoreAdvert l t).thenLp _
  have hmoved : OnlyLink l restored r.1 := by
    unfold r
    split
    · exact .requestMove l _ _ _
    · exact .refl l _
  exact (hrestored.trans hmoved).thenMail _

theorem execPartnerRead_within : Within (OnlyLink l) s (execPartnerRead l s) := by
  refine within_linkRequest fun req t => ?_
  split
  · exact .onMail l _ _
  · exact .onMail l _ _

theorem execCounterQuery_within : Within (OnlyLink l) s (execCounterQuery l s) := by
  unfold execCounterQuery
  dsimp only
  refine within_settleLink ?_
  split
  · split
    · exact within_next.mpr (.thenLp (.onMail l _ _) _)
    · exact within_next.mpr (.refl l _)
  · exact within_next.mpr (.refl l _)

/-- The commands of a Link Port, in the order of `linkPortCommands`. -/
theorem linkPortCommands_within : ∀ c ∈ linkPortCommands l, Within (OnlyLink l) s (exec c s) := by
  simp only [linkPortCommands, List.forall_mem_cons]
  exact ⟨within_next.mpr (.dueAlignmentAcquired l s), within_next.mpr (.dueAlignmentLoss l s),
    within_next.mpr (.dueWindowPass l s), within_next.mpr (.dueWindowFail l s),
    within_next.mpr (.dueTrainLimit l s), execSignalDetect_within s l, execSignalLoss_within s l,
    execNegotiationTimerExpiry_within s l,
    within_settleLink (within_next.mpr (.restoreExpired l _)), execRestHoldTimerExpiry_within s l,
    within_next.mpr (.dueRestEntered l s), within_next.mpr (.dueClearRunComplete l s),
    execWakeTimerExpiry_within s l, execUseNotice_within s l,
    within_settleLink (within_next.mpr (.onLp l _ _)), within_next.mpr (.dueResponseSent l s),
    execMessageDiscardReport_within s l, execHeldMove_within s l,
    within_settleLink (within_next.mpr (.withReset l _ _ _ fun _ t => .resetLp l t)),
    execLinkSet_within s l, within_linkRequest fun _ t => .onMail l t _,
    execLinkRenegotiate_within s l, execPartnerRead_within s l, execCounterQuery_within s l,
    List.forall_mem_nil _⟩

end LinkPorts

/-- Settles O10: each command lies within the frame of its Link Port, which leaves the Sample Store alone. -/
theorem linkPortFrame : Obligations.LinkPortFrame := fun l s t =>
  ⟨fun c hc => (linkPortCommands_within s l c hc).withMemory onlyLink_sst t,
    fun w payload => (execReceivedFrame_within s l w payload).withMemory onlyLink_sst t⟩

end Sys2Proof.BlockFrames
end

section
/-! SUPPORT. The commands of the Frame Engine (R10 to R26, R47 to R71) and of the Route Edit Unit (R26 to R49): each
changes its block and the messages between blocks, and a frame boundary the frames handed to the Link Ports too. -/

namespace Sys2Proof.BlockFrames

open Sys2Proof.Machine Sys2Proof.Laws

/-! ## Frame Engine -/

section FrameEngine

variable (s : State)

theorem execHandOff_within : Within OnlyFe s (execHandOff s) := by
  unfold execHandOff
  split <;> exact within_next.mpr rfl

theorem execLinkViewNotice_within (l : Link) : Within OnlyFe s (execLinkViewNotice l s) := by
  unfold execLinkViewNotice
  split <;> exact within_next.mpr rfl

theorem execActiveTableCopy_within : Within OnlyFe s (execActiveTableCopy s) := by
  unfold execActiveTableCopy
  split <;> exact within_next.mpr rfl

theorem execLinkViewSnapshot_within : Within OnlyFe s (execLinkViewSnapshot s) := by
  unfold execLinkViewSnapshot
  split <;> exact within_next.mpr rfl

theorem execGainAdjustApply_within : Within OnlyFe s (execGainAdjustApply s) := by
  unfold execGainAdjustApply
  split
  · split <;> exact within_next.mpr rfl
  · exact within_next.mpr rfl

theorem execEntryReadActive_within : Within OnlyFe s (execEntryReadActive s) := by
  refine within_next.mpr (frame_onlyFe.withRequest s _ _ fun req t => ?_)
  dsimp only
  split
  · rfl
  · split <;> rfl

theorem execClaimAnswer_within : Within OnlyFe s (execClaimAnswer s) := by
  unfold execClaimAnswer
  split <;> exact within_next.mpr rfl

theorem emptyEngine_onlyFe : OnlyFe s s.emptyEngine := by
  obtain ⟨v, heq, -⟩ := emptyEngine_eq s
  rw [heq]
  rfl

/-- R66, R71: the frame counter set to 0, and its notice. -/
theorem clearCounter_onlyFe : OnlyFe s (State.counterNotice { s with fe := { s.fe with counter := 0 } } 0) := rfl

theorem execFeReset_within : Within OnlyFe s (execFeReset s) := by
  refine within_next.mpr (frame_onlyFe.withReset s _ fun o t => ?_)
  dsimp only
  split
  · exact emptyEngine_onlyFe t
  · exact frame_onlyFe.trans (emptyEngine_onlyFe t) (clearCounter_onlyFe _)

/-- The commands of the Frame Engine that name no link, but for the frame boundary. -/
theorem frameEngine_within : ∀ c ∈ [Instr.handOff, .activeTableCopy, .linkViewSnapshot, .gainAdjustApply,
    .claimAnswer, .entryReadActive, .tableSummaryActive, .engineStatus, .feReset],
    Within OnlyFe s (exec c s) := by
  simp only [List.forall_mem_cons]
  exact ⟨execHandOff_within s, execActiveTableCopy_within s, execLinkViewSnapshot_within s,
    execGainAdjustApply_within s, execClaimAnswer_within s, execEntryReadActive_within s,
    within_next.mpr (frame_onlyFe.withRequest s _ _ fun _ _ => rfl),
    within_next.mpr (frame_onlyFe.withRequest s _ _ fun _ _ => rfl),
    execFeReset_within s, List.forall_mem_nil _⟩

theorem adoptOldest_onlyFe : OnlyFe s s.adoptOldest := by
  obtain ⟨_, _, _, _, _, _, _, heq⟩ := RouteTable.adoptOldest_frame s
  rw [heq]
  rfl

/-- R55, R62: what the frame's computation does to one Link Port. -/
theorem computeFrame_port (l : Link) : s.computeFrame.lp[l] = { s.lp[l] with
    rx := none
    txNow := LP.txNext s.lp[l]
    txNext := transmitFrame s.fe.view s.readSource s.fe.active l } := Vector.getElem_ofFn l.isLt

theorem computeFrame_eq : s.computeFrame = { s with
    fe := s.computeFrame.fe, lp := s.computeFrame.lp, mail := s.computeFrame.mail } := rfl

/-- R50: adoption reaches no Link Port, so what a boundary does to one is the computation's. -/
theorem boundary_frame : s.adoptOldest.computeFrame = { s with
      fe := s.adoptOldest.computeFrame.fe
      lp := s.adoptOldest.computeFrame.lp
      mail := s.adoptOldest.computeFrame.mail } ∧
    ∀ l : Link, ∃ f : Option (List Slot), s.adoptOldest.computeFrame.lp[l] =
      { s.lp[l] with rx := none, txNow := LP.txNext s.lp[l], txNext := f } := by
  have hadopt : s.adoptOldest = { s with fe := s.adoptOldest.fe, mail := s.adoptOldest.mail } :=
    adoptOldest_onlyFe s
  have hlp : s.adoptOldest.lp = s.lp := by rw [hadopt]
  constructor
  · rw [computeFrame_eq, hadopt]
  · intro l
    rw [computeFrame_port, hlp]
    exact ⟨_, rfl⟩

end FrameEngine

theorem frameEngineFrame : Piece.FrameEngineFrame := by
  refine fun s t => ⟨fun c hc => (frameEngine_within s c hc).withMemory onlyFe_sst t,
    fun l => (execLinkViewNotice_within s l).withMemory onlyFe_sst t, fun h => ?_⟩
  obtain rfl : s.adoptOldest.computeFrame = t := Host.Outcome.next.inj h
  obtain ⟨hframe, hports⟩ := boundary_frame s
  exact ⟨hframe, sameMemory_of_sst (by rw [hframe]), hports⟩

/-! ## Route Edit Unit -/

section RouteEdit

variable (s : State)

theorem execEditOpen_within : Within OnlyReu s (execEditOpen s) := by
  refine within_next.mpr (frame_onlyReu.reuRequest s _ fun req t => ?_)
  dsimp only
  split
  · rfl
  · split <;> rfl

theorem execCopyAnswer_within : Within OnlyReu s (execCopyAnswer s) := by
  unfold execCopyAnswer
  dsimp only
  split
  · split
    · exact within_next.mpr rfl
    · split <;> exact within_next.mpr rfl
  · exact within_next.mpr rfl

theorem execEntryPut_within : Within OnlyReu s (execEntryPut s) := by
  refine within_next.mpr (frame_onlyReu.gatedRequest s _ _ fun req c t => ?_)
  dsimp only
  split
  · rfl
  · split <;> rfl

theorem execEntryDelete_within : Within OnlyReu s (execEntryDelete s) := by
  refine within_next.mpr (frame_onlyReu.gatedRequest s _ _ fun req c t => ?_)
  dsimp only
  split
  · rfl
  · split <;> rfl

theorem execEntryReadStaging_within : Within OnlyReu s (execEntryReadStaging s) := by
  refine within_next.mpr (frame_onlyReu.gatedRequest s _ _ fun req c t => ?_)
  dsimp only
  split
  · rfl
  · split <;> rfl

theorem execSnapshotAnswer_within : Within OnlyReu s (execSnapshotAnswer s) := by
  unfold execSnapshotAnswer
  split
  · refine within_next.mpr (frame_onlyReu.trans (t := s.endTxn) rfl
      (frame_onlyReu.gated _ _ _ fun c t => ?_))
    dsimp only
    split
    · split <;> rfl
    · rfl
  · exact within_next.mpr rfl

theorem execGainAdjust_within : Within OnlyReu s (execGainAdjust s) := by
  refine within_next.mpr (frame_onlyReu.reuRequest s _ fun req t => ?_)
  dsimp only
  split
  · rfl
  · split
    · rfl
    · split
      · rfl
      · split <;> rfl

theorem execGainAdjustAnswer_within : Within OnlyReu s (execGainAdjustAnswer s) := by
  unfold execGainAdjustAnswer
  dsimp only
  split
  · split <;> exact within_next.mpr rfl
  · exact within_next.mpr rfl

theorem answerCommit_onlyReu (r : CommitRecord) (adopted : Option (BitVec 32)) :
    OnlyReu s (s.answerCommit r adopted) := by
  unfold State.answerCommit
  split <;> rfl

theorem takeFate_onlyReu (f : Fate) : OnlyReu s (s.takeFate f) := by
  unfold State.takeFate
  split
  next r rest _ =>
    exact frame_onlyReu.trans (t := { s with reu := { s.reu with owed := rest } }) rfl
      (answerCommit_onlyReu _ r _)
  next =>
    split
    next r _ =>
      refine Frame.branch ?_ rfl
      exact frame_onlyReu.trans (t := { s with reu := { s.reu with claim := none, pending := none } }) rfl
        (answerCommit_onlyReu _ r _)
    next => rfl

theorem withFate_onlyReu (adopted : Bool) : OnlyReu s (s.withFate adopted) := by
  unfold State.withFate
  split
  next f rest _ => exact Frame.branch (frame_onlyReu.afterMail (takeFate_onlyReu _ f)) rfl
  next => rfl

theorem execClaimQuery_within : Within OnlyReu s (execClaimQuery s) := by
  unfold execClaimQuery
  split <;> exact within_next.mpr rfl

theorem execHoldTimerExpiry_within : Within OnlyReu s (execHoldTimerExpiry s) := by
  unfold execHoldTimerExpiry
  split
  · split
    · split <;> exact within_next.mpr rfl
    · exact within_next.mpr rfl
  · exact within_next.mpr rfl

theorem ownerLost_onlyReu (l : Link) : OnlyReu s (s.ownerLost l) := by
  unfold State.ownerLost
  split
  · split
    · split <;> rfl
    · rfl
  · rfl

theorem execLinkLossNotice_within (l : Link) : Within OnlyReu s (execLinkLossNotice l s) := by
  unfold execLinkLossNotice
  split
  · refine within_next.mpr (frame_onlyReu.trans ?_ (ownerLost_onlyReu _ l))
    rfl
  · exact within_next.mpr rfl

/-- The commands of the Route Edit Unit that name no link. -/
theorem routeEdit_within : ∀ c ∈ [Instr.editOpen, .copyAnswer, .entryPut, .entryDelete, .entryReadStaging,
    .tableSummaryStaging, .tableCheck, .tableCommit, .snapshotAnswer, .editAbandon, .gainAdjust,
    .gainAdjustAnswer, .adoptionNotice, .discardNotice, .claimQuery, .holdTimerExpiry, .reuReset],
    Within OnlyReu s (exec c s) := by
  simp only [List.forall_mem_cons]
  exact ⟨execEditOpen_within s, execCopyAnswer_within s, execEntryPut_within s, execEntryDelete_within s,
    execEntryReadStaging_within s,
    within_next.mpr (frame_onlyReu.gatedRequest s _ _ fun _ _ _ => rfl),
    within_next.mpr (frame_onlyReu.gatedRequest s _ _ fun _ _ _ => rfl),
    within_next.mpr (frame_onlyReu.gatedRequest s _ _ fun _ _ _ => rfl),
    execSnapshotAnswer_within s,
    within_next.mpr (frame_onlyReu.gatedRequest s _ _ fun _ _ _ => rfl),
    execGainAdjust_within s, execGainAdjustAnswer_within s, within_next.mpr (withFate_onlyReu s true),
    within_next.mpr (withFate_onlyReu s false), execClaimQuery_within s, execHoldTimerExpiry_within s,
    within_next.mpr (frame_onlyReu.withReset s _ fun _ _ => rfl), List.forall_mem_nil _⟩

end RouteEdit

theorem routeEditFrame : Piece.RouteEditFrame := fun s t =>
  ⟨fun c hc => (routeEdit_within s c hc).withMemory onlyReu_sst t,
    fun l => (execLinkLossNotice_within s l).withMemory onlyReu_sst t⟩

/-- Settles O11: the commands of both blocks lie within their frames, and a boundary's computation is what reaches
the Link Ports. -/
theorem frameEngineAndRouteEditFrame : Obligations.FrameEngineAndRouteEditFrame :=
  ⟨frameEngineFrame, routeEditFrame⟩

end Sys2Proof.BlockFrames
end

section
/-! SUPPORT. The commands of the Sample Store (R129 to R141), the Player Bank (R144 to R155) and the Recorder Unit
(R156 to R165): each changes its block and the messages between blocks, and two of the Sample Store's write memory. -/

namespace Sys2Proof.BlockFrames

open Sys2Proof.Machine Sys2Proof.Laws

/-- R131: a player's read is taken from the messages and answered there, or faults. -/
theorem Frame.takePlayerRead {R : State → State → Prop} (hR : Frame R) (s : State) (p : Player) :
    Within R s (s.takePlayerRead p) := by
  unfold State.takePlayerRead
  split
  · split
    · exact within_fault _
    · exact within_next.mpr (hR.onMail s _)
  · exact within_next.mpr (hR.refl s)

/-! ## Sample Store -/

section SampleStore

/-- The frame of the Sample Store's commands that write no word. -/
def SstReading (s t : State) : Prop := OnlySst s t ∧ SameMemory s t

theorem frame_sstReading : Frame SstReading where
  refl _ := ⟨rfl, fun _ => rfl⟩
  trans h k := ⟨frame_onlySst.trans h.1 k.1, fun a => (k.2 a).trans (h.2 a)⟩
  onMail _ _ := ⟨rfl, fun _ => rfl⟩

/-- Every part of the Sample Store may change but the words. -/
theorem sstReading_of_mem {s t : State} (h : OnlySst s t) (hmem : t.sst.mem = s.sst.mem) : SstReading s t :=
  ⟨h, fun a => by rw [hmem]⟩

variable (s : State)

theorem setClip_reading (id : Fin 32) (c : Option Clip) : SstReading s (s.setClip id c) :=
  sstReading_of_mem rfl rfl

theorem execHoldRequest_within : Within SstReading s (execHoldRequest s) := by
  unfold execHoldRequest
  dsimp only
  split
  · split <;> exact within_next.mpr (sstReading_of_mem rfl rfl)
  · exact within_next.mpr (frame_sstReading.refl s)

theorem execReleaseNotice_within : Within SstReading s (execReleaseNotice s) := by
  unfold execReleaseNotice
  split <;> exact within_next.mpr (sstReading_of_mem rfl rfl)

theorem execRegionRequest_within : Within SstReading s (execRegionRequest s) := by
  unfold execRegionRequest
  dsimp only
  split
  · split <;> exact within_next.mpr (sstReading_of_mem rfl rfl)
  · exact within_next.mpr (frame_sstReading.refl s)

theorem execRegionRelease_within : Within SstReading s (execRegionRelease s) := by
  unfold execRegionRelease
  split <;> exact within_next.mpr (sstReading_of_mem rfl rfl)

theorem execRunningNotice_within : Within SstReading s (execRunningNotice s) := by
  unfold execRunningNotice
  split <;> exact within_next.mpr (sstReading_of_mem rfl rfl)

theorem execMemoryRead_within : Within SstReading s (execMemoryRead s) := by
  refine within_next.mpr (frame_sstReading.withRequest s _ _ fun req t => ?_)
  dsimp only
  split
  · exact frame_sstReading.badField t _ req _
  · exact Frame.branch (frame_sstReading.badField t _ req _) (frame_sstReading.answer t _ req _ _ _)

theorem execClipDefine_within : Within SstReading s (execClipDefine s) := by
  refine within_next.mpr (frame_sstReading.withRequest s _ _ fun req t => ?_)
  split
  · exact frame_sstReading.badField t _ req _
  · dsimp only
    split_ifs
    · exact frame_sstReading.answer t _ req _ _ _
    · exact frame_sstReading.answer t _ req _ _ _
    · exact frame_sstReading.answer t _ req _ _ _
    · exact frame_sstReading.thenMail (setClip_reading t _ _) _

theorem execClipDelete_within : Within SstReading s (execClipDelete s) := by
  refine within_next.mpr (frame_sstReading.withRequest s _ _ fun req t => ?_)
  dsimp only
  split_ifs
  · exact frame_sstReading.badField t _ req _
  · exact frame_sstReading.answer t _ req _ _ _
  · exact frame_sstReading.answer t _ req _ _ _
  · exact frame_sstReading.thenMail (setClip_reading t _ _) _

theorem execClipRead_within : Within SstReading s (execClipRead s) := by
  refine within_next.mpr (frame_sstReading.withRequest s _ _ fun req t => ?_)
  dsimp only
  split
  · exact frame_sstReading.badField t _ req _
  · split <;> exact frame_sstReading.answer t _ req _ _ _

/-- The commands of the Sample Store that write no word and name no player. -/
theorem sampleStore_within : ∀ c ∈ [Instr.holdRequest, .releaseNotice, .regionRequest, .regionRelease,
    .runningNotice, .memoryRead, .clipDefine, .clipDelete, .clipRead], Within SstReading s (exec c s) := by
  simp only [List.forall_mem_cons]
  exact ⟨execHoldRequest_within s, execReleaseNotice_within s, execRegionRequest_within s,
    execRegionRelease_within s, execRunningNotice_within s, execMemoryRead_within s, execClipDefine_within s,
    execClipDelete_within s, execClipRead_within s, List.forall_mem_nil _⟩

/-- R131: a recorder write reaches the one address that the oldest message of the Recorder Unit names. -/
def RecorderWriting (s t : State) : Prop :=
  OnlySst s t ∧ (Memory.wf s.sst.mem = true → ∀ a, (∀ w, s.mail.rcuToSst.head? ≠ some (.write a w)) →
    Memory.read t.sst.mem a = Memory.read s.sst.mem a)

theorem execRecorderWrite_within : Within RecorderWriting s (execRecorderWrite s) := by
  unfold execRecorderWrite
  split
  next a w rest hmsg =>
    split
    next => exact within_fault _
    next =>
      refine within_next.mpr ⟨rfl, fun hwf b hother => (read_write hwf).trans (if_neg ?_)⟩
      rintro rfl
      exact hother w (by rw [hmsg]; rfl)
  next => exact within_next.mpr ⟨rfl, fun _ _ _ => rfl⟩

/-- R202: a body of `n` octets carries a third as many words. -/
theorem length_wordsOf : ∀ os : List Byte, (wordsOf os).length = os.length / 3
  | a :: b :: c :: rest => by
    rw [wordsOf, List.length_cons, length_wordsOf rest]
    simp only [List.length_cons]
    omega
  | [_, _] | [_] | [] => by simp [wordsOf]

/-- R132: an address outside the run of a MEMORY WRITE. -/
def OutsideRun (req : Req) (a : Nat) : Prop :=
  a < field24 req.body 0 ∨ field24 req.body 0 + (req.body.length - 3) / 3 ≤ a

/-- R132: a MEMORY WRITE reaches the run its request names. -/
def MemoryWriting (s t : State) : Prop :=
  OnlySst s t ∧ (Memory.wf s.sst.mem = true →
    ∀ a, (∀ req s', Handed .sst req s s' → OutsideRun req a) →
      Memory.read t.sst.mem a = Memory.read s.sst.mem a)

theorem execMemoryWrite_within : Within MemoryWriting s (execMemoryWrite s) := by
  refine within_next.mpr (withRequest_elim (fun req s' hreq _ => ?_) ⟨rfl, fun _ _ _ => rfl⟩)
  have hrun : ∀ a, (∀ req s', Handed .sst req s s' → OutsideRun req a) → OutsideRun req a :=
    fun a hother => hother req s' hreq
  obtain ⟨rest, -, rfl⟩ := hreq
  dsimp only
  split
  next => exact ⟨rfl, fun _ _ _ => rfl⟩
  next =>
    split
    next => exact ⟨rfl, fun _ _ _ => rfl⟩
    next hend =>
      split
      next => exact ⟨rfl, fun _ _ _ => rfl⟩
      next =>
        refine ⟨rfl, fun hwf a hother => (read_writeRun hwf (Nat.not_lt.mp hend)).trans (if_neg ?_)⟩
        have houtside := hrun a hother
        rw [length_wordsOf, List.length_drop]
        unfold OutsideRun at houtside
        omega

end SampleStore

theorem sampleStoreFrame : Piece.SampleStoreFrame := fun s t =>
  ⟨fun c hc => sampleStore_within s c hc t, fun p => frame_sstReading.takePlayerRead s p t,
    execRecorderWrite_within s t, execMemoryWrite_within s t⟩

/-! ## Player Bank -/

section PlayerBank

variable (s : State)

theorem advancePlayer_onlyPlb (p : Player) : OnlyPlb s (s.advancePlayer p) := by
  unfold State.advancePlayer
  dsimp only
  split
  · rfl
  · split_ifs <;> rfl

theorem takeReadAnswer_onlyPlb (p : Player) : OnlyPlb s (s.takeReadAnswer p) := by
  unfold State.takeReadAnswer
  dsimp only
  split
  · refine Frame.branch (frame_onlyPlb.trans ?_ (advancePlayer_onlyPlb _ p)) rfl
    rfl
  · rfl

/-- R145: the reads of some players, each taken by the Sample Store and its answer by the Player Bank. -/
theorem settleReads_within (ps : List Player) : Within OnlyPlb s (s.settleReads ps) := by
  induction ps generalizing s with
  | nil => exact within_next.mpr rfl
  | cons p ps ih =>
    unfold State.settleReads
    split
    next u hread =>
      have hread : OnlyPlb s u := frame_onlyPlb.takePlayerRead s p u hread
      exact frame_onlyPlb.within_trans (frame_onlyPlb.trans hread (takeReadAnswer_onlyPlb u p)) (ih _)
    next => exact within_fault _
    next => exact within_refused _

/-- Log entry 22: an event of the Player Bank, taken once its outstanding reads are completed. -/
theorem afterReads_within {f : State → State} (h : ∀ t, OnlyPlb t (f t)) :
    Within OnlyPlb s (s.afterReads f) := by
  intro t ht
  obtain ⟨u, hu, rfl⟩ := afterReads_next ht
  exact frame_onlyPlb.trans (settleReads_within s allEight u hu) (h u)

/-- R147: a request of the Player Bank. -/
theorem playRequest_within {which : Req → Bool} {f : Req → State → State} (h : ∀ req t, OnlyPlb t (f req t)) :
    Within OnlyPlb s (s.afterReads fun t => t.plbRequest which f) :=
  afterReads_within s fun t => frame_onlyPlb.plbRequest t which h

theorem place_onlyPlb (w : PlayWait) (c : Clip) : OnlyPlb s (s.place w c) := by
  unfold State.place
  dsimp only
  split <;> rfl

theorem takeHoldAnswer_onlyPlb : OnlyPlb s s.takeHoldAnswer := by
  unfold State.takeHoldAnswer
  dsimp only
  split
  · split
    · rfl
    · rfl
    · refine frame_onlyPlb.trans ?_ (place_onlyPlb _ _ _)
      rfl
    · rfl
  · rfl

theorem stopNow_onlyPlb (p : Player) : OnlyPlb s (s.stopNow p) := by
  unfold State.stopNow
  split <;> rfl

theorem stopEnd_onlyPlb (p : Player) : OnlyPlb s (s.stopEnd p) := by
  unfold State.stopEnd
  split <;> rfl

theorem execPlayNow_within : Within OnlyPlb s (execPlayNow s) := by
  refine playRequest_within s fun req t => ?_
  split <;> rfl

theorem execPlayNext_within : Within OnlyPlb s (execPlayNext s) := by
  refine playRequest_within s fun req t => ?_
  split
  · rfl
  · dsimp only
    split_ifs <;> rfl

theorem execStopNow_within : Within OnlyPlb s (execStopNow s) := by
  refine playRequest_within s fun req t => ?_
  split
  · rfl
  · exact frame_onlyPlb.thenMail (stopNow_onlyPlb t _) _

theorem execStopEnd_within : Within OnlyPlb s (execStopEnd s) := by
  refine playRequest_within s fun req t => ?_
  split
  · rfl
  · exact frame_onlyPlb.thenMail (stopEnd_onlyPlb t _) _

theorem execPlayerStatus_within : Within OnlyPlb s (execPlayerStatus s) := by
  refine playRequest_within s fun req t => ?_
  split <;> rfl

/-- The commands of the Player Bank that name no player. -/
theorem playerBank_within : ∀ c ∈ [Instr.plbFrameBoundary, .holdAnswer, .playNow, .playNext, .stopNow,
    .stopEnd, .playerStatus, .plbReset], Within OnlyPlb s (exec c s) := by
  simp only [List.forall_mem_cons]
  exact ⟨afterReads_within s fun _ => rfl, afterReads_within s takeHoldAnswer_onlyPlb, execPlayNow_within s,
    execPlayNext_within s, execStopNow_within s, execStopEnd_within s, execPlayerStatus_within s,
    afterReads_within s fun t => frame_onlyPlb.withReset t _ fun _ _ => rfl, List.forall_mem_nil _⟩

end PlayerBank

theorem playerBankFrame : Piece.PlayerBankFrame := fun s t =>
  ⟨fun c hc => (playerBank_within s c hc).withMemory onlyPlb_sst t,
    fun p => (within_next.mpr (takeReadAnswer_onlyPlb s p)).withMemory onlyPlb_sst t⟩

/-! ## Recorder Unit -/

section RecorderUnit

variable (s : State)

theorem record_onlyRcu (r : Rec) (w : Sample) : OnlyRcu s (s.record r w) := by
  unfold State.record
  exact Frame.branch rfl rfl

theorem execRecorderInputWord_within (r : Rec) : Within OnlyRcu s (execRecorderInputWord r s) := by
  unfold execRecorderInputWord
  dsimp only
  split
  · split
    · exact within_next.mpr (frame_onlyRcu.afterMail (record_onlyRcu _ r _))
    · exact within_next.mpr rfl
  · exact within_next.mpr rfl

theorem execRecordSetup_within : Within OnlyRcu s (execRecordSetup s) := by
  refine within_next.mpr (frame_onlyRcu.rcuRequest s _ fun req t => ?_)
  split
  · rfl
  · dsimp only
    split <;> rfl

theorem execRegionAnswer_within : Within OnlyRcu s (execRegionAnswer s) := by
  unfold execRegionAnswer
  dsimp only
  split
  · split
    · exact within_next.mpr rfl
    · split <;> exact within_next.mpr rfl
  · exact within_next.mpr rfl

theorem recordStart_onlyRcu (req : Req) (r : Rec) : OnlyRcu s (s.recordStart req r) := by
  unfold State.recordStart
  split <;> rfl

theorem recordStop_onlyRcu (r : Rec) : OnlyRcu s (s.recordStop r) := by
  unfold State.recordStop
  split <;> rfl

theorem execRecordStart_within : Within OnlyRcu s (execRecordStart s) :=
  within_next.mpr (frame_onlyRcu.rcuRequest s _ fun _ t => Frame.branch rfl (recordStart_onlyRcu t _ _))

theorem execRecordStop_within : Within OnlyRcu s (execRecordStop s) :=
  within_next.mpr (frame_onlyRcu.rcuRequest s _ fun _ t =>
    Frame.branch rfl (frame_onlyRcu.thenMail (recordStop_onlyRcu t _) _))

theorem execRecorderStatus_within : Within OnlyRcu s (execRecorderStatus s) :=
  within_next.mpr (frame_onlyRcu.rcuRequest s _ fun _ _ => Frame.branch rfl rfl)

theorem routingResetRecorder_onlyRcu (r : Rec) : OnlyRcu s (s.routingResetRecorder r) := by
  unfold State.routingResetRecorder
  split <;> rfl

theorem deviceResetRecorder_onlyRcu (r : Rec) : OnlyRcu s (s.deviceResetRecorder r) := by
  unfold State.deviceResetRecorder
  exact Frame.branch rfl rfl

theorem execRcuReset_within : Within OnlyRcu s (execRcuReset s) := by
  refine within_next.mpr (frame_onlyRcu.withReset s _ fun o t => ?_)
  split
  · exact frame_onlyRcu.trans (routingResetRecorder_onlyRcu t 0) (routingResetRecorder_onlyRcu _ 1)
  · exact frame_onlyRcu.trans
      (frame_onlyRcu.trans (deviceResetRecorder_onlyRcu t 0) (deviceResetRecorder_onlyRcu _ 1)) rfl

/-- The commands of the Recorder Unit that name no recorder. -/
theorem recorderUnit_within : ∀ c ∈ [Instr.recordSetup, .regionAnswer, .recordStart, .recordStop,
    .recorderStatus, .rcuReset], Within OnlyRcu s (exec c s) := by
  simp only [List.forall_mem_cons]
  exact ⟨execRecordSetup_within s, execRegionAnswer_within s, execRecordStart_within s,
    execRecordStop_within s, execRecorderStatus_within s, execRcuReset_within s, List.forall_mem_nil _⟩

end RecorderUnit

theorem recorderUnitFrame : Piece.RecorderUnitFrame := fun s t =>
  ⟨fun c hc => (recorderUnit_within s c hc).withMemory onlyRcu_sst t,
    fun r => (execRecorderInputWord_within s r).withMemory onlyRcu_sst t⟩

/-- Settles O12: the commands of the three blocks lie within their frames; what a recorder write and a MEMORY WRITE
reach is read off the message and the request they take. -/
theorem audioBlocksFrame : Obligations.AudioBlocksFrame :=
  ⟨sampleStoreFrame, playerBankFrame, recorderUnitFrame⟩

end Sys2Proof.BlockFrames
end

section
/-! SUPPORT. The commands of the Event Unit (R182 to R192) and of the Management Unit (R166 to R179): the Event Unit's
change that block and the messages between blocks; the Management Unit's its own block, the messages, and the
transmit list of the one link that is served. -/

namespace Sys2Proof.BlockFrames

open Sys2Proof.Machine Sys2Proof.Laws

/-! ## Event Unit -/

section EventUnit

variable (s : State)

theorem execEventReport_within (b : Block) : Within OnlyEvu s (execEventReport b s) := by
  unfold execEventReport
  split <;> exact within_next.mpr rfl

theorem execEventsRead_within : Within OnlyEvu s (execEventsRead s) :=
  within_next.mpr (frame_onlyEvu.evuRequest s _ fun _ _ => Frame.branch rfl rfl)

theorem execCounterNotice_within : Within OnlyEvu s (execCounterNotice s) := by
  unfold execCounterNotice
  split <;> exact within_next.mpr rfl

theorem execCountersRead_within : Within OnlyEvu s (execCountersRead s) :=
  within_next.mpr (frame_onlyEvu.evuRequest s _ fun _ _ => Frame.branch rfl (Frame.branch rfl rfl))

theorem execCounterAnswer_within : Within OnlyEvu s (execCounterAnswer s) := by
  unfold execCounterAnswer
  split <;> exact within_next.mpr rfl

theorem execIndicatorSet_within : Within OnlyEvu s (execIndicatorSet s) :=
  within_next.mpr (frame_onlyEvu.evuRequest s _ fun _ _ =>
    Frame.branch rfl (Frame.branch rfl (Frame.branch rfl rfl)))

theorem execStateNotice_within (l : Link) : Within OnlyEvu s (execStateNotice l s) := by
  unfold execStateNotice
  split <;> exact within_next.mpr rfl

theorem execCompletionReport_within (l : Link) : Within OnlyEvu s (execCompletionReport l s) := by
  unfold execCompletionReport
  split <;> exact within_next.mpr rfl

theorem execPulseTimerExpiry_within (n : Fin 4) : Within OnlyEvu s (execPulseTimerExpiry n s) :=
  within_next.mpr rfl

theorem execBlinkPhase_within (g : Blink) : Within OnlyEvu s (execBlinkPhase g s) := by
  cases g <;> exact within_next.mpr rfl

theorem execEvuReset_within : Within OnlyEvu s (execEvuReset s) := by
  refine within_next.mpr (frame_onlyEvu.withReset s _ fun o t => ?_)
  split <;> rfl

/-- The commands of the Event Unit that name no block, link, line or generator. -/
theorem eventUnit_within : ∀ c ∈ [Instr.eventsRead, .countersRead, .counterAnswer, .indicatorSet,
    .counterNotice, .evuReset], Within OnlyEvu s (exec c s) := by
  simp only [List.forall_mem_cons]
  exact ⟨execEventsRead_within s, execCountersRead_within s, execCounterAnswer_within s,
    execIndicatorSet_within s, execCounterNotice_within s, execEvuReset_within s, List.forall_mem_nil _⟩

end EventUnit

theorem eventUnitFrame : Piece.EventUnitFrame := fun s t =>
  ⟨fun c hc => (eventUnit_within s c hc).withMemory onlyEvu_sst t,
    fun b => (execEventReport_within s b).withMemory onlyEvu_sst t,
    fun l => (execStateNotice_within s l).withMemory onlyEvu_sst t,
    fun l => (execCompletionReport_within s l).withMemory onlyEvu_sst t,
    fun n => (execPulseTimerExpiry_within s n).withMemory onlyEvu_sst t,
    fun g => (execBlinkPhase_within s g).withMemory onlyEvu_sst t⟩

/-! ## Management Unit -/

section ManagementUnit

/-- A change of an element that leaves it as it is changes nothing. -/
theorem updAt_of_fixed {α : Type} {n : Nat} {v : Vector α n} {i : Fin n} {f : α → α} (h : f v[i] = v[i]) :
    updAt v i f = v := (updAt_congr (g := fun x => x) h).trans (updAt_id v i)

/-- Where no Link Port changes, no transmit list does. -/
theorem onlyMgu_of_lp {l : Link} {s t : State} (hrest : t = { s with mgu := t.mgu, mail := t.mail }) :
    OnlyMgu l s t := by
  have hlp : t.lp = s.lp := by rw [hrest]
  refine ⟨by rw [hrest], ?_⟩
  rw [hlp, updAt_of_fixed rfl]

theorem frame_onlyMgu (l : Link) : Frame (OnlyMgu l) where
  refl _ := onlyMgu_of_lp rfl
  onMail _ _ := onlyMgu_of_lp rfl
  trans := by
    rintro s t u ⟨hrest, hlist⟩ ⟨krest, klist⟩
    refine ⟨by rw [krest, hrest], klist.trans ?_⟩
    rw [hlist, updAt_updAt]

theorem onMgu_onlyMgu (s : State) (l : Link) (f : MguLink → MguLink) : OnlyMgu l s (s.onMgu l f) :=
  onlyMgu_of_lp rfl

theorem onlyMgu_thenMgu {s t : State} {l : Link} (h : OnlyMgu l s t) (f : MguLink → MguLink) :
    OnlyMgu l s (t.onMgu l f) := (frame_onlyMgu l).trans h (onMgu_onlyMgu t l f)

variable (s : State) (l : Link)

/-- R85: a response taken into the transmit list. -/
theorem accept_onlyMgu (place : Place) (ref : Option Ref) (octets : List Byte) :
    OnlyMgu l s (s.accept l place ref octets) := by
  refine ⟨rfl, (accept_lp s l place ref octets).trans (updAt_congr ?_)⟩
  rw [accept_lp, updAt_get, if_pos rfl]

theorem carryIfDeferred_onlyMgu (l' : Link) (d : Option Deferred) :
    OnlyMgu l s (s.carryIfDeferred l' d) := by
  rw [carryIfDeferred_eq]
  exact onlyMgu_of_lp rfl

theorem carryDeferred_onlyMgu (d : Deferred) : OnlyMgu l s (s.carryDeferred l d) :=
  carryIfDeferred_onlyMgu s l l (some d)

theorem offer_onlyMgu (ref : Ref) (octets : List Byte) (d : Option Deferred) :
    OnlyMgu l s (s.offer l ref octets d) := by
  unfold State.offer
  dsimp only
  split
  · exact (frame_onlyMgu l).trans (onMgu_onlyMgu s l _) (carryIfDeferred_onlyMgu _ l l d)
  · split
    · exact onMgu_onlyMgu s l _
    · exact onlyMgu_thenMgu (accept_onlyMgu s l _ _ _) _

theorem respond_onlyMgu (ip : InProgress) (code : ResultCode) (body : List Byte) (d : Option Deferred) :
    OnlyMgu l s (s.respond l ip code body d) :=
  (frame_onlyMgu l).trans (t := s.queryEvents) (onlyMgu_of_lp rfl) (offer_onlyMgu _ l _ _ d)

/-- R169: a result serves the link its reference names. -/
theorem takeResult_onlyMgu (r : Result) : OnlyMgu r.ref.link s (s.takeResult r) := by
  unfold State.takeResult
  split
  · exact Frame.branch (respond_onlyMgu s _ _ _ _ _) ((frame_onlyMgu _).refl s)
  · exact (frame_onlyMgu _).refl s

theorem answerOwn_onlyMgu (req : Req) (code : ResultCode) (body : List Byte) :
    OnlyMgu req.ref.link s (s.answerOwn req code body) := takeResult_onlyMgu s ⟨req.ref, code, body, none⟩

theorem reoffer_onlyMgu : OnlyMgu l s (s.reoffer l) := by
  unfold State.reoffer
  split
  · exact offer_onlyMgu s l _ _ _
  · exact (frame_onlyMgu l).refl s

theorem closeAfter_onlyMgu (ref : Option Ref) : OnlyMgu l s (s.closeAfter l ref) := by
  unfold State.closeAfter
  split
  · exact Frame.branch ((frame_onlyMgu l).trans (onMgu_onlyMgu s l _) (carryDeferred_onlyMgu _ l _))
      ((frame_onlyMgu l).refl s)
  · exact (frame_onlyMgu l).refl s

theorem placeEmptied_onlyMgu (place : Place) (ref : Option Ref) :
    OnlyMgu l s (s.placeEmptied l place ref) := by
  cases place with
  | busy => exact onMgu_onlyMgu s l _
  | response => exact (frame_onlyMgu l).trans (closeAfter_onlyMgu s l ref) (reoffer_onlyMgu _ l)

theorem requesterStopped_onlyMgu : OnlyMgu l s (s.requesterStopped l) := by
  unfold State.requesterStopped
  split
  · refine Frame.branch ((frame_onlyMgu l).trans (carryDeferred_onlyMgu s l .reset) (onlyMgu_of_lp rfl))
      ((frame_onlyMgu l).refl s)
  · exact (frame_onlyMgu l).refl s

theorem stopLink_onlyMgu : OnlyMgu l s (s.stopLink l) := by
  rw [ManagementReports.stopLink_eq]
  exact (frame_onlyMgu l).trans (onlyMgu_of_lp rfl) (requesterStopped_onlyMgu _ l)

theorem answerBusy_onlyMgu (code tag : Byte) : OnlyMgu l s (s.answerBusy l code tag) := by
  have hquery : OnlyMgu l s s.queryEvents := onlyMgu_of_lp rfl
  unfold State.answerBusy
  exact Frame.branch (onlyMgu_thenMgu ((frame_onlyMgu l).trans hquery (accept_onlyMgu _ l _ _ _)) _) hquery

theorem takeMessage_onlyMgu (octets : List Byte) : OnlyMgu l s (s.takeMessage l octets) := by
  unfold State.takeMessage
  dsimp only
  split
  · refine (frame_onlyMgu l).trans ?_ (respond_onlyMgu _ l _ _ _ _)
    exact onlyMgu_of_lp rfl
  · exact onlyMgu_of_lp rfl

theorem dealMessage_onlyMgu (octets : List Byte) (mgr : Bool) :
    OnlyMgu l s (s.dealMessage l octets mgr) := by
  have hdiscard : OnlyMgu l s (s.orderDiscard l) := onlyMgu_of_lp rfl
  unfold State.dealMessage
  exact Frame.branch hdiscard <| Frame.branch (Frame.branch hdiscard (answerBusy_onlyMgu s l _ _))
    (takeMessage_onlyMgu s l octets)

/-- R177: beginning a RESET hands out orders and ends records, and offers no response. -/
theorem beginReset_onlyMgu (req : Req) : OnlyMgu l s (s.beginReset req) := by
  unfold State.beginReset
  simp only [ManagementRequests.foldl_handReset]
  split
  · exact onlyMgu_of_lp rfl
  · rw [ManagementRequests.endOthers_eq]
    exact onlyMgu_of_lp rfl

theorem takeReset_onlyMgu (req : Req) : OnlyMgu req.ref.link s (s.takeReset req) :=
  Frame.branch (answerOwn_onlyMgu s req _ _) <|
    Frame.branch (onlyMgu_of_lp rfl) (beginReset_onlyMgu s _ req)

theorem finishReset_onlyMgu (r : CurrentReset) : OnlyMgu r.ref.link s (s.finishReset r) := by
  have hover : OnlyMgu r.ref.link s { s with mgu := { s.mgu with curReset := none } } := onlyMgu_of_lp rfl
  have hcarried (d : Option Deferred) :=
    (frame_onlyMgu _).trans hover (carryIfDeferred_onlyMgu _ r.ref.link r.ref.link d)
  unfold State.finishReset
  dsimp only
  split
  · exact Frame.branch ((frame_onlyMgu _).trans hover (respond_onlyMgu _ _ _ _ _ _))
      (Frame.branch hover (hcarried _))
  · exact Frame.branch hover (hcarried _)

theorem nextReset_onlyMgu : OnlyMgu l s s.nextReset := by
  unfold State.nextReset
  split
  · refine (frame_onlyMgu l).trans ?_ (beginReset_onlyMgu _ l _)
    exact onlyMgu_of_lp rfl
  · exact (frame_onlyMgu l).refl s

/-! ### Commands that name the link -/

theorem execMessageTaken_within : Within (OnlyMgu l) s (execMessageTaken l s) := by
  unfold execMessageTaken
  split
  · split
    · exact within_next.mpr ((frame_onlyMgu l).afterMail (dealMessage_onlyMgu _ l _ _))
    · exact within_next.mpr ((frame_onlyMgu l).refl s)
  · exact within_next.mpr ((frame_onlyMgu l).refl s)

theorem execSentReport_within : Within (OnlyMgu l) s (execSentReport l s) := by
  unfold execSentReport
  split
  · exact within_next.mpr ((frame_onlyMgu l).afterMail (placeEmptied_onlyMgu _ l _ _))
  · exact within_next.mpr ((frame_onlyMgu l).refl s)

theorem execDiscardReport_within : Within (OnlyMgu l) s (execDiscardReport l s) := by
  unfold execDiscardReport
  split
  · exact within_next.mpr ((frame_onlyMgu l).afterMail (placeEmptied_onlyMgu _ l _ _))
  · exact within_next.mpr ((frame_onlyMgu l).refl s)

theorem execStopNotice_within : Within (OnlyMgu l) s (execStopNotice l s) := by
  unfold execStopNotice
  split
  · exact within_next.mpr ((frame_onlyMgu l).afterMail (stopLink_onlyMgu _ l))
  · exact within_next.mpr ((frame_onlyMgu l).refl s)

theorem linkReports_within : ∀ c ∈ [Instr.messageTaken l, .sentReport l, .discardReport l, .stopNotice l],
    Within (OnlyMgu l) s (exec c s) := by
  simp only [List.forall_mem_cons]
  exact ⟨execMessageTaken_within s l, execSentReport_within s l, execDiscardReport_within s l,
    execStopNotice_within s l, List.forall_mem_nil _⟩

/-! ### Commands that take a request, a result or an acknowledgment -/

/-- R169: what a request of the Management Unit's own may change: nothing where none is handed to it, and the list of
the requester's link where one is. -/
def ServesRequest (s t : State) : Prop :=
  SameMemory s t ∧ (∀ req s', Handed .mgu req s s' → OnlyMgu req.ref.link s t) ∧
    ((∀ req s', ¬Handed .mgu req s s') → t = s)

theorem servesRequest_withRequest (which : Req → Bool) {f : Req → State → State}
    (h : ∀ req t, OnlyMgu req.ref.link t (f req t)) : ServesRequest s (s.withRequest .mgu which f) := by
  have htaken (req : Req) (s' : State) (hreq : Handed .mgu req s s') : OnlyMgu req.ref.link s (f req s') := by
    obtain ⟨rest, -, rfl⟩ := hreq
    exact (frame_onlyMgu _).afterMail (h req _)
  refine ⟨withRequest_elim ?_ fun _ => rfl, fun req s' hreq => ?_, fun hnone => ?_⟩
  · exact fun req s' hreq _ => sameMemory_of_sst (onlyMgu_sst (htaken req s' hreq))
  · rw [withRequest_handed hreq]
    exact Frame.branch (htaken req s' hreq) ((frame_onlyMgu _).refl s)
  · exact withRequest_elim (P := (· = s)) (fun req s' hreq _ => absurd hreq (hnone req s')) rfl

theorem execNameSet_serves : Within ServesRequest s (execNameSet s) := by
  refine within_next.mpr (servesRequest_withRequest s _ fun req t => ?_)
  split
  · exact answerOwn_onlyMgu t req _ _
  · exact (frame_onlyMgu _).trans (onlyMgu_of_lp rfl) (answerOwn_onlyMgu _ req _ _)

theorem ownRequests_serve : ∀ c ∈ [Instr.identify, .nameSet, .resetRouting, .resetDevice],
    Within ServesRequest s (exec c s) := by
  simp only [List.forall_mem_cons]
  exact ⟨within_next.mpr (servesRequest_withRequest s _ fun req t => answerOwn_onlyMgu t req _ _),
    execNameSet_serves s, within_next.mpr (servesRequest_withRequest s _ fun req t => takeReset_onlyMgu t req),
    within_next.mpr (servesRequest_withRequest s _ fun req t => takeReset_onlyMgu t req), List.forall_mem_nil _⟩

/-- R169: what taking a block's result may change: the list of the link the result is for. -/
def ServesResult (b : Block) (s t : State) : Prop :=
  SameMemory s t ∧
    (∀ r rest, Oldest (fun x => x.1 == b) s.mail.results (b, r) rest → OnlyMgu r.ref.link s t) ∧
    ((∀ x ∈ s.mail.results, x.1 ≠ b) → t = s)

theorem execOwnerResult_serves (b : Block) : Within (ServesResult b) s (execOwnerResult b s) := by
  unfold execOwnerResult
  split
  next x rest hfirst =>
    have hserved : OnlyMgu x.2.ref.link s ((s.onMail fun m => { m with results := rest }).takeResult x.2) :=
      (frame_onlyMgu _).afterMail (takeResult_onlyMgu _ x.2)
    refine within_next.mpr ⟨sameMemory_of_sst (onlyMgu_sst hserved), fun r rest' holdest => ?_, fun hnone => ?_⟩
    · obtain ⟨rfl, -⟩ := Prod.mk.inj (Option.some.inj (hfirst.symm.trans (takeFirst_eq_some.mpr holdest)))
      exact hserved
    · obtain ⟨hmem, hb, -⟩ := takeFirst_mem hfirst
      exact absurd (beq_iff_eq.mp hb) (hnone x hmem)
  next hfirst =>
    refine within_next.mpr ⟨fun _ => rfl, fun r rest holdest => ?_, fun _ => rfl⟩
    exact absurd (hfirst.symm.trans (takeFirst_eq_some.mpr holdest)) (by simp)

/-- R177: what an acknowledgment may change: the list of the requester's link of the RESET being carried out. -/
def ServesReset (s t : State) : Prop :=
  SameMemory s t ∧ (∀ r, s.mgu.curReset = some r → OnlyMgu r.ref.link s t) ∧
    (s.mgu.curReset = none → t = { s with mail := t.mail })

/-- A step for the RESET being carried out serves its requester's link. -/
theorem servesReset_of_current {r : CurrentReset} {t : State} (hcur : s.mgu.curReset = some r)
    (h : OnlyMgu r.ref.link s t) : ServesReset s t := by
  refine ⟨sameMemory_of_sst (onlyMgu_sst h), fun r' hcur' => ?_, fun hnone => ?_⟩
  · obtain rfl : r = r' := Option.some.inj (hcur.symm.trans hcur')
    exact h
  · exact nomatch hcur.symm.trans hnone

theorem execResetAck_serves (b : Block) : Within ServesReset s (execResetAck b s) := by
  unfold execResetAck
  dsimp only
  split
  next =>
    split
    next r hcur =>
      have hframe := frame_onlyMgu r.ref.link
      split
      next =>
        exact within_next.mpr (servesReset_of_current s hcur (hframe.afterMail
          (hframe.trans (finishReset_onlyMgu _ { r with waiting := r.waiting.erase b })
            (nextReset_onlyMgu _ r.ref.link))))
      next => exact within_next.mpr (servesReset_of_current s hcur (onlyMgu_of_lp rfl))
    next =>
      exact within_next.mpr ⟨fun _ => rfl, fun r _ => (frame_onlyMgu r.ref.link).onMail s _, fun _ => rfl⟩
  next => exact within_next.mpr ⟨fun _ => rfl, fun r _ => (frame_onlyMgu r.ref.link).refl s, fun _ => rfl⟩

end ManagementUnit

theorem managementUnitFrame : Piece.ManagementUnitFrame := by
  refine fun s t => ⟨fun l c hc => (linkReports_within s l c hc).withMemory onlyMgu_sst t, fun h => ?_,
    fun c hc => ownRequests_serve s c hc t, fun b => execOwnerResult_serves s b t,
    fun b => execResetAck_serves s b t⟩
  obtain rfl : s.queryEvents = t := Host.Outcome.next.inj h
  rfl

/-- Settles O13: the Event Unit's commands lie within its frame; the Management Unit's serve the link they name, or
that of the request, the result or the RESET they take, and only an accepted response reaches its transmit list. -/
theorem managementAndEventFrame : Obligations.ManagementAndEventFrame := ⟨eventUnitFrame, managementUnitFrame⟩

end Sys2Proof.BlockFrames
end

section
/-! SUPPORT. A Link Port in LISTEN (R79, R81): the four cases of the sync judgement, and what alignment acquired
does. -/

namespace Sys2Proof.LinkListen

open Sys2Proof.Machine Sys2Proof.Laws Sys2Proof.LinkRest Sys2Proof.FrameIn

/-! ## The sync judgement -/

section Judgement

variable {p : LP}

/-- R79, R81: a frame without a sync pattern ends the acquisition run and is a service error. -/
theorem judgeListen_noSync : p.judgeListen none = { p with
    align := { p.align with acqRun := 0, prev := none }
    counters := { p.counters with serviceErrors := satInc p.counters.serviceErrors } } := rfl

/-- R79: the first pattern begins the acquisition run. -/
theorem judgeListen_first (h : p.align.acqRun = 0) (v : Sync) : p.judgeListen (some v) = { p with
    align := { p.align with acqRun := 1, prev := some v } } := if_pos h

/-- R79: the other pattern than before goes on with the run. -/
theorem judgeListen_alternating (hrun : 1 ≤ p.align.acqRun) {v : Sync} (hprev : p.align.prev ≠ some v) :
    p.judgeListen (some v) = { p with
      align := { p.align with acqRun := p.align.acqRun + 1, prev := some v } } := by
  rw [LP.judgeListen, if_neg (by omega), if_neg hprev]

/-- R79, R81: the same pattern as before begins the run again and is a service error. -/
theorem judgeListen_repeated (hrun : 1 ≤ p.align.acqRun) {v : Sync} (hprev : p.align.prev = some v) :
    p.judgeListen (some v) = { p with
      align := { p.align with acqRun := 1, prev := some v }
      counters := { p.counters with serviceErrors := satInc p.counters.serviceErrors } } := by
  rw [LP.judgeListen, if_neg (by omega), if_pos hprev]

/-- The judgement changes the alignment and the counters alone, and in the alignment only the acquisition run. -/
theorem judgeListen_frame (p : LP) (sync : Option Sync) :
    (p.judgeListen sync = { p with
      align := (p.judgeListen sync).align, counters := (p.judgeListen sync).counters }) ∧
    (p.judgeListen sync).align.expected = p.align.expected ∧
    (p.judgeListen sync).align.badRun = p.align.badRun := by
  unfold LP.judgeListen
  split
  · exact ⟨rfl, rfl, rfl⟩
  · split_ifs <;> exact ⟨rfl, rfl, rfl⟩

/-- R79: with a pattern, the pattern is the one the next frame is compared with. -/
theorem judgeListen_prev (p : LP) (v : Sync) : (p.judgeListen (some v)).align.prev = some v := by
  unfold LP.judgeListen
  dsimp only
  split_ifs <;> rfl

end Judgement

theorem execReceivedFrame_listen {s : State} {l : Link} {w : Word} {payload : Vector Word 64}
    (hsettled : LP.Settled s.lp[l]) (h : LP.state s.lp[l] = .listen) :
    exec (.receivedFrame l w payload) s = .next (s.onLp l fun p => p.judgeListen (svcSync w)) := by
  rw [execReceivedFrame_settled hsettled, h]

theorem listenJudgesSync : Piece.ListenJudgesSync := by
  intro l s w payload hlisten hsettled
  obtain ⟨hframe, hexpected, hbad⟩ := judgeListen_frame s.lp[l] (svcSync w)
  refine ⟨(LP.judgeListen s.lp[l] (svcSync w)).align, (LP.judgeListen s.lp[l] (svcSync w)).counters,
    (execReceivedFrame_listen hsettled hlisten).trans (congrArg Host.Outcome.next (onLp_congr hframe)),
    hexpected, hbad, fun hnone => ?noSync, fun v hv => ?sync⟩
  case noSync =>
    rw [hnone, judgeListen_noSync]
    exact ⟨rfl, rfl⟩
  case sync =>
    rw [hv]
    refine ⟨judgeListen_prev _ v, fun hrun => ?_, fun hrun hprev => ?_, fun hrun hprev => ?_⟩
    · rw [judgeListen_first hrun]
      exact ⟨rfl, rfl⟩
    · rw [judgeListen_alternating hrun hprev]
      exact ⟨rfl, rfl⟩
    · rw [judgeListen_repeated hrun hprev]
      exact ⟨rfl, rfl⟩

/-! ## Alignment acquired -/

/-- R79: the alignment of a Link Port whose acquisition is complete. -/
def aligned (p : LP) : LP :=
  { p with
    align :=
      { p.align with
        acqRun := 0, badRun := 0, expected := (p.align.prev.map Sync.other).getD p.align.expected } }

/-- R79, R92: the link moves to NEGOTIATE, which is no move out of the running states. -/
theorem execAlignmentAcquired_due {s : State} {l : Link} (hlisten : LP.state s.lp[l] = .listen)
    (hrun : 8 ≤ (LP.align s.lp[l]).acqRun) : exec (.alignmentAcquired l) s = .next
      (linkState s l (fun p => (aligned p).enter .negotiate s.mgu.label s.unit)
        { s.mail with stateNotices := updAt s.mail.stateNotices l (· ++ [.negotiate]) }) := by
  have hstate : (aligned s.lp[l]).state = .listen := hlisten
  refine congrArg Host.Outcome.next ((if_pos ⟨hlisten, hrun⟩).trans ?_)
  exact linkState_stopped (F := aligned) (by rw [hstate]; decide) (by rw [hstate]; rfl) rfl

theorem alignmentAcquiredNegotiates : Piece.AlignmentAcquiredNegotiates := by
  intro l s v hlisten hrun hprev
  refine ⟨_, execAlignmentAcquired_due hlisten hrun, linkState_onlyLink _ _ _ _, ?_⟩
  rw [linkState_lp]
  have hexpected : (aligned s.lp[l]).align.expected = v.other := by
    simp only [aligned, hprev, Option.map_some, Option.getD_some]
  exact ⟨rfl, hexpected, rfl, rfl, rfl, rfl, rfl, rfl, rfl, rfl, rfl⟩

/-- Settles O15: the four cases of the judgement exclude each other, and the move to NEGOTIATE is one between stopped
states. -/
theorem listenAcquiresAlignment : Obligations.ListenAcquiresAlignment :=
  ⟨listenJudgesSync, alignmentAcquiredNegotiates⟩

end Sys2Proof.LinkListen
end

section
/-! SUPPORT. Glides and saturation counters at a frame boundary (R60, R64): what a boundary makes of an active entry,
and where repeated glide steps stand. -/

namespace Sys2Proof.Glides

open Sys2Proof.Machine Sys2Proof.Laws

/-! ## Entries at a boundary -/

/-- R50: with no table to adopt, each entry is advanced in its position. -/
theorem get?_boundary {s t : State} (hqueue : s.fe.queue = []) (h : exec .feFrameBoundary s = .next t)
    (pos : Nat) : Table.get? t.fe.active pos =
      (Table.get? s.fe.active pos).map (ActiveEntry.advance s.fe.view s.readSource) := by
  obtain rfl : s.adoptOldest.computeFrame = t := Host.Outcome.next.inj h
  rw [RouteTable.adoptOldest_nil hqueue, RouteTable.computeFrame_active, get?_mapVal]

theorem saturated_iff (x : Int) : saturated x = true ↔ 8388607 < x ∨ x < -8388608 := by
  simp [saturated]

/-- R60, R64: a MIX entry's terms glide, and a saturated frame for a destination in reach is counted. -/
theorem advance_mix (v : Vector View 8) (read : Source → Slot) (d : Dest) (ts : List LiveTerm) (n : Nat)
    (r : Reach) : (ActiveEntry.mix d ts n r).advance v read = .mix d
      (ts.map fun x => ⟨x.source, glideStep x.current x.target, x.target⟩)
      (if d.inReach v = true ∧ (8388607 < mixShifted read ts ∨ mixShifted read ts < -8388608)
        then satInc n else n) r := by
  simp only [ActiveEntry.advance, Bool.and_eq_true, saturated_iff]
  rfl

theorem boundaryGlidesAndCounts : Piece.BoundaryGlidesAndCounts := by
  intro s t pos hqueue h
  have hget := get?_boundary hqueue h pos
  refine ⟨fun sp r hentry => ?_, fun d ts n r hentry => ?_⟩
  · rw [hget, hentry]
    rfl
  · rw [hget, hentry, Option.map_some, advance_mix]

/-! ## Glides -/

/-- R64: where a glide from `current` stands after `k` steps. -/
def glideAfter (current target k : Nat) : Nat :=
  if current < target then min (current + 4 * k) target else max (current - 4 * k) target

theorem glideStep_glideAfter (current target k : Nat) :
    glideStep (glideAfter current target k) target = glideAfter current target (k + 1) := by
  unfold glideStep glideAfter
  split_ifs <;> omega

theorem repeat_glideStep (current target k : Nat) :
    Nat.repeat (fun c => glideStep c target) k current = glideAfter current target k := by
  induction k with
  | zero =>
    simp only [Nat.repeat, glideAfter]
    split <;> omega
  | succ k ih => rw [Nat.repeat, ih, glideStep_glideAfter]

theorem glideReachesItsTarget : Piece.GlideReachesItsTarget := by
  intro current target
  simp only [repeat_glideStep]
  refine ⟨?reaches, fun k hk => ?notBefore, ?stays, ?up, ?down⟩
  case reaches =>
    unfold glideAfter
    split <;> omega
  case notBefore =>
    unfold glideAfter
    split <;> omega
  case stays =>
    unfold glideStep
    rw [if_neg (Nat.lt_irrefl target)]
    omega
  all_goals
    unfold glideStep
    split <;> omega

/-- Settles O29: a boundary advances each entry in its place, and the steps of a glide have a closed form. -/
theorem boundaryGlides : Obligations.BoundaryGlides := ⟨boundaryGlidesAndCounts, glideReachesItsTarget⟩

end Sys2Proof.Glides
end

section
/-! SUPPORT. One step of the part (log entry 2). -/

namespace Sys2Proof.Steps

open Sys2Proof.Machine

theorem step_of_pending {s : State} {c : Instr} {rest : List Instr} (h : s.pending = c :: rest) :
    step s = exec c { s with pending := rest } := by
  simp only [step, h]

/-- Settles O1: a step splits on the queue; the command in front of it is run on the state with the rest. -/
theorem stepRunsTheFrontCommand : Obligations.StepRunsTheFrontCommand :=
  ⟨fun _ _ => step_of_pending rfl, fun _ hnone => TimeBase.step_of_none_pending hnone⟩

end Sys2Proof.Steps
end
